-- ==== Sys2Proof/Word.lean ====
section
/-! DEFINITION. The word types of the device: bytes, 32-bit words and 64-bit words (R5). -/

namespace Sys2Proof

/-- One byte of memory. -/
abbrev Byte := BitVec 8

/-- A 32-bit register, descriptor or record word (R5). -/
abbrev Word := BitVec 32

/-- A 64-bit value: device time, mailbox values. -/
abbrev DWord := BitVec 64

end Sys2Proof
end

