-- ==== Sys2Proof/Syntax.lean ====
section
/-! DEFINITION. The commands of the block: one constructor per row of spec/opcode_table.json, with the row's operands.
A command is one whole step of the part (spec/95_what_each_step_holds.md). -/

namespace Sys2Proof

/-- Reader classes of Table 17.2 (R418). -/
inductive RClass where
  | fw | pf | vf (p : Nat) | bmc | bmcU | jtag
  deriving DecidableEq, Repr

/-- A descriptor of a step in flight: lead partition of its job, which step in flight (0 the older), table index (R70). -/
structure DescRef where
  lead : Nat
  run : Nat
  idx : Nat
  deriving DecidableEq, Repr

/-- The fields of a lane operation word other than OP (Table 06.2). -/
structure LaneOp where
  imm8 : Nat := 0
  part : Nat := 0
  stream : Nat := 0
  fmt : Nat := 0
  cvt : Nat := 0
  ty : Nat := 0
  cond : Nat := 0
  minv : Nat := 0
  msel : Nat := 0
  c : Nat := 0
  b : Nat := 0
  a : Nat := 0
  d : Nat := 0
  deriving DecidableEq, Repr

/-- A command of a Crema unit's stream: the unit (its pseudo-channel) and the place among the unfinished commands (R246). -/
structure CmdAt where
  pc : Nat
  k : Nat
  deriving DecidableEq, Repr

/-- Transport header of a received packet or message (R344, R354). -/
structure NetHdr where
  src : BitVec 128
  qp : Nat
  psn : Nat
  ce : Bool := false
  deriving DecidableEq, Repr

/-- A received Decant message (R384): its transport header and its bytes. -/
structure DecMsg where
  hdr : NetHdr
  bytes : List Byte
  deriving DecidableEq, Repr

/-- A received connection-management message on QP1 (R347): `port` is where it came in. -/
structure CmMsg where
  src : BitVec 128
  serviceId : BitVec 64 := 0
  remoteQpn : Nat := 0
  localQpn : Nat := 0
  psn : Nat := 0
  priv : List Byte := []
  deriving DecidableEq, Repr

/-- A PTP message as the time machine sees it (R362, R363): an announce that selects a source, or a sync with its offset. -/
structure PtpMsg where
  port : Nat
  domain : Nat
  select : Bool
  offset : Int
  deriving DecidableEq, Repr

/-- One reading of a sensor (R431): temperature in quarters of a degree and its reference check. -/
structure Reading where
  temp : Int
  refOk : Bool := true
  deriving DecidableEq, Repr

/-- RAT entry fields (Table 09.3), SIZE in units of 2 MiB. -/
structure RatFields where
  window : Nat := 0
  owner : Nat := 0
  base : Nat := 0
  size : Nat := 0
  pcsel : Nat := 0
  perm : Nat := 0
  dig : Bool := false
  nopat : Bool := false
  deriving DecidableEq, Repr

/-- Region class record (Table 15.4). -/
structure ClassRec where
  rat : Nat
  cls : Nat := 0
  sealIt : Bool := false
  sysidx : Nat := 0
  raddr : Nat := 0
  rkey : Nat := 0
  digtab : Nat := 0
  deriving DecidableEq, Repr

/-- Sender and tag of a firmware request (R423). -/
structure FwHdr where
  cls : RClass
  tag : Word := 0
  deriving DecidableEq, Repr

/-- Queue-pair context fields that a request writes (Table 14.3). -/
structure QpFields where
  st : Nat
  job : Nat
  purpose : Nat
  peer : Nat
  rqpn : Nat
  sndPsn : Nat
  rcvPsn : Nat
  port : Nat
  deriving DecidableEq, Repr

/-- Host aperture fields (R357): `fn` 0 is the PF, p + 1 is VF p + 1. -/
structure AptFields where
  valid : Bool
  base : Nat
  size : Nat
  rd : Bool
  wr : Bool
  fn : Nat
  deriving DecidableEq, Repr

/-- Location class of an uncorrectable on-die word (Table 15.2, Table 15.3). -/
inductive SramKind where
  | mgtMem | retention | flagStore | qpStore | keyTables | barista
  | scratchpad | accStore | partBuf | debugBuf
  deriving DecidableEq, Repr

/-- What the world gives at a start (R396 to R400, R408, R441): whether the flash answers, whether a slot write verifies, stacks that fail bring-up,
rows whose hard repair's fuses do not verify and suspect rows that fail their test (bank, row), stacks whose NORMAL margin is below 1 ns, the
compute die's slowdown in 0.01 %. -/
structure BootEnv where
  flashOk : Bool := true
  slotOk : Bool := true
  stackFail : List Nat := []
  hardFail : List (Nat × Nat) := []
  suspectFail : List (Nat × Nat) := []
  lowMargin : List Nat := []
  slow : Nat := 0
  deriving DecidableEq, Repr

/-- The commands: opcode_table.json row by row. -/
inductive Instr where
  -- descriptors (chapters 03 to 12, 19)
  | matmul (d : DescRef)
  | bTilePrefetch (d : DescRef)
  | steer (d : DescRef)
  | attnPrefill (d : DescRef)
  | attnDecode (d : DescRef)
  | cremaItemDispatch (core : Nat)
  | resultRecordMerge (core slot : Nat)
  | kvAppend (d : DescRef)
  | kvSeal (d : DescRef)
  | vlane (d : DescRef)
  | resultLand (core : Nat)
  -- lane operations (Table 06.4)
  | laneNop (core : Nat) (o : LaneOp)
  | laneAdd (core : Nat) (o : LaneOp)
  | laneSub (core : Nat) (o : LaneOp)
  | laneMul (core : Nat) (o : LaneOp)
  | laneFma (core : Nat) (o : LaneOp)
  | laneMax (core : Nat) (o : LaneOp)
  | laneMin (core : Nat) (o : LaneOp)
  | laneAbs (core : Nat) (o : LaneOp)
  | laneNeg (core : Nat) (o : LaneOp)
  | laneMov (core : Nat) (o : LaneOp)
  | laneSel (core : Nat) (o : LaneOp)
  | laneAnd (core : Nat) (o : LaneOp)
  | laneOr (core : Nat) (o : LaneOp)
  | laneXor (core : Nat) (o : LaneOp)
  | laneShl (core : Nat) (o : LaneOp)
  | laneShr (core : Nat) (o : LaneOp)
  | laneSra (core : Nat) (o : LaneOp)
  | laneCmp (core : Nat) (o : LaneOp)
  | laneMlog (core : Nat) (o : LaneOp)
  | laneMcount (core : Nat) (o : LaneOp)
  | laneExp (core : Nat) (o : LaneOp)
  | laneLog (core : Nat) (o : LaneOp)
  | laneRcp (core : Nat) (o : LaneOp)
  | laneRsqrt (core : Nat) (o : LaneOp)
  | laneCvt (core : Nat) (o : LaneOp)
  | laneScan (core : Nat) (o : LaneOp)
  | laneSegscan (core : Nat) (o : LaneOp)
  | laneCompress (core : Nat) (o : LaneOp)
  | laneExpand (core : Nat) (o : LaneOp)
  | laneLd (core : Nat) (o : LaneOp)
  | laneLds (core : Nat) (o : LaneOp)
  | laneAccld (core : Nat) (o : LaneOp)
  | laneSt (core : Nat) (o : LaneOp)
  | laneSts (core : Nat) (o : LaneOp)
  | laneStc (core : Nat) (o : LaneOp)
  | sample (d : DescRef)
  | move (d : DescRef)
  | gather (d : DescRef)
  | scatter (d : DescRef)
  | codecScan (d : DescRef)
  | codecEnc (d : DescRef)
  | codecDec (d : DescRef)
  | cremaSeq (d : DescRef)
  | cremaGemv (d : DescRef)
  | flagSet (d : DescRef)
  | flagSetClear (d : DescRef)
  | flagWait (d : DescRef)
  | flagWaitSatisfied (d : DescRef)
  | flagWaitTimeout (d : DescRef)
  | fence (d : DescRef)
  | drain (d : DescRef)
  | atomicAdd (d : DescRef)
  | atomicMax (d : DescRef)
  | atomicMin (d : DescRef)
  | atomicSwap (d : DescRef)
  | atomicCas (d : DescRef)
  | atomicAnd (d : DescRef)
  | atomicOr (d : DescRef)
  | netWrite (d : DescRef)
  | netRead (d : DescRef)
  | netSend (d : DescRef)
  | watch (d : DescRef)
  | stepEnd (d : DescRef)
  | descriptorComplete (d : DescRef)
  -- Crema units (chapter 10)
  | cremaPieceQueue (pc : Nat)
  | cremaNop (c : CmdAt)
  | stream (c : CmdAt)
  | row (c : CmdAt)
  | act (c : CmdAt)
  | fold (c : CmdAt)
  | store (c : CmdAt)
  | emit (c : CmdAt)
  | refreshBreak (pc : Nat)
  | cremaBudgetWindow
  | rampFall (stack : Nat)
  | rampRise (stack : Nat)
  -- Barista (chapter 11)
  | request (lead : Nat)
  | cancel (lead : Nat)
  | adapterLoad (lead : Nat)
  | adapterRetire (lead : Nat)
  | ringSet (lead : Nat)
  | stepFormation (lead : Nat)
  | stepLaunch (lead : Nat)
  | commit (lead : Nat)
  | heldRecordWrite (lead ring : Nat)
  | demotion (lead : Nat)
  | resourceReturn (lead : Nat)
  -- loader and partition registers (chapters 04, 13)
  | prtLoaddb (cls : RClass) (p : Nat)
  | load
  | unload
  | prtReqdb (cls : RClass) (p : Nat)
  | prtFlagsetSet (cls : RClass) (p flag : Nat)
  | prtFlagsetClear (cls : RClass) (p flag : Nat)
  | prtRingset (cls : RClass) (p ring : Nat)
  | prtTruncCtl (cls : RClass) (p : Nat) (nonet : Bool)
  | faultResume (cls : RClass) (p slot : Nat) (last : Bool)
  | retry (cls : RClass) (p slot : Nat) (last : Bool)
  | fail (cls : RClass) (p slot : Nat) (last : Bool)
  | faultHoldExpiry (p k : Nat)
  | fwUeResolve (p k : Nat)
  | form (cls : RClass) (p : Nat)
  | dissolve (cls : RClass) (p : Nat)
  | suspend (cls : RClass) (p : Nat)
  | jobResume (cls : RClass) (p : Nat)
  | hold (cls : RClass) (p : Nat)
  | release (cls : RClass) (p : Nat)
  | regulatorRefill
  -- registers (chapter 17)
  | registerWrite (cls : RClass) (off : Nat) (value : DWord) (wide : Bool)
  | rcRead (cls : RClass) (off : Nat) (wide : Bool)
  | glbMbxSel (cls : RClass) (value : Word)
  | mbxData7Read (cls : RClass)
  | dbgRingConsWrite (cls : RClass) (off : Nat) (value : Word)
  | mgtReset (cls : RClass) (recovery : Bool) (env : BootEnv)
  | mgtRecovCtl (cls : RClass) (write : Bool) (env : BootEnv)
  -- firmware requests (Table 17.4)
  | regionSet (h : FwHdr) (rat : Nat) (f : RatFields) (rec : Option ClassRec)
  | regionClear (h : FwHdr) (rat : Nat)
  | regionClass (h : FwHdr) (rec : ClassRec)
  | classSet (h : FwHdr) (index : Nat) (crema : Bool)
  | vfBar2 (h : FwHdr) (vf base : Nat)
  | qpSet (h : FwHdr) (qp : Nat) (f : QpFields)
  | keySet (h : FwHdr) (key : Nat) (valid : Bool) (job rat : Nat) (nrd nwr : Bool)
  | peerSet (h : FwHdr) (first : Nat) (entries : List (BitVec 128 × Bool))
  | apertureSet (h : FwHdr) (part aper : Nat) (f : AptFields)
  | pairSet (h : FwHdr) (rec : List Byte)
  | unpair (h : FwHdr) (lead : Nat)
  | jobRelease (h : FwHdr) (lead : Nat)
  | cremaEnable (h : FwHdr) (pc : Nat)
  | scrubSet (h : FwHdr) (patrol digest : Nat)
  | settingWrite (h : FwHdr) (off : Nat) (mask value : Word)
  | configRead (h : FwHdr) (copyB : Bool) (off len : Nat)
  | configWriteStart (h : FwHdr)
  | configWriteData (h : FwHdr) (off : Nat) (bytes : List Byte)
  | configWriteCommit (h : FwHdr)
  | fwUpdate (h : FwHdr) (addr size : Nat) (programmed : Bool)
  | attest (h : FwHdr) (nonce : List Byte)
  | certRead (h : FwHdr)
  | arvRaise (h : FwHdr) (target : Nat)
  | keyRevoke (h : FwHdr) (slot signer : Nat) (pubkey sig : List Byte)
  | layoutClass (h : FwHdr) (n : Nat)
  | ceilingRaise (h : FwHdr) (watts : Nat)
  | bmcChallenge (h : FwHdr)
  | bmcAuth (h : FwHdr) (key sig : List Byte)
  | bmcEnd (h : FwHdr)
  | bmcSessionTimeout
  -- stacks (chapter 09)
  | stkClasschg (cls : RClass) (index : Nat) (crema : Bool)
  | classFillDone
  | ratEntryWrite (cls : RClass) (n word : Nat) (value : Word)
  | rprNop (cls : RClass) (stack : Nat)
  | readMap (cls : RClass) (stack index : Nat)
  | softRow (cls : RClass) (stack : Nat)
  | hardRow (cls : RClass) (stack : Nat) (fuseOk : Bool)
  | clearSoft (cls : RClass) (stack : Nat)
  | rawRead (cls : RClass) (stack : Nat)
  | rawWrite (cls : RClass) (stack : Nat)
  | timStepCtl (cls : RClass)
  | refresh (pc bank : Nat) (gap : Bool)
  | refreshWindowEnd (pc : Nat)
  | wcbIdleFlush (stack seg : Nat)
  | selfRefreshEntry
  | selfRefreshExit (stack : Nat)
  -- scrubbing and repair (chapter 15)
  | patrolRead (stack : Nat)
  | digestScrub (region : Bool) (a b : Nat) (second : Bool)
  | fwRowRepair (pc rowNo : Nat)
  | sramRemap (k : SramKind) (inst unit : Nat) (uncorrectable : Bool)
  -- network (chapter 14)
  | send (h : NetHdr) (data : List Byte) (imm : Option Word)
  | rdmaWrite (h : NetHdr) (va : Nat) (rkey : Word) (data : List Byte)
  | writeWithImmediate (h : NetHdr) (va : Nat) (rkey : Word) (data : List Byte) (imm : Word)
  | rdmaRead (h : NetHdr) (va : Nat) (rkey : Word) (len : Nat)
  | roceAtomic (h : NetHdr)
  | ack (qp psn : Nat) (data : List Byte)
  | nak (qp psn code : Nat)
  | rnrNak (qp psn timer : Nat)
  | cnp (qp : Nat)
  | pauseFrame (die port prio : Nat) (pause : Bool)
  | pfcWatchdog (die port prio : Nat)
  | ptpMessage (m : PtpMsg)
  | firmwareFrame (port kind : Nat) (payload : List Byte)
  | frameDrop (die line : Nat)
  | req (m : CmMsg)
  | rep (m : CmMsg)
  | rtu (m : CmMsg)
  | rej (m : CmMsg) (reason : Nat)
  | ackTimeout (qp : Nat)
  | ccEpoch (qp : Nat)
  | portDown (die port : Nat)
  | portUp (die port : Nat)
  | trainingRetry (die port : Nat)
  -- pairs (chapter 15)
  | delta (m : DecMsg)
  | chunk (m : DecMsg)
  | heartbeat (m : DecMsg)
  | sync (m : DecMsg)
  | depart (m : DecMsg)
  | hello (m : DecMsg)
  | heartbeatSend (lead : Nat)
  | partnerLost (lead : Nat)
  | pairRetry (lead : Nat)
  -- time (chapter 14), event pin (chapter 20)
  | holdoverEntry
  | holdoverExpiry
  | ppsIn (nsOff : Nat)
  | ppsOut
  | alertHoldEnd
  -- PCI Express (chapter 14)
  | pfBar2Access (off : Nat) (write : Option (List Byte)) (len : Nat)
  | vfBar2Access (p off : Nat) (write : Option (List Byte)) (len : Nat)
  | vfFlr (p : Nat)
  | pfFlr
  | perst (low : Bool)
  | completionTimeout (tag : Nat)
  | malformedTlp (line : Nat)
  | linkRetrain (gen width : Nat)
  -- temperature and power (chapter 18)
  | sensorSample (readings : List (Option Reading))
  | powerLoop (pkg cd stk : Nat)
  | railMeasure (mv cur pw : List Nat)
  | vrAlert (low : Bool)
  | roastMeasure (slow : Nat)
  -- power and reset (chapters 16, 20)
  | pwrgoodRise (testEn : Bool) (smbAddr railsOk : Nat)
  | pwrgoodFall
  | railCheckRetry (railsOk : Nat)
  | powerOnReset (env : BootEnv)
  | resetN (us : Nat) (env : BootEnv)
  | modelFetch (lead : Nat) (manifest : List Byte) (programs : List (List Byte)) (blocks : List (List Byte))
  | journalWrite (ok : Bool)
  | configScan
  | telemetrySnapshot
  | traceDrain (p : Nat)
  | partitionSleep (lead : Nat)
  | partitionWake (lead : Nat)
  | deepSleep (p : Nat)
  -- SMBus and JTAG (chapter 20)
  | read32 (off : Nat)
  | write32 (off : Nat) (value : Word)
  | snapshotRead
  | pinstat
  | extest (pins : List Bool)
  | idcode
  | samplePreload (pins : List Bool)
  | clamp
  | highz
  | extestPulse (pins : List Bool)
  | extestTrain (pins : List Bool)
  | regacc (dr : BitVec 64)
  | bypass (tdi : Bool)
  -- later rows of the table
  | pauseWatchdogRelease (die port prio : Nat)
  | rnrTimerExpiry (qp : Nat)
  | dissolveHoldExpiry (lead : Nat)
  | deviceFatalError
  | hostReadCompletion (tag : Nat) (ok : Bool) (data : List Byte)
  deriving DecidableEq, Repr

end Sys2Proof
end

