-- ==== Sys2Proof/Decode.lean ====
section
/-! DEFINITION. The command that a word of the opcode table spells. Every row of spec/opcode_table.json gives no bits (its `fields` are
empty): the block's commands come from outside as whole steps, so no word spells one. -/

namespace Sys2Proof

/-- The command spelt by a word of `nbits` bits: none, since no row of the table gives bits. -/
def decodeTableWord (_nbits _w : Nat) : Option Instr := none

end Sys2Proof
end

