-- ==== Sys2Proof/Config.lean ====
section
/-! DEFINITION. What one device fixes and the manual leaves open: every constant here is a FREE VALUE with no body, so
nothing proved in Lean can rest on what it is (log entry 1). A draw number (the counter `State.free`) makes each use fresh. -/

namespace Sys2Proof.Config

/-- An unspecified 32-bit value: draw number, then position within the draw (R110, R238). -/
opaque freeWord : Nat → Nat → Word
/-- An unspecified byte (R155, R235). -/
opaque freeByte : Nat → Nat → Byte
/-- The 16 random bits of one stochastic rounding: draw, element (R45). -/
opaque srBits : Nat → Nat → BitVec 16
/-- The place at which the next term joins a reduction whose order is not specified (R40, R131, R182, R243). -/
opaque order : Nat → Nat → Nat
/-- A candidate for an accumulation kept wider than FP32; used only where it is no less accurate than a sequential sum (R40). -/
opaque wideSum : Nat → Nat → Word
/-- A candidate result of EXP (0), LOG (1), RCP (2) and RSQRT (3); used only where it meets R49. -/
opaque transc : Nat → Word → Word
/-- The 24 bits of SAMPLE's counter-based generator: SEED, REQ and position (R143). -/
opaque sampleBits : Word → Nat → Nat → BitVec 24
/-- The next SEED of a job: the number of seeds drawn before it and the time the job was formed (R272). -/
opaque seed : Nat → Nat → Word
/-- The program ID that firmware gives: nonzero by construction of its use (R53). -/
opaque programId : Nat → Word
/-- Verification time of a program, in microseconds; at most the bound of R94 at its use. -/
opaque verifyUs : Nat → Nat
/-- The 16-byte resumable cursor of a fault record (R77: opaque). -/
opaque cursor : Nat → BitVec 128
/-- The poison syndrome (R221, STK_ECCINFO.POISON, a fuse). -/
opaque poison : BitVec 16
/-- The serial number (R412, a fuse). -/
opaque serial : BitVec 64
/-- SHA3-256 of the public key of root-key slot n (R397, fuses). -/
opaque rootKeyDigest : Nat → List Byte
/-- ML-DSA-44 verification of a signature by a public key over a digest (R397, R421: FIPS 204 is cited, not given). -/
opaque mldsaVerify : List Byte → List Byte → List Byte → Bool
/-- The ML-DSA-44 signature of the identity key over a digest (R413). -/
opaque mldsaSign : List Byte → List Byte
/-- The identity public key derived from the fused secret (R412). -/
opaque identityKey : List Byte
/-- MAC address of a port (R342, fuses). -/
opaque portMac : Nat → BitVec 48
/-- The nonce of a BMC challenge (R421). -/
opaque nonce : Nat → List Byte
/-- TAG given to a key when firmware changes it (R346). -/
opaque keyTag : Nat → BitVec 20
/-- The remote's or the device's first packet sequence number of a connection (R347). -/
opaque firstPsn : Nat → BitVec 24
/-- The transform of a linear VCORE setpoint into PMBus VOUT_COMMAND data (R463). -/
opaque voutLinear : Nat → BitVec 16
/-- Bytes that NET_RXBYTES and NET_TXBYTES count for a packet that carries so many payload bytes (the framing counted is not given). -/
opaque wireBytes : Nat → Nat
/-- Number that one read of a byte by an overlapping descriptor takes: true for the new value (R133, R153). -/
opaque newValue : Nat → Nat → Bool

end Sys2Proof.Config
end

