-- ==== Sys2Proof/Machine/Flags.lean ====
section
/-! DEFINITION. Number formats, exact values, rounding and the sticky flags (chapter 02: R32 to R50). -/

namespace Sys2Proof.Machine

/-- Sticky flags in the order of the completion record (Table 03.18): bit 0 NV, 1 OF, 2 UF, 3 NX, 4 DZ. -/
abbrev Sticky := BitVec 5

def flNV : Sticky := 1#5
def flOF : Sticky := 2#5
def flUF : Sticky := 4#5
def flNX : Sticky := 8#5
def flDZ : Sticky := 16#5

def flIf (b : Bool) (f : Sticky) : Sticky := if b then f else 0#5

/-- A value before rounding (R33): NaN, a signed infinity, or a sign with magnitude `m * 2^e` (the sign of zero is kept). -/
inductive Num where
  | nan
  | inf (neg : Bool)
  | fin (neg : Bool) (m : Nat) (e : Int)
  deriving DecidableEq, Repr

/-- Layout of a floating-point format (Table 02.1, Table 02.2). -/
structure FFmt where
  eb : Nat
  mb : Nat
  bias : Nat
  hasInf : Bool
  e4m3 : Bool
  deriving DecidableEq, Repr

/-- The floating-point element formats by code (Table 02.1); MX codes give their element's layout. -/
def ffmt : Nat → Option FFmt
  | 0 => some ⟨8, 23, 127, true, false⟩
  | 1 => some ⟨8, 7, 127, true, false⟩
  | 2 => some ⟨5, 10, 15, true, false⟩
  | 3 => some ⟨4, 3, 7, false, true⟩
  | 4 => some ⟨5, 2, 15, true, false⟩
  | 5 => some ⟨4, 3, 7, false, true⟩
  | 6 => some ⟨3, 2, 3, false, false⟩
  | 7 => some ⟨2, 3, 1, false, false⟩
  | 8 => some ⟨2, 1, 1, false, false⟩
  | _ => none

def fp32 : FFmt := ⟨8, 23, 127, true, false⟩

/-- Element bits of a format code (Table 02.1). -/
def fmtBits : Nat → Nat
  | 0 => 32 | 1 => 16 | 2 => 16 | 3 => 8 | 4 => 8 | 5 => 8 | 6 => 6 | 7 => 6 | 8 => 4
  | 9 => 8 | 10 => 4 | 11 => 32 | 12 => 8 | _ => 0

def fmtOk (c : Nat) : Bool := c ≤ 12
def fmtIsMx (c : Nat) : Bool := 5 ≤ c && c ≤ 8
def fmtIsInt (c : Nat) : Bool := 9 ≤ c && c ≤ 12
def fmtIsFloat (c : Nat) : Bool := c ≤ 8

/-- Smallest and largest value of an integer format (R32). -/
def intRange : Nat → Int × Int
  | 9 => (-128, 127)
  | 10 => (-8, 7)
  | 11 => (-2147483648, 2147483647)
  | 12 => (0, 255)
  | _ => (0, 0)

/-- emax of Table 02.1's MX element formats (R46). -/
def mxEmax : Nat → Int
  | 5 => 8 | 6 => 4 | 7 => 2 | 8 => 2 | _ => 0

namespace FFmt

def emin (f : FFmt) : Int := 1 - (f.bias : Int) - f.mb
/-- Largest finite magnitude as mantissa and exponent. -/
def maxM (f : FFmt) : Nat := if f.e4m3 then 2 ^ (f.mb + 1) - 2 else 2 ^ (f.mb + 1) - 1
def maxE (f : FFmt) : Int := (if f.hasInf then 2 ^ f.eb - 2 else 2 ^ f.eb - 1 : Nat) - (f.bias : Int) - f.mb
def nanBits (f : FFmt) : Nat := if f.e4m3 then 2 ^ (f.eb + f.mb) - 1 else (2 ^ f.eb - 1) * 2 ^ f.mb + 2 ^ (f.mb - 1)
def infBits (f : FFmt) (neg : Bool) : Nat := (if neg then 2 ^ (f.eb + f.mb) else 0) + (2 ^ f.eb - 1) * 2 ^ f.mb

/-- The value of an encoding (R33, R34 for elements). -/
def decode (f : FFmt) (x : Nat) : Num :=
  let neg := x / 2 ^ (f.eb + f.mb) % 2 == 1
  let ex := x / 2 ^ f.mb % 2 ^ f.eb
  let ma := x % 2 ^ f.mb
  if f.hasInf && ex == 2 ^ f.eb - 1 then (if ma == 0 then .inf neg else .nan)
  else if f.e4m3 && ex == 2 ^ f.eb - 1 && ma == 2 ^ f.mb - 1 then .nan
  else if ex == 0 then .fin neg ma f.emin
  else .fin neg (2 ^ f.mb + ma) ((ex : Int) - f.bias - f.mb)

end FFmt

/-- Compare `m1 * 2^e1` with `m2 * 2^e2`. -/
def cmpMag (m1 : Nat) (e1 : Int) (m2 : Nat) (e2 : Int) : Ordering :=
  if e1 ≤ e2 then compare m1 (m2 * 2 ^ (e2 - e1).toNat) else compare (m1 * 2 ^ (e1 - e2).toNat) m2

/-- Round `m * 2^e` to a multiple of `2^q`: to nearest, ties to even (`none`), or stochastically with 16 bits (R45). Answers
the multiple and whether it is exact. -/
def roundAt (mode : Option Nat) (m : Nat) (e q : Int) : Nat × Bool :=
  if q ≤ e then (m * 2 ^ (e - q).toNat, true)
  else
    let sh := (q - e).toNat
    let lo := m / 2 ^ sh
    let rem := m % 2 ^ sh
    let up : Bool := match mode with
      | none => 2 * rem > 2 ^ sh || (2 * rem == 2 ^ sh && lo % 2 == 1)
      | some r => rem != 0 && rem * 65536 + (r % 65536) * 2 ^ sh ≥ 2 ^ sh * 65536
    (if up then lo + 1 else lo, rem == 0)

/-- The spacing exponent of a format at a magnitude (subnormals at their fixed spacing, R44). -/
def FFmt.quantum (f : FFmt) (m : Nat) (e : Int) : Int := max ((Nat.log2 m : Int) + e - f.mb) f.emin

/-- Bits of a magnitude `m * 2^q` that the format holds. -/
def FFmt.pack (f : FFmt) (neg : Bool) (m : Nat) (q : Int) : Nat :=
  let s := if neg then 2 ^ (f.eb + f.mb) else 0
  if m == 0 then s
  else
    let q' := if m ≥ 2 ^ (f.mb + 1) then q + 1 else q
    let m' := if m ≥ 2 ^ (f.mb + 1) then m / 2 else m
    if m' < 2 ^ f.mb then s + m' else s + (q' + f.mb + f.bias).toNat * 2 ^ f.mb + (m' - 2 ^ f.mb)

/-- Conversion to a floating-point format (R44): rounding mode, NOSAT, value; the bits and the flags of R50. -/
def FFmt.narrow (f : FFmt) (mode : Option Nat) (nosat : Bool) : Num → Nat × Sticky
  | .nan => (f.nanBits, 0#5)
  | .inf neg =>
    if nosat then (if f.hasInf then (f.infBits neg, 0#5) else (f.nanBits, flNV))
    else (f.pack neg f.maxM f.maxE, flOF ||| flNX)
  | .fin neg m e =>
    let q := f.quantum m e
    let (r, exact) := roundAt mode m e q
    if cmpMag r q f.maxM f.maxE == .gt then
      if nosat then (if f.hasInf then (f.infBits neg, flOF ||| flNX) else (f.nanBits, flOF ||| flNX ||| flNV))
      else (f.pack neg f.maxM f.maxE, flOF ||| flNX)
    else
      let tiny := m != 0 && cmpMag m e (2 ^ f.mb) f.emin == .lt
      (f.pack neg r q, flIf (!exact) flNX ||| flIf (tiny && !exact) flUF)

/-- Conversion to an integer format (R47, Table 02.5): the value and the flags. -/
def toIntFmt (c : Nat) (mode : Option Nat) : Num → Int × Sticky
  | .nan => (0, flNV)
  | .inf neg => ((if neg then (intRange c).1 else (intRange c).2), flNV)
  | .fin neg m e =>
    let (r, exact) := roundAt mode m e 0
    let v : Int := if neg then -(r : Int) else r
    if v < (intRange c).1 then ((intRange c).1, flNV)
    else if (intRange c).2 < v then ((intRange c).2, flNV)
    else (v, flIf (!exact) flNX)

def Num.ofInt (v : Int) : Num := .fin (v < 0) v.natAbs 0

/-- Two's-complement (or unsigned) reading of the low bits of an integer format. -/
def intOfBits (c x : Nat) : Int :=
  let b := fmtBits c
  let y := x % 2 ^ b
  if c == 12 then y else if y ≥ 2 ^ (b - 1) then (y : Int) - 2 ^ b else y

def bitsOfInt (b : Nat) (v : Int) : Nat := (v % (2 ^ b : Nat)).toNat

/-- The value of an element's bits in a format that is not MX, or of an MX element under scale 1 (R62). -/
def decodeElem (c x : Nat) : Num :=
  if fmtIsInt c then .ofInt (intOfBits c x) else
    match ffmt c with
    | some f => f.decode x
    | none => .nan

/-- An MX element under its block's scale byte (R34). -/
def decodeMx (c scale x : Nat) : Num :=
  if scale == 255 then .nan else
    match decodeElem c x with
    | .fin n m e => .fin n m (e + scale - 127)
    | v => v

/-- Conversion control of R43: the rounding mode for one element, given 16 fresh bits. -/
def cvtMode (cvt r : Nat) : Option Nat := if cvt % 2 == 1 then some r else none
def cvtNosat (cvt : Nat) : Bool := cvt / 2 % 2 == 1

/-- Conversion of a value to an element of a format that is not MX (R43, R44, R47). -/
def encodeElem (c cvt r : Nat) (v : Num) : Nat × Sticky :=
  if fmtIsInt c then
    let (i, fl) := toIntFmt c (cvtMode cvt r) v
    (bitsOfInt (fmtBits c) i, fl)
  else match ffmt c with
    | some f => f.narrow (cvtMode cvt r) (cvtNosat cvt) v
    | none => (0, 0#5)

/-- floor(log2) of a nonzero magnitude. -/
def log2Mag (m : Nat) (e : Int) : Int := (Nat.log2 m : Int) + e

def Num.isBad : Num → Bool
  | .fin _ _ _ => false
  | _ => true

def Num.maxMag : List Num → Nat × Int
  | [] => (0, 0)
  | .fin _ m e :: t => let (m', e') := Num.maxMag t; if cmpMag m e m' e' == .gt then (m, e) else (m', e')
  | _ :: t => Num.maxMag t

/-- The E8M0 scale of a block (R46). -/
def mxScale (c : Nat) (xs : List Num) : Nat :=
  if xs.any Num.isBad then 255
  else
    let (m, e) := Num.maxMag xs
    if m == 0 then 0 else (min (max (log2Mag m e - mxEmax c + 127) 0) 254).toNat

/-- One element under a chosen scale: rounding always saturates (R46). -/
def mxElem (c scale cvt r : Nat) (v : Num) : Nat × Sticky :=
  match v, ffmt c with
  | .fin n m e, some f => f.narrow (cvtMode cvt r) false (.fin n m (e - (scale : Int) + 127))
  | _, _ => (0, 0#5)

/-- Is every value of a block a zero of either sign (amax = 0 in R46)? -/
def allZero (xs : List Num) : Bool := xs.all (fun v => match v with | .fin _ m _ => m == 0 | _ => false)

/-- A block of up to 32 values converted to an MX format: scale, elements, flags; `r i` are the bits of element i (R44, R46). All elements of
an all-zero block are +0. The element bits of a NaN block are zero: R46 gives its scale only (DESIGN CHOICE, log entry 131). -/
def mxBlock (c cvt : Nat) (r : Nat → Nat) (xs : List Num) : Nat × List Nat × Sticky :=
  let s := mxScale c xs
  if allZero xs then (0, xs.map (fun _ => 0), 0#5)
  else if s == 255 then (255, xs.map (fun _ => 0), flIf (xs.any (fun v => match v with | .inf _ => true | _ => false)) flNV)
  else
    let ys := xs.zipIdx.map (fun (v, i) => mxElem c s cvt (r i) v)
    (s, ys.map Prod.fst, ys.foldl (fun a y => a ||| y.2) 0#5)

/-! FP32 arithmetic (R40, R48): every result rounds once to nearest, ties to even; overflow becomes infinity. -/

def num32 (x : Word) : Num := fp32.decode x.toNat
def rnd32 (v : Num) : Word × Sticky := let (b, f) := fp32.narrow none true v; (BitVec.ofNat 32 b, f)
def qnan32 : Word := 0x7FC00000#32
def isNan32 (x : Word) : Bool := num32 x == .nan

/-- Exact sum of two magnitudes with signs; an exact zero sum of unlike signs is +0 (IEEE 754, R48). -/
def addFin (n1 : Bool) (m1 : Nat) (e1 : Int) (n2 : Bool) (m2 : Nat) (e2 : Int) : Num :=
  let e := min e1 e2
  let a : Int := (m1 * 2 ^ (e1 - e).toNat : Nat)
  let b : Int := (m2 * 2 ^ (e2 - e).toNat : Nat)
  let s := (if n1 then -a else a) + (if n2 then -b else b)
  if s == 0 then .fin (n1 && n2) 0 e else .fin (s < 0) s.natAbs e

/-- Exact sum under Table 02.5; the flag is NV for +∞ + −∞. -/
def addNum : Num → Num → Num × Sticky
  | .nan, _ => (.nan, 0#5)
  | _, .nan => (.nan, 0#5)
  | .inf a, .inf b => if a == b then (.inf a, 0#5) else (.nan, flNV)
  | .inf a, _ => (.inf a, 0#5)
  | _, .inf b => (.inf b, 0#5)
  | .fin n1 m1 e1, .fin n2 m2 e2 => (addFin n1 m1 e1 n2 m2 e2, 0#5)

/-- Exact product under Table 02.5; the flag is NV for 0 × ∞ (R39). -/
def mulNum : Num → Num → Num × Sticky
  | .nan, _ => (.nan, 0#5)
  | _, .nan => (.nan, 0#5)
  | .inf a, .inf b => (.inf (a != b), 0#5)
  | .inf a, .fin n m _ => if m == 0 then (.nan, flNV) else (.inf (a != n), 0#5)
  | .fin n m _, .inf b => if m == 0 then (.nan, flNV) else (.inf (n != b), 0#5)
  | .fin n1 m1 e1, .fin n2 m2 e2 => (.fin (n1 != n2) (m1 * m2) (e1 + e2), 0#5)

def negNum : Num → Num
  | .nan => .nan
  | .inf a => .inf (!a)
  | .fin n m e => .fin (!n) m e

def fin32 (p : Num × Sticky) : Word × Sticky := let (w, f) := rnd32 p.1; (w, f ||| p.2)

def fadd (a b : Word) : Word × Sticky := fin32 (addNum (num32 a) (num32 b))
def fsub (a b : Word) : Word × Sticky := fin32 (addNum (num32 a) (negNum (num32 b)))
def fmul (a b : Word) : Word × Sticky := fin32 (mulNum (num32 a) (num32 b))

/-- a × b + c with one rounding; any NaN operand gives the canonical NaN without a flag (R48). -/
def ffmaNum (a b c : Num) : Num × Sticky :=
  if a == .nan || b == .nan || c == .nan then (.nan, 0#5)
  else
    let (p, f) := mulNum a b
    if p == .nan then (.nan, f) else addNum p c

def ffma (a b c : Word) : Word × Sticky := fin32 (ffmaNum (num32 a) (num32 b) (num32 c))

/-- a < b on values that are not NaN; zeros are equal. -/
def Num.lt : Num → Num → Bool
  | .nan, _ => false
  | _, .nan => false
  | .inf a, .inf b => a && !b
  | .inf a, _ => a
  | _, .inf b => !b
  | .fin n1 m1 e1, .fin n2 m2 e2 =>
    if m1 == 0 && m2 == 0 then false
    else match n1 && m1 != 0, n2 && m2 != 0 with
      | true, false => true
      | false, true => false
      | false, false => cmpMag m1 e1 m2 e2 == .lt
      | true, true => cmpMag m1 e1 m2 e2 == .gt

def Num.eqv (a b : Num) : Bool := a != .nan && b != .nan && !a.lt b && !b.lt a

/-- max and min of Table 02.5: NaN wins, max(+0, −0) is +0 and min is −0. -/
def fmaxW (a b : Word) : Word :=
  if isNan32 a || isNan32 b then qnan32
  else if (num32 a).lt (num32 b) then b
  else if (num32 b).lt (num32 a) then a
  else if a.msb then b else a

def fminW (a b : Word) : Word :=
  if isNan32 a || isNan32 b then qnan32
  else if (num32 a).lt (num32 b) then a
  else if (num32 b).lt (num32 a) then b
  else if a.msb then a else b

def fabsW (a : Word) : Word := if isNan32 a then qnan32 else a &&& 0x7FFFFFFF#32
def fnegW (a : Word) : Word := if isNan32 a then qnan32 else a ^^^ 0x80000000#32

def ninf32 : Word := 0xFF800000#32
def pinf32 : Word := 0x7F800000#32
def one32 : Word := 0x3F800000#32

/-- FP32 division, rounded to nearest, ties to even (R174); the quotient is formed with a sticky bit below 100 bits. -/
def fdiv (a b : Word) : Word × Sticky :=
  match num32 a, num32 b with
  | .nan, _ => (qnan32, 0#5)
  | _, .nan => (qnan32, 0#5)
  | .inf _, .inf _ => (qnan32, flNV)
  | .inf x, .fin n _ _ => ((if x != n then ninf32 else pinf32), 0#5)
  | .fin n _ _, .inf y => ((if n != y then 0x80000000#32 else 0#32), 0#5)
  | .fin n1 m1 e1, .fin n2 m2 e2 =>
    if m2 == 0 then (if m1 == 0 then (qnan32, flNV) else ((if n1 != n2 then ninf32 else pinf32), flDZ))
    else
      let q := m1 * 2 ^ 100 / m2
      let st := if m1 * 2 ^ 100 % m2 == 0 then 0 else 1
      rnd32 (.fin (n1 != n2) (2 * q + st) (e1 - e2 - 101))

/-! Transcendental operations (R49): the result is a free value held inside the error bound of Table 02.6. -/

def ln2Fixed : Nat := 1013035739299659071135698605846798551586536899366 -- floor(ln 2 * 2^160)

def mulFix (a b : Nat) : Nat := a * b / 2 ^ 160

/-- Σ rⁱ/i! in 160-bit fixed point for 0 ≤ r < 1. -/
def expSeries (r : Nat) : Nat → Nat → Nat → Nat
  | 0, _, _ => 0
  | k + 1, i, t => t + expSeries r k (i + 1) (mulFix t r / i)

/-- e^x as mantissa and exponent, to about 150 bits; far outside FP32's range the exponent alone says so. -/
def expMag (neg : Bool) (m : Nat) (e : Int) : Nat × Int :=
  if m == 0 then (1, 0)
  else if cmpMag m e 256 0 == .gt then (1, if neg then -400 else 400)
  else
    let x : Nat := if e + 160 ≥ 0 then m * 2 ^ (e + 160).toNat else m / 2 ^ (-(e + 160)).toNat
    let xi : Int := if neg then -(x : Int) else x
    let k := xi / (ln2Fixed : Int)
    let r := (xi - k * (ln2Fixed : Int)).toNat
    (expSeries r 60 1 (2 ^ 160), k - 160)

/-- Σ z^(2i+1)/(2i+1) in 160-bit fixed point. -/
def atanhSeries (z2 : Nat) : Nat → Nat → Nat → Nat
  | 0, _, _ => 0
  | k + 1, i, t => t / (2 * i + 1) + atanhSeries z2 k (i + 1) (mulFix t z2)

/-- ln(m * 2^e) in units of 2^-160. -/
def lnFixed (m : Nat) (e : Int) : Int :=
  let l := Nat.log2 m
  let f := m * 2 ^ 160 / 2 ^ l
  let z := (f - 2 ^ 160) * 2 ^ 160 / (f + 2 ^ 160)
  ((l : Int) + e) * (ln2Fixed : Int) + 2 * (atanhSeries (mulFix z z) 60 0 z : Nat)

/-- |a − b| ≤ tol on exact finite values. -/
def withinMag (a b : Num) (tm : Nat) (te : Int) : Bool :=
  match addNum a (negNum b) with
  | (.fin _ m e, _) => cmpMag m e tm te != .gt
  | _ => false

/-- A result inside a bound: the free candidate where it is within `tol` of the (very nearly exact) value, else the value
rounded to nearest. -/
def boundedFree (cand : Word) (v : Num) (tm : Nat) (te : Int) : Word :=
  if withinMag (num32 cand) v tm te then cand else (rnd32 v).1

/-- Flags of a delivered result against the exact one: NX, UF (tiny and inexact) and OF, which is set where the exact result, rounded as if the
exponent range were unbounded, exceeds the largest finite value, whatever value inside the error bound is delivered (R49, R50). -/
def transFlags (v : Num) (exact : Bool) : Sticky :=
  match v with
  | .fin _ m e =>
    let tiny := m != 0 && cmpMag m e (2 ^ 23) fp32.emin == .lt
    let q := fp32.quantum m e
    let ovf := cmpMag (roundAt none m e q).1 q fp32.maxM fp32.maxE == .gt
    if ovf then flOF ||| flNX else flIf (!exact) flNX ||| flIf (tiny && !exact) flUF
  | _ => 0#5

/-- EXP: 2 ulp (Table 02.6); −∞ gives +0 and +∞ gives +∞ (Table 02.5). -/
def fexp (dr : Nat) (a : Word) : Word × Sticky :=
  match num32 a with
  | .nan => (qnan32, 0#5)
  | .inf neg => ((if neg then 0#32 else pinf32), 0#5)
  | .fin neg m e =>
    let (vm, ve) := expMag neg m e
    let v := Num.fin false vm ve
    let y := boundedFree (Config.transc 0 a) v 2 (fp32.quantum vm ve)
    let _ := dr
    (y, transFlags v (m == 0 && y == one32))

/-- LOG: 2 ulp outside [0.5, 2], 2⁻²² inside (Table 02.6); zeros and negatives as Table 02.5. -/
def flog (a : Word) : Word × Sticky :=
  match num32 a with
  | .nan => (qnan32, 0#5)
  | .inf neg => if neg then (qnan32, flNV) else (pinf32, 0#5)
  | .fin neg m e =>
    if m == 0 then (ninf32, flDZ)
    else if neg then (qnan32, flNV)
    else
      let l := lnFixed m e
      let v := Num.fin (l < 0) l.natAbs (-160)
      let near := cmpMag m e 1 (-1) != .lt && cmpMag m e 2 0 != .gt
      let y := boundedFree (Config.transc 1 a) v (if near then 1 else 2) (if near then -22 else fp32.quantum l.natAbs (-160))
      (y, transFlags v (cmpMag m e 1 0 == .eq && (y == 0#32 || y == 0x80000000#32)) &&& flNX)

/-- RCP: 1 ulp; ±0 gives ±∞ with DZ (Table 02.5). -/
def frcp (a : Word) : Word × Sticky :=
  match num32 a with
  | .nan => (qnan32, 0#5)
  | .inf neg => ((if neg then 0x80000000#32 else 0#32), 0#5)
  | .fin neg m e =>
    if m == 0 then ((if neg then ninf32 else pinf32), flDZ)
    else
      let q := 2 ^ 200 / m
      let v := Num.fin neg q (-200 - e)
      let y := boundedFree (Config.transc 2 a) v 1 (fp32.quantum q (-200 - e))
      let exact := match mulNum (num32 y) (num32 a) with | (.fin false pm pe, _) => cmpMag pm pe 1 0 == .eq | _ => false
      (y, transFlags v exact)

/-- RSQRT: 1 ulp; zeros and negatives as Table 02.5. -/
def frsqrt (a : Word) : Word × Sticky :=
  match num32 a with
  | .nan => (qnan32, 0#5)
  | .inf neg => if neg then (qnan32, flNV) else (0#32, 0#5)
  | .fin neg m e =>
    if m == 0 then ((if neg then ninf32 else pinf32), flDZ)
    else if neg then (qnan32, flNV)
    else
      -- 1/√(m 2^e) with an even exponent: √(2^400 / m') * 2^(-200 - e'/2)
      let m' := if e % 2 == 0 then m else 2 * m
      let e' := if e % 2 == 0 then e else e - 1
      let q := Nat.sqrt (2 ^ 400 / m')
      let v := Num.fin false q (-200 - e' / 2)
      let y := boundedFree (Config.transc 3 a) v 1 (fp32.quantum q (-200 - e' / 2))
      let exact := match mulNum (num32 y) (num32 y) with
        | (.fin _ pm pe, _) => cmpMag (pm * m) (pe + e) 1 0 == .eq
        | _ => false
      (y, transFlags v exact &&& flNX)

/-! Sums whose order is not specified (R40, R131). -/

def insertAt {α : Type} (x : α) : Nat → List α → List α
  | 0, l => x :: l
  | _, [] => [x]
  | n + 1, y :: t => y :: insertAt x n t

/-- Some order of a list: each term joins at a free place. -/
def shuffle {α : Type} (dr : Nat) : List α → List α
  | [] => []
  | x :: t => insertAt x (Config.order dr t.length % (t.length + 1)) (shuffle dr t)

/-- The sum in list order, rounded at each addition, from an FP32 start (R40). -/
def seqSum (init : Word) (xs : List Num) : Word := xs.foldl (fun a x => (fin32 (addNum (num32 a) x)).1) init

def exactSum (init : Num) (xs : List Num) : Num := xs.foldl (fun a x => (addNum a x).1) init

/-- Where an FP32 result lies, for a distance: an infinity at 2^128, where the FP32 range ends. -/
def reach32 (x : Word) : Num := match num32 x with | .inf n => .fin n 1 128 | y => y

/-- Is result `c` no farther from the exact value `v` than result `s` (R40)? -/
def noLessAccurate (v : Num) (c s : Word) : Bool :=
  match addNum (reach32 s) (negNum v) with
  | (.fin _ m e, _) => !isNan32 c && withinMag (reach32 c) v m e
  | _ => false

/-- The free candidate `c` for a sum that partial sums held wider than FP32 give, whose exact value is `v` (R40): an exact value above the
FP32 range is infinity of the right sign, and a zero carries the sign that IEEE 754 gives the exact sum (R48). -/
def widePick (c s : Word) (v : Num) : Word :=
  let y := (rnd32 v).1
  match num32 y, num32 s with
  | .inf _, .inf _ => y
  | _, _ =>
    if !noLessAccurate v c s then s
    else match num32 c, v with
      | .fin _ 0 _, .fin n _ _ => (rnd32 (.fin n 0 0)).1
      | _, _ => c

/-- An accumulation of exact products into FP32 (R40): a sequential sum in some order, or any result no less accurate. -/
def accumulate (dr : Nat) (init : Word) (xs : List Num) : Word :=
  let s := seqSum init (shuffle dr xs)
  let v := exactSum (num32 init) xs
  match v with
  | .fin _ _ _ => widePick (Config.wideSum dr xs.length) s v
  | _ => s

/-- A sum with one rounding per addition in an order that is not specified (scans, folds: R131, R243). -/
def anyOrderSum (dr : Nat) (init : Word) (xs : List Word) : Word := seqSum init ((shuffle dr xs).map num32)

end Sys2Proof.Machine
end

