-- ==== Sys2Proof/Machine/State.lean ====
section
/-! DEFINITION. The state of the block as plain data, the stops, and the state after reset. Tables keyed by a number
(`Tbl`) hold what differs from a default; memories are canonical lists of (address, byte). Rules of spec/ are cited per field. -/

namespace Sys2Proof.Machine

/-- A table keyed by a number; an absent key stands for the table's default. -/
abbrev Tbl (α : Type) := List (Nat × α)

/-- Register blocks of Table 17.1; stack and common pages of STK and CRM, partition and common pages of DBG are apart. -/
inductive Blk where
  | glb | mgt | thm | tim | stk | stkc | crm | crmc | net | dbg | dbgc | prt
  deriving DecidableEq, Repr

/-- A descriptor of a step in flight as the engines' state names it: lead partition, step number, table index. -/
structure DTag where
  lead : Nat
  step : Nat
  idx : Nat
  deriving DecidableEq, Repr

/-- Where a register's copy lives: block, page instance, offset in the page, reader-class copy (0 shared or PF, 1 owning VF,
2 firmware, 3 BMC, 4 JTAG) (R417 to R419). -/
structure RegKey where
  blk : Blk
  inst : Nat
  off : Nat
  cls : Nat
  deriving DecidableEq, Repr

/-- Device time (R361 to R364). -/
structure TimeState where
  now : Nat := 0
  frac : Nat := 0
  mono : Nat := 0
  /-- main clocks counted since reset (R28), the clock of R308 to R312 -/
  clk : Nat := 0
  /-- successive syncs below the lock threshold; the first offset in ACQUIRING has been taken -/
  syncs : Nat := 0
  acquired : Bool := false
  holdStart : Nat := 0
  deriving DecidableEq, Repr

/-- A write-combining entry (R223): stack, segment address (physical address / 64), the bytes it holds with their offsets
in arrival order resolved, the partitions whose writes it holds, the time of its last write. -/
structure WcbEntry where
  stack : Nat
  seg : Nat
  bytes : List (Nat × Byte)
  parts : List Nat
  last : Nat
  /-- the descriptors whose bytes it holds, for R226 -/
  descs : List DTag
  /-- the PCIe functions whose writes it holds, 0 the PF and p + 1 VF p + 1, for R306 -/
  fns : List Nat := []
  deriving DecidableEq, Repr

/-- A lane of an accumulator store or accumulator file, tagged with the launch of a step that wrote it: `StepRun.uid` (R110, R238). -/
structure AccCell where
  run : Nat
  val : Word
  deriving DecidableEq, Repr

/-- What a core's decoders hold: a decoded block, or (no block) the header of a compressed tensor they have checked; for one descriptor of one
launch (R203, R204; log entry 132). -/
structure Held where
  run : Nat
  idx : Nat
  base : Nat
  block : Option Nat
  bytes : List Byte
  deriving DecidableEq, Repr

/-- The memories (R19, R23, R206). -/
structure Mem where
  /-- DRAM by pseudo-channel * 2^30 + offset (R206) -/
  dram : List Host.Cell := []
  /-- per 128-bit word (physical address / 16): stored check bits xor the right ones (R217, R218, R221) -/
  synd : Tbl (BitVec 16) := []
  wcb : List WcbEntry := []
  /-- partition * 2^25 + offset -/
  pbuf : List Host.Cell := []
  /-- partition * 2^26 + core index * 2^22 + offset -/
  scratch : List Host.Cell := []
  /-- host bus address -/
  host : List Host.Cell := []
  /-- accumulator stores: (device core * 2048 + row) * 128 + lane (R107) -/
  acc : Tbl AccCell := []
  /-- Crema accumulator files: (unit * 1536 + row) * 64 + lane (R238) -/
  caf : Tbl AccCell := []
  /-- decode buffers by device core, newest block first (R203) -/
  dec : Tbl (List Held) := []
  deriving DecidableEq, Repr

/-- Rows tracked by an activation table: row and count (R233). -/
structure ActRow where
  row : Nat
  count : Nat
  deriving DecidableEq, Repr

/-- A spare row in use (R234): the row it replaces, made permanent or not. -/
structure Spare where
  slot : Nat
  row : Nat
  hard : Bool
  deriving DecidableEq, Repr

/-- Stack controllers (R206 to R237). Banks are keyed pseudo-channel * 64 + bank-group * 16 + SID * 4 + bank. -/
structure StkState where
  /-- class-change fill running: bank-group index and new class (R210) -/
  fill : Option (Nat × Bool) := none
  act : Tbl (List ActRow) := []
  /-- rows of a bank whose count reached the threshold and that wait for their targeted refresh, each counted as two in `postponed` (R233) -/
  rhRows : Tbl (List Nat) := []
  postponed : Tbl Nat := []
  /-- row open in each bank: a new row is an activation (log entry 41) -/
  openRow : Tbl Nat := []
  repair : Tbl (List Spare) := []
  /-- next patrol segment per stack (R376) -/
  patrol : Tbl Nat := []
  lastAccess : Nat := 0
  /-- stacks whose low margin forces the HOT timing set (R442) -/
  hotTiming : List Nat := []
  /-- words corrected in the last 24 h: physical word, bit, time (R368) -/
  corrLog : List (Nat × Nat × Nat) := []
  /-- segments in which a read of firmware's or Barista's met an uncorrectable word, to be dealt with (R373) -/
  finds : List Nat := []
  deriving DecidableEq, Repr

/-- Which kind of piece a Crema unit runs (chapter 10). -/
inductive PieceKind where
  | seq | gemv | item
  deriving DecidableEq, Repr

/-- A tensor as an engine sees it: descriptor words (Table 03.9) and the extents of the step (R75). -/
structure TView where
  w : List Word
  dims : List Nat
  /-- base address, with IREL resolved (R59, R61) -/
  base : Nat
  /-- code table of a compressed tensor: its address (R197); 0 when not compressed -/
  table : Nat
  deriving DecidableEq, Repr

/-- The memory or destination operand of a Crema command. -/
inductive COperand where
  | none
  /-- a tensor whose base is already displaced to the unit's pseudo-channel (R242) -/
  | tensor (t : TView)
  /-- row (p, o) of a GEMV output (R249) -/
  | gout (t : TView) (p o : Nat)
  /-- rows of a sealed tile: address of row 0, format, address of row 0's scales when demoted (R148, R149) -/
  | tile (base fmt scaleBase : Nat)
  /-- a record slot of T3: partition, offset in its buffer, size (R171) -/
  | slot (part off size : Nat)
  deriving DecidableEq, Repr

/-- One Crema command with its operands resolved (Table 10.2); accumulator rows already include AF_BASE. -/
structure CCmd where
  op : Nat
  fn : Nat
  np : Nat
  stepd : Bool
  opnd : COperand
  dp : Nat
  d : Nat
  a : Nat
  b : Nat
  count : Nat
  mrow : Nat
  /-- place of the preload holding the scalars: byte offset in the piece's input buffer, its format -/
  xbase : Nat
  xfmt : Nat
  xoff : Nat
  /-- scalars per stream row where it is not NP + 1: HP of an attention item's query part (R250) -/
  xstep : Nat := 0
  imm : Word
  cvt : Nat
  deriving DecidableEq, Repr

/-- A piece of work of a unit (R239): the descriptor it belongs to, its commands and preloaded bytes, which commands finished. -/
structure Piece where
  d : DTag
  kind : PieceKind
  /-- dispatching core in the device; for an attention item its T3 record slot and merge (R168, R172) -/
  core : Nat
  slot : Nat
  mid : Nat := 0
  cmds : List CCmd
  done : List Nat
  inbuf : List Byte
  /-- 8-byte words of the preload that hold an uncorrectable or a correctable error (R240); errors come from outside the commands -/
  ue : List Nat := []
  ce : List Nat := []
  deriving DecidableEq, Repr

/-- A Crema unit (R238 to R254). -/
structure CUnit where
  queue : List Piece := []
  /-- pieces dispatched and waiting for the queue (R239) -/
  waiting : List Piece := []
  /-- slots used in this 64-clock window (R253) -/
  spent : Nat := 0
  used : Bool := false
  waited : Bool := false
  disabled : Bool := false
  /-- rows that raised 0x2002 and when (R374) -/
  badRows : List (Nat × Nat) := []
  /-- accumulator rows that hold an uncorrectable or a correctable word (R240); errors come from outside the commands -/
  ue : List Nat := []
  ce : List Nat := []
  deriving DecidableEq, Repr

/-- A lane result in flight (R130, R137, R138): lands at `at`; issued at `issue`; register 0-31 or mask 32-35; which bits. -/
structure Land where
  lands : Nat
  issue : Nat
  dst : Nat
  bits : BitVec 2048
  val : BitVec 2048
  deriving DecidableEq, Repr

/-- The VLANE that a vector engine runs (R120 to R127): descriptor, streams, place in the tile grid, append cursors. -/
structure VCtx where
  d : DTag
  part : Nat
  core : Nat
  streams : List (Option TView)
  scal : List Word
  rows : Nat
  dim0 : Nat
  row : Nat
  tile : Nat
  tiles : Nat
  cursors : List Nat
  accRow : Nat
  deriving DecidableEq, Repr

/-- A lane store less than 24 clocks old, or made by an instance of a running VLANE: its clock, the element's place (address space,
partition, bit address) and the bits the element held before (R133). -/
structure Recent where
  clk : Nat
  space : Nat
  part : Nat
  addr : Int
  old : Nat
  deriving DecidableEq, Repr

/-- A vector engine (R119). -/
structure Vec where
  v : List (BitVec 2048) := List.replicate 32 0#2048
  masks : List (BitVec 64) := List.replicate 4 0#64
  /-- the five sticky flags of each of the 64 lanes, and the launch of the step that they belong to (R50) -/
  sticky : List (BitVec 5) := List.replicate 64 0#5
  run : Nat := 0
  clk : Nat := 0
  fly : List Land := []
  recent : List Recent := []
  ctx : Option VCtx := none
  deriving DecidableEq, Repr

/-- Running state of a merge (R174): per head of the part, M, L and O. -/
structure MergeHead where
  m : Word
  l : Word
  o : List Word
  deriving DecidableEq, Repr

/-- The merge of one (slot, KV head, part) of ATTN_DECODE: its number, records still to come, running state of each head (none once T2 is
written) (R168, R174). -/
structure MergeSet where
  id : Nat
  d : DTag
  slot : Nat
  h : Nat
  r : Nat
  left : Nat
  heads : List MergeHead
  deriving DecidableEq, Repr

/-- An attention item waiting to be issued (R168): unit, the piece without its record slot, the merge it feeds. -/
structure AttItem where
  pc : Nat
  piece : Piece
  merge : Nat
  deriving DecidableEq, Repr

/-- An attention engine: waiting items, next merge number, record slots of T3 in use (slot, merge, landed), merges under way. -/
structure Att where
  items : List AttItem := []
  nextId : Nat := 0
  slots : List (Nat × Nat × Bool) := []
  merges : List MergeSet := []
  deriving DecidableEq, Repr

/-- A loaded, verified program (R53): the parsed image (its bytes are protected, R81). Descriptors and tensors are words,
lane programs are 144 words, pseudo-channel sets 40 words, codec entries 4 words. -/
structure Prog where
  id : Word
  image : Nat
  size : Nat
  model : DWord
  slotmax : Nat
  tokmax : Nat
  descs : List (List Word)
  tens : List (List Word)
  lanes : List (List Word)
  pcsets : List (List Word)
  codecs : List (List Word)
  constOff : Nat
  constSz : Nat
  /-- caps of R293: binding source and cap -/
  caps : List (Nat × Nat)
  /-- an unload has been served and waits for the steps that run it (R53, R82) -/
  closing : Bool := false
  deriving DecidableEq, Repr

/-- How far a descriptor of a running step is. -/
inductive DStat where
  | waiting
  /-- its instances have done their work; DESCRIPTOR_COMPLETE follows (R71) -/
  | ran
  /-- running, waiting for something outside: Crema pieces, network, host reads, a flag -/
  | running
  | faulted
  /-- may go on from the cursors in `left`: a resolved fault, host data arrived, a job resumed -/
  | resumed
  | done
  | timedOut
  | notRun
  deriving DecidableEq, Repr

/-- Run state of one descriptor (R70 to R76). -/
structure DRun where
  stat : DStat := .waiting
  /-- STATUS of Table 03.18 once ended -/
  status : Nat := 0
  sticky : BitVec 5 := 0#5
  drops : Nat := 0
  bytes : Nat := 0
  start : Nat := 0
  startMono : Nat := 0
  /-- main clock at start (FLAG_WAIT's clock 0) -/
  startClk : Nat := 0
  faulted : Bool := false
  /-- instances still to run with their cursors, in the work units of Table 13.3; none: all, from the start -/
  left : Option (List (Nat × Nat)) := none
  deriving DecidableEq, Repr

/-- A slot of a formed step (R271), as Barista keeps it up to commit. -/
structure Slot where
  req : Nat
  kind : Nat
  pos : Nat
  ntok : Nat
  row : Nat
  /-- root slot of the snapshot -/
  snap : Nat
  /-- first open buffer of the slot's open area and how many -/
  openBuf : Nat
  nbuf : Nat
  fresh : Bool
  /-- chunks it seals: chunk, pseudo-channel, frame -/
  seals : List (Nat × Nat × Nat)
  /-- pages reserved for its seals; pages private to its snapshot (R297) -/
  pages : List Nat
  priv : List Nat := []
  tlpage : Option Nat
  voided : Bool := false
  /-- what of the sequence was lost (R372): 0 open chunk, 1 block table, 2 token log, 3 request entry, 4 adapter -/
  lost : Option Nat := none
  fault3105 : Bool := false
  continuing : Bool := false
  deriving DecidableEq, Repr

/-- A flag of the flag store (R308): the sets that have applied since it was last clear, each by a partition or by none (remote, host), with
the first clock in which one of that setter applied. The flag is set when there is one. -/
structure FlagVal where
  sets : List (Option Nat × Nat) := []
  deriving DecidableEq, Repr

/-- A change of the flag store on its way (R308): the clock it applies, the flag, set or clear, the partition or none (remote, host). -/
structure FlagChange where
  clk : Nat
  flag : Nat
  set : Bool
  part : Option Nat
  /-- the clear of a consuming wait that clock `clk` satisfied (R311) -/
  consume : Bool := false
  deriving DecidableEq, Repr

/-- A step, formed or in flight (R74, R287 to R299). -/
structure StepRun where
  no : Nat
  /-- number of this launch among all launches since reset; a retry is a launch of its own (R110, R238) -/
  uid : Nat := 0
  epoch : Nat
  prog : Word
  /-- the PROG entry that chose it (R257, R295) -/
  entry : Nat := 0
  /-- batch-table buffer and completion area 0 or 1 (R272) -/
  buf : Nat
  bt : Nat
  slots : List Slot := []
  ntok : Nat := 0
  attempt : Nat := 0
  /-- which of the job's seeds the batch table carries (R272) -/
  seedNo : Nat := 0
  /-- RETRYMAX as it stood at the formation (R256, R291) -/
  rmax : Nat := 0
  /-- the stop of R334 is under way, for a retry (1) or a failure (2): packets already sent are still to be acknowledged -/
  stopping : Option Nat := none
  runs : Tbl DRun := []
  /-- program-local flags and the changes of them on their way (R58, R294, R308) -/
  flags : Tbl FlagVal := []
  changes : List FlagChange := []
  launched : Bool := false
  withdrawn : Bool := false
  /-- truncated run: cut and NONET (R95 to R98) -/
  trunc : Option (Nat × Bool) := none
  ndone : Nat := 0
  nfault : Nat := 0
  tlaunch : Nat := 0
  deriving DecidableEq, Repr

/-- Pool items of Barista (R275 to R277). -/
inductive Res where
  | root (i : Nat) | page (i : Nat) | tlpage (i : Nat) | openBuf (i : Nat)
  | frame (pc f : Nat) | half (pc f h : Nat) | pack (i : Nat) | adapter (i : Nat) | request (i : Nat)
  deriving DecidableEq, Repr

/-- The job configuration record (Table 11.1): its 512 bytes and its fields. -/
structure JobCfg where
  raw : List Byte := []
  addr : Nat := 0
  parts : Nat := 0
  flags : Nat := 0
  commitFlag : Nat := 0
  ringLog : Nat := 0
  tokBudget : Nat := 0
  reqTab : Nat := 0
  ring : Nat := 0
  respTab : Nat := 0
  btBuf : Nat := 0
  inTok : Nat := 0
  outTok : Nat := 0
  cArea : Nat := 0
  stepRing : Nat := 0
  nStepRec : Nat := 0
  maxLen : Nat := 0
  layers : Nat := 0
  kvHeads : Nat := 0
  oFmt : Nat := 0
  hDim : Nat := 0
  sFmt : Nat := 0
  demote : Nat := 0
  kvOff : Nat := 0
  nFrame : Nat := 0
  digestBase : Nat := 0
  openPool : Nat := 0
  nOpen : Nat := 0
  nRoot : Nat := 0
  rootPool : Nat := 0
  pagePool : Nat := 0
  nPage : Nat := 0
  nTlPage : Nat := 0
  tlPool : Nat := 0
  adapTab : Nat := 0
  packPool : Nat := 0
  nPack : Nat := 0
  pChunk : Nat := 0
  spread : Nat := 0
  lowWater : Nat := 0
  eos : List Word := []
  /-- PROGID, MINTOK, MAXTOK, TRIGGER of PROG0 to PROG7 -/
  progs : List (Word × Nat × Nat × Nat) := []
  deriving DecidableEq, Repr

/-- A held response record (R262): ring, request (65,536 for none), the record's words. -/
structure HeldRec where
  ring : Nat
  req : Nat
  words : List Word
  deriving DecidableEq, Repr

/-- Pair states (Table 15.7). -/
inductive PairSt where
  | unpaired | connecting | syncing | paired | broken
  deriving DecidableEq, Repr

/-- A message of the Decant stream kept until acknowledged (R387). -/
structure DecantOut where
  seqno : Nat
  step : Nat
  /-- chunk's frame, if a CHUNK: pseudo-channel and frame -/
  frame : Option (Nat × Nat)
  bytes : List Byte
  deriving DecidableEq, Repr

/-- Pair of a job (R382 to R390). -/
structure Pair where
  st : PairSt := .unpaired
  record : List Byte := []
  qps : List Nat := []
  active : Nat := 0
  seqOut : Nat := 0
  seqIn : Nat := 0
  unacked : List DecantOut := []
  lastHeard : Nat := 0
  synced : Bool := false
  peerSynced : Bool := false
  taken : Bool := false
  /-- shadowed response rings: partner ring, last consumer count, entry words and address -/
  rings : List (Nat × Nat × List Word) := []
  /-- partner request index to local index (PAIRMAP mirror is in memory) -/
  map : List (Nat × Nat) := []
  /-- shadows' recorded state, reqs -/
  shadow : List (Nat × Nat × Nat) := []
  unshadowed : Nat := 0
  /-- next free byte of the receive area; messages that wait there while the job is suspended (R336, R386) -/
  rxPos : Nat := 0
  inbox : List (List Byte) := []
  deriving DecidableEq, Repr

/-- A pending fault (R330 to R333). -/
structure PFault where
  code : Nat
  words : List Word
  /-- ring position, or none when in PRT_FAULT_LAST -/
  pos : Option Nat
  inLast : Bool
  d : DTag
  inst : Nat
  cursor : Nat
  resumable : Bool
  addr : Nat
  since : Nat
  /-- of 0x3102: the batch values above the declared extent (R293) -/
  bound : List Nat := []
  deriving DecidableEq, Repr

/-- What SUSPEND saves that the save area's opaque header holds (R335, Table 13.5). -/
structure Saved where
  vecs : Tbl Vec
  atts : Tbl Att
  pieces : Tbl (List Piece)
  waits : Tbl (List Piece)
  elapsed : List (Nat × Nat × Nat)
  paused : List Nat
  at_ : Nat
  /-- draw of free values of the opaque headers -/
  draw : Nat
  /-- lanes saved from accumulator stores and files -/
  acc : Tbl AccCell
  caf : Tbl AccCell
  deriving DecidableEq, Repr

/-- A job (R16). -/
structure Job where
  cfg : JobCfg
  parts : List Nat
  progs : List Prog := []
  flags : Tbl FlagVal := []
  changes : List FlagChange := []
  runs : List StepRun := []
  formed : Option StepRun := none
  epoch : Nat := 0
  stepNo : Nat := 0
  /-- the step whose successor was withdrawn: no step is formed until it has committed or failed (R299) -/
  formAfter : Option Nat := none
  admits : Nat := 0
  seeds : Nat := 0
  formedAt : Nat := 0
  lastServed : Option Nat := none
  used : List Res := []
  /-- freed items with the epoch of R161 -/
  deferred : List (Res × Nat) := []
  held : List HeldRec := []
  /-- producer counts and last consumer counts of the response rings (R261) -/
  ringP : Tbl Nat := []
  ringC : Tbl Nat := []
  /-- records of the next Decant delta, as bytes in order (R384) -/
  delta : List (List Byte) := []
  /-- response records waiting for the acknowledgement of a DELTA, by its number (R385) -/
  confirm : List (Nat × HeldRec) := []
  /-- response records due while the job is suspended, posted at resume (R336) -/
  late : List HeldRec := []
  /-- queue pairs that entered ERROR while the job was suspended: what follows is done at resume (R336) -/
  lateQps : List Nat := []
  /-- sequences struck by an uncorrectable find, to be dealt with at the next formation or commit (R372): request, kind -/
  struck : List (Nat × Nat) := []
  ringHead : Nat := 0
  ringTail : Nat := 0
  demoteQ : List (Nat × Nat) := []
  /-- publication generation per frame (R380) -/
  gens : Tbl Nat := []
  failRun : Nat := 0
  heldFw : Bool := false
  debugHold : Bool := false
  /-- launches nothing until a digest fault is resolved (R378) -/
  stopped : Bool := false
  open_ : Bool := true
  dissolving : Bool := false
  /-- TIM_MONO when the last step of a dissolving job ended -/
  dissolveAt : Nat := 0
  lastEnd : Nat := 0
  stepRecs : Nat := 0
  saved : Option Saved := none
  /-- resolutions written while the job is suspending or suspended: partition, fault, action (R338) -/
  pendingRes : List (Nat × PFault × Nat) := []
  pair : Pair := {}
  manifest : List Byte := []
  source : Nat × Nat × Nat := (0, 0, 0)
  prefetch : Tbl DTag := []
  /-- confirmed digest mismatches found while suspended: region (RAT entry, block) or chunk (request, chunk) (R380) -/
  lateDigest : List (Bool × Nat × Nat) := []
  tokens100 : Nat := 0
  idleSince : Nat := 0
  deriving DecidableEq, Repr

/-- A partition (R15, R324 to R339). -/
structure PartState where
  lead : Option Nat := none
  faults : List PFault := []
  /-- stack, network and host buckets (R329) -/
  buckets : List Int := [0, 0, 0]
  /-- asleep with its PLL stopped: from reset on, since it belongs to no job (R30, R410) -/
  asleep : Bool := true
  deep : Bool := false
  freeSince : Nat := 0
  /-- debug buffer: trace records, oldest first (R451) -/
  trace : List (List Word) := []
  /-- clock of the last trace record, and records that have entered in it (R451) -/
  traced : Nat × Nat := (0, 0)
  /-- entropy encoder's holder (R201) -/
  encoder : Option DTag := none
  deriving DecidableEq, Repr

/-- Queue-pair states (R346). -/
inductive QpSt where
  | reset | init | rtr | rts | error
  deriving DecidableEq, Repr

/-- An issued message not yet acknowledged (R321, R351). `kind`: 0 SEND, 1 WRITE, 2 READ. -/
structure OutMsg where
  psn : Nat
  last : Nat
  kind : Nat
  va : Nat
  rkey : Nat
  imm : Option Word
  len : Nat
  data : List Byte
  /-- the descriptor that waits for it -/
  d : Option DTag
  /-- ring record of Barista: ring index; Decant SEQNO -/
  ring : Option Nat
  seqno : Option Nat
  /-- a block that firmware refetches: RAT entry, block (R378) -/
  fetch : Option (Nat × Nat) := none
  /-- byte of what the descriptor moves with which the message, or what is left of it, starts -/
  off : Nat := 0
  deriving DecidableEq, Repr

/-- A queue-pair context (Table 14.3, R351, R353). Rates are in Mb/s. -/
structure Qp where
  st : QpSt := .reset
  job : Nat := 0
  purpose : Nat := 0
  peer : Nat := 0xFFFFFFFF
  rqpn : Nat := 0
  sndPsn : Nat := 0
  rcvPsn : Nat := 0
  port : Nat := 0
  addr : BitVec 128 := 0
  unacked : List OutMsg := []
  retries : Nat := 0
  rnrs : Nat := 0
  rnrWait : Bool := false
  nakSent : Bool := false
  /-- MODEL of the peer's job at setup (R382) -/
  model : Nat := 0
  rate : Nat := 0
  peak : Nat := 0
  quiet : Nat := 0
  cnps : Nat := 0
  cnpLast : Nat := 0
  exhausted : Bool := false
  setup : Nat := 0
  deriving DecidableEq, Repr

structure KeyEnt where
  valid : Bool := false
  tag : BitVec 20 := 0
  job : Nat := 0
  rat : Nat := 0
  nrd : Bool := false
  nwr : Bool := false
  deriving DecidableEq, Repr

structure PeerEnt where
  valid : Bool := false
  addr : BitVec 128 := 0
  digok : Bool := false
  mismatch : Nat := 0
  deriving DecidableEq, Repr

/-- What the transport and firmware send (R344, R347): kind, queue pair, PSN, and content. -/
inductive NetTx where
  | msg (qp : Nat) (m : OutMsg)
  | ack (qp psn : Nat)
  | nak (qp psn code : Nat)
  | rnrNak (qp psn timer : Nat)
  | readResp (qp psn : Nat) (data : List Byte)
  | cnp (qp : Nat)
  /-- REQ 0, REP 1, RTU 2, REJ 3: destination, our queue pair, the peer's, first PSN, Service ID, private data -/
  | cm (kind : Nat) (dest : BitVec 128) (qp rqpn psn service : Nat) (priv : List Byte)
  | frame (port kind : Nat) (payload : List Byte)
  deriving DecidableEq, Repr

/-- A frame that leaves a port: its priority, the port's MAC and IP addresses and VLAN tag, ECN-capable or not (R342, R353). -/
structure TxFrame where
  port : Nat
  prio : Nat
  mac : BitVec 48
  ip : BitVec 128
  vlan : Nat
  ecn : Bool
  body : NetTx
  deriving DecidableEq, Repr

/-- Network (R340 to R354). Ports are keyed die * 4 + port; priorities die * 32 + port * 8 + priority. -/
structure NetState where
  qps : Tbl Qp := []
  keys : Tbl KeyEnt := []
  peers : Tbl PeerEnt := []
  trainTries : Tbl Nat := []
  /-- paused by the partner: since when (R343) -/
  paused : Tbl Nat := []
  /-- pause ignored after the watchdog: time of the last pause frame -/
  ignoring : Tbl Nat := []
  tx : List TxFrame := []
  /-- frames that wait for the end of a pause, with the payload bytes of each (R343) -/
  waiting : List (TxFrame × Nat) := []
  /-- blocks to fetch once a queue pair to their source is ready: RAT entry, block (R378) -/
  wanted : List (Nat × Nat) := []
  deriving DecidableEq, Repr

/-- An outstanding read of host memory (R357): tag, partition, function, bus address, length, waiting descriptor. -/
structure HostRd where
  tag : Nat
  part : Nat
  addr : Nat
  len : Nat
  d : Option DTag
  inst : Nat
  deriving DecidableEq, Repr

/-- PCI Express (R355 to R360). -/
structure PcieState where
  apert : Tbl AptFields := []
  vfBase : Tbl Nat := []
  reads : List HostRd := []
  nextTag : Nat := 0
  /-- host bytes that arrived for a descriptor's reads, by bus address -/
  arrived : List (DTag × List Host.Cell) := []
  /-- MSI-X messages raised: function (0 PF, p + 1 VF) and vector (R359) -/
  msi : List (Nat × Nat) := []
  masked : List (Nat × Nat) := []
  pend : List (Nat × Nat) := []
  vfsEnabled : Bool := true
  gen : Nat := 5
  width : Nat := 8
  /-- AER errors logged (R360) -/
  aer : List Nat := []
  /-- the value that the last read returned: a completion to the host, or what another class read; poisoned -/
  cpl : List (List Byte × Bool) := []
  perstLow : Bool := false
  /-- BAR2 accesses that reached nothing (R356) -/
  bar2Bad : Nat := 0
  deriving DecidableEq, Repr

/-- A queued load or unload (R80, R82): lead partition, the record's eight words as they were accepted. -/
structure LoadReq where
  lead : Nat
  words : List Word
  /-- the image bytes protected from acceptance (R81); size 0 for none -/
  image : Nat
  size : Nat
  deriving DecidableEq, Repr

/-- Answer to a firmware request (Table 17.3): CODE, STATUS, TAG, DETAIL and payload. -/
structure FwRsp where
  code : Nat
  status : Nat
  tag : Word
  detail : Nat
  payload : List Byte
  deriving DecidableEq, Repr

/-- A record of the journal (R405): key of a retained value, its sequence number, the value. -/
structure JRec where
  key : Nat
  seq : Nat
  words : List Word
  deriving DecidableEq, Repr

/-- State of a journal sector (R405). -/
inductive JState where
  | erased | active | full | retired
  deriving DecidableEq, Repr

/-- A sector of the journal (R405): its header and its records in order. -/
structure JSector where
  erases : Nat := 0
  order : Nat := 0
  st : JState := .erased
  recs : List JRec := []
  deriving DecidableEq, Repr

/-- Fuses that are counted (R406, R407). -/
structure Fuses where
  arvcnt : Nat := 0
  revoked : Nat := 0
  layout : Nat := 0
  layoutChg : Nat := 0
  ceilRaise : Nat := 0
  deriving DecidableEq, Repr

/-- Device firmware, boot ROM and flash (R394 to R413, R421 to R425). -/
structure FwState where
  loadq : List LoadReq := []
  /-- writes dropped to protected images (R81) -/
  protDrops : Nat := 0
  rsp : List (RClass × FwRsp) := []
  nonce : Option (List Byte) := none
  bmcFails : List Nat := []
  refuseUntil : Nat := 0
  lastSmb : Nat := 0
  regionClass : Tbl ClassRec := []
  /-- sealed regions (R377) by RAT index -/
  sealedR : List Nat := []
  patrolRate : Nat := 100
  digestRate : Nat := 100
  softRows : List (Nat × Nat) := []
  suspects : List (Nat × Nat) := []
  mismatchLog : List (Nat × Nat) := []
  /-- first hashes that a second one did not confirm (R378, R379) -/
  digestRetries : Nat := 0
  /-- segments of handled uncorrectable words: physical segment, time (R368, R372) -/
  ueSegs : List (Nat × Nat) := []
  flash : List Host.Cell := []
  /-- the 256 sectors of the journal; an absent one is erased -/
  journal : Tbl JSector := []
  jSeq : Nat := 0
  /-- hour of TIM_MONO and bytes written in it -/
  jHour : Nat × Nat := (0, 0)
  /-- when each key was last written -/
  jLast : List (Nat × Nat) := []
  jReadOnly : Bool := false
  /-- the retention SRAM's contents are lost: the next warm reset restores from the journal -/
  retBad : Bool := false
  cfgWrite : Option (List (Nat × Byte)) := none
  cfgInUse : Option Nat := none
  cfgDigest : List Byte := []
  sysRec : List Byte := []
  devCount : Nat := 0
  sysIndex : Option Nat := none
  /-- IP address and VLAN tag of each port (Table 16.5) -/
  ipAddr : Tbl (BitVec 128) := []
  vlan : Tbl Nat := []
  /-- Crema units whose disablement is retained (R374, Table 16.6) -/
  unitsOff : List Nat := []
  idleMs : Nat := 10
  regCopy : List (RegKey × Word) := []
  scanDiffs : Nat := 0
  imgDigest : List Byte := []
  recovBoot : Bool := false
  snapSeq : Nat := 0
  snapshot : List Byte := []
  snapBase : List Nat := []
  jobsToFetch : List Nat := []
  deriving DecidableEq, Repr

/-- A sensor (R431). -/
structure Sensor where
  temp : Int := 0
  /-- a first sample has completed (R444) -/
  sampled : Bool := false
  broken : Bool := false
  missing : Nat := 0
  deriving DecidableEq, Repr

/-- Temperature and power (R430 to R442). Dies: 0 compute, 1 to 20 stacks, 21 to 24 network, 25 management. -/
structure ThmState where
  sensors : Tbl Sensor := []
  band : Tbl Nat := []
  /-- samples for which the die stayed at least 3 °C below its band (R432) -/
  below : Tbl Nat := []
  under : Nat := 0
  floorUs : Nat := 0
  /-- roast history: time and slowdown (R441) -/
  roast : List (Nat × Nat) := []
  /-- successive measurements for which a rail lay outside tolerance -/
  railBad : Tbl Nat := []
  deriving DecidableEq, Repr

/-- Pins and the two slow ports (R459 to R464). -/
structure PinState where
  pwrgood : Bool := false
  resetN : Bool := false
  testEn : Bool := false
  alertAt : Option Nat := none
  pulseUntil : Option Nat := none
  thermtrip : Bool := false
  suppressed : Nat := 0
  smbAddr : Nat := 0
  railOk : Nat := 0
  /-- clocks other than the always-on domain's are stopped (R435, R468) -/
  stopped : Bool := false
  /-- last SMBus response: STATUS and data (R461) -/
  smb : Nat × List Byte := (0, [])
  vout : BitVec 16 := 0
  vrLow : Bool := false
  /-- JTAG (R462): instruction register, data register, boundary cells, outputs held or floated -/
  ir : Nat := 0x01
  dr : BitVec 64 := 0
  cells : List Bool := []
  drive : Nat := 0
  regRead : Word := 0
  regFail : Bool := false
  deriving DecidableEq, Repr

/-- Event suppression (R447): code, key, time of the last record, occurrences since. -/
structure Supp where
  code : Nat
  key : Nat
  last : Nat
  count : Nat
  deriving DecidableEq, Repr

/-- Mailbox instance of a class (R422): the sample of the last part-0 capture and its offset. -/
structure Mbx where
  off : Nat
  val : BitVec 512
  deriving DecidableEq, Repr

structure State where
  pending : List Instr := []
  /-- free-value counter: the MODEL's own (log entry 1) -/
  free : Nat := 0
  /-- launches of steps so far: the MODEL's own, to tell the accumulator rows of one launch from another's (R110, R238; log entry 1) -/
  launches : Nat := 0
  time : TimeState := {}
  regs : List (RegKey × Word) := []
  wide : List (RegKey × BitVec 512) := []
  mbx : List (RClass × Mbx) := []
  mem : Mem := {}
  stk : StkState := {}
  units : Tbl CUnit := []
  vecs : Tbl Vec := []
  atts : Tbl Att := []
  jobs : Tbl Job := []
  parts : Tbl PartState := []
  net : NetState := {}
  pcie : PcieState := {}
  fw : FwState := {}
  thm : ThmState := {}
  pin : PinState := {}
  /-- counted fuses (R406, R407), root-key revocations -/
  fuse : Fuses := {}
  supp : List Supp := []
  /-- on-die memory: uncorrectable units seen, remap entries used (R371), words zero-filled once (R372) -/
  sramRemap : List (SramKind × Nat × Nat) := []
  sramFixed : List (SramKind × Nat × Nat) := []
  fatal : Bool := false
  deriving DecidableEq, Repr

/-- The machine's faults. -/
inductive Fault where
  /-- Raised by nothing in the part; kept closed so that a stop would have to be named here. Safe: no step answers it. -/
  | none
  deriving DecidableEq, Repr

/-- Refusals. -/
inductive Refusal where
  /-- A command whose meaning is not written yet. Safe: nothing is claimed of it. -/
  | notModelled (mnemonic : String)
  deriving DecidableEq, Repr

/-- The state after reset: every field at its default; registers not listed read their reset values (Machine/Regs.lean). -/
def State.reset : State := {}

end Sys2Proof.Machine
end

