-- ==== Sys2Proof/Machine/Bits.lean ====
section
/-! DEFINITION. Bit fields, little-endian bytes, keyed tables and canonical byte memories, and the device's three codes:
SHA3-256, CRC-32C (R426) and the BCH code of the stacks (R217). -/

namespace Sys2Proof.Machine

/-- Bits `hi` down to `lo` of a number. -/
def fld (x hi lo : Nat) : Nat := x / 2 ^ lo % 2 ^ (hi + 1 - lo)

/-- Bit `n` of a number. -/
def bitN (x n : Nat) : Bool := x / 2 ^ n % 2 == 1

/-- `x` with bits `hi` down to `lo` replaced by `v`. -/
def setFld (x hi lo v : Nat) : Nat :=
  x / 2 ^ (hi + 1) * 2 ^ (hi + 1) + (v % 2 ^ (hi + 1 - lo)) * 2 ^ lo + x % 2 ^ lo

/-- A field of a register or record word. -/
def wfld (w : Word) (hi lo : Nat) : Nat := fld w.toNat hi lo
def wbit (w : Word) (n : Nat) : Bool := bitN w.toNat n
def wset (w : Word) (hi lo v : Nat) : Word := BitVec.ofNat 32 (setFld w.toNat hi lo v)

/-- Bits at `lo` of a packed word. -/
def b2n (b : Bool) : Nat := if b then 1 else 0

/-- Little-endian value of bytes (R5). -/
def leNat : List Byte → Nat
  | [] => 0
  | b :: t => b.toNat + 256 * leNat t

/-- The low `n` bytes of a number, least significant first (R5). -/
def natBytes : Nat → Nat → List Byte
  | 0, _ => []
  | n + 1, x => BitVec.ofNat 8 x :: natBytes n (x / 256)

def wordBytes (w : Word) : List Byte := natBytes 4 w.toNat
def wordsBytes (ws : List Word) : List Byte := (ws.map wordBytes).flatten

/-- Bytes grouped as `n` 32-bit words, missing bytes zero. -/
def bytesWords : Nat → List Byte → List Word
  | 0, _ => []
  | n + 1, bs => BitVec.ofNat 32 (leNat (bs.take 4)) :: bytesWords n (bs.drop 4)

/-- Words of a 64-bit value, low word first. -/
def lo32 (x : Nat) : Word := BitVec.ofNat 32 x
def hi32 (x : Nat) : Word := BitVec.ofNat 32 (x / 2 ^ 32)

/-- Element `i` of a list of words, zero past its end. -/
def wAt (ws : List Word) (i : Nat) : Word := ws.getD i 0#32
def nAt (ws : List Word) (i : Nat) : Nat := (wAt ws i).toNat
/-- A 48-bit address in words i (low) and i + 1. -/
def addrAt (ws : List Word) (i : Nat) : Nat := nAt ws i + fld (nAt ws (i + 1)) 15 0 * 2 ^ 32
def u64At (ws : List Word) (i : Nat) : Nat := nAt ws i + nAt ws (i + 1) * 2 ^ 32

def byteAt (bs : List Byte) (i : Nat) : Nat := (bs.getD i 0#8).toNat
def leAt (bs : List Byte) (i n : Nat) : Nat := leNat ((bs.drop i).take n)

/-- The first `n` bytes of a list, zero-filled. -/
def padTo (n : Nat) (bs : List Byte) : List Byte := bs.take n ++ List.replicate (n - bs.length) 0#8

def ceilDiv (a b : Nat) : Nat := if b == 0 then 0 else (a + b - 1) / b
def roundUp (a b : Nat) : Nat := ceilDiv a b * b

/-! Keyed tables, in rising key order so that equal tables are equal data. -/

def getT {α : Type} (t : Tbl α) (k : Nat) : Option α := (t.find? (fun p => p.1 == k)).map Prod.snd

def putT {α : Type} : Tbl α → Nat → α → Tbl α
  | [], k, v => [(k, v)]
  | (a, x) :: t, k, v => if a < k then (a, x) :: putT t k v else if a = k then (k, v) :: t else (k, v) :: (a, x) :: t

def delT {α : Type} (t : Tbl α) (k : Nat) : Tbl α := t.filter (fun p => p.1 != k)

def modT {α : Type} (t : Tbl α) (k : Nat) (dflt : α) (f : α → α) : Tbl α := putT t k (f ((getT t k).getD dflt))

/-! Byte memories (R23): canonical lists of cells, an unlisted address reads zero (log entry 4). -/

/-- What a byte that nothing has written reads as. -/
def unlisted : Byte := 0#8

def getB (m : List Host.Cell) (a : Nat) : Byte := (getT m a).getD unlisted

/-- Insert or replace a listed cell. -/
def insB : List Host.Cell → Nat → Byte → List Host.Cell
  | [], a, v => [(a, v)]
  | (b, x) :: t, a, v => if b < a then (b, x) :: insB t a v else if b = a then (a, v) :: t else (a, v) :: (b, x) :: t

/-- Remove a cell. -/
def delB : List Host.Cell → Nat → List Host.Cell
  | [], _ => []
  | (b, x) :: t, a => if b < a then (b, x) :: delB t a else if b = a then t else (b, x) :: t

/-- Write one byte, keeping the canonical form. -/
def putB (m : List Host.Cell) (a : Nat) (v : Byte) : List Host.Cell :=
  if v = unlisted then delB m a else insB m a v

/-- Write bytes from an address upward. -/
def putBs (m : List Host.Cell) (a : Nat) : List Byte → List Host.Cell
  | [] => m
  | b :: t => putBs (putB m a b) (a + 1) t

def getBs (m : List Host.Cell) (a n : Nat) : List Byte := (List.range n).map (fun i => getB m (a + i))

/-- Strictly rising addresses, each above `lo`, and no entry equal to what an unlisted address reads as. -/
def cellsFrom : Option Nat → List Host.Cell → Bool
  | _, [] => true
  | lo, (a, v) :: t => (match lo with | none => true | some l => decide (l < a)) && decide (v ≠ unlisted) && cellsFrom (some a) t

/-- The canonical form of a byte memory. -/
def cellsWf (m : List Host.Cell) : Bool := cellsFrom none m

/-- Every memory of the device is in canonical form. -/
def Mem.wf (m : Mem) : Bool := cellsWf m.dram && cellsWf m.pbuf && cellsWf m.scratch && cellsWf m.host

/-! SHA3-256 (FIPS 202), as R27, R397 and R421 use it. The state is 25 lanes, lane (x, y) at place x + 5y, as one list. -/

/-- A lane of the state. -/
abbrev KLane := BitVec 64

/-- The lane at column `x` and sheet `y`, both taken modulo 5. -/
def laneAt (a : List KLane) (x y : Nat) : KLane := a.getD (x % 5 + 5 * (y % 5)) 0

/-- A state given lane by lane. -/
def lanes (f : Nat → Nat → KLane) : List KLane := (List.range 25).map (fun i => f (i % 5) (i / 5))

/-- One step of the 8-bit shift register x⁸ + x⁶ + x⁵ + x⁴ + 1 that gives the bits of the round constants (FIPS 202, 3.2.5). -/
def rcStep (r : Nat) : Nat := if r < 128 then 2 * r else Nat.xor (2 * r) 0x171

def rcBit : Nat → Nat
  | 0 => 1
  | t + 1 => rcStep (rcBit t)

/-- The constant of round `n`: bit 2^j − 1 is bit 0 of the register after j + 7n steps. -/
def roundConst (n : Nat) : KLane :=
  BitVec.ofNat 64 ((List.range 7).foldl (fun a j => a + rcBit (j + 7 * n) % 2 * 2 ^ (2 ^ j - 1)) 0)

/-- The walk (x, y) → (y, 2x + 3y) over the lanes from (1, 0), with the rotations (t + 1)(t + 2)/2 it gives them (FIPS 202, 3.2.2). -/
def rotWalk : Nat → Nat → Nat → Nat → List (Nat × Nat)
  | 0, _, _, _ => []
  | n + 1, t, x, y => (x + 5 * y, (t + 1) * (t + 2) / 2 % 64) :: rotWalk n (t + 1) y ((2 * x + 3 * y) % 5)

/-- How far each lane turns; lane (0, 0) stays. -/
def rotTable : List Nat := (List.range 25).map (fun i => ((rotWalk 24 0 1 0).find? (fun p => p.1 == i)).elim 0 Prod.snd)

/-- θ: every column's parity reaches its neighbours. -/
def stepTheta (a : List KLane) : List KLane :=
  let col (x : Nat) : KLane := (List.range 5).foldl (fun v y => v ^^^ laneAt a x y) 0
  let par := (List.range 5).map (fun x => col (x + 4) ^^^ (col (x + 1)).rotateLeft 1)
  lanes (fun x y => laneAt a x y ^^^ par.getD x 0)

/-- ρ and π: lane (x, y) comes, turned, from lane (x + 3y, x). -/
def stepRhoPi (rot : List Nat) (a : List KLane) : List KLane :=
  lanes (fun x y => (laneAt a (x + 3 * y) x).rotateLeft (rot.getD ((x + 3 * y) % 5 + 5 * x) 0))

/-- χ, then ι of round `n`. -/
def stepChiIota (n : Nat) (a : List KLane) : List KLane :=
  lanes (fun x y =>
    let v := laneAt a x y ^^^ (~~~ laneAt a (x + 1) y &&& laneAt a (x + 2) y)
    if x + y == 0 then v ^^^ roundConst n else v)

/-- The permutation Keccak-f[1600]: 24 rounds. -/
def permute (a : List KLane) : List KLane :=
  let rot := rotTable
  (List.range 24).foldl (fun a n => stepChiIota n (stepRhoPi rot (stepTheta a))) a

/-- Rate of SHA3-256 in bytes. -/
def sha3Rate : Nat := 136

/-- Take in `n` blocks of the padded message. -/
def sponge : Nat → List KLane → List Byte → List KLane
  | 0, a, _ => a
  | n + 1, a, bs =>
    let word (i : Nat) : KLane := if i < sha3Rate / 8 then BitVec.ofNat 64 (leAt bs (8 * i) 8) else 0
    sponge n (permute (lanes (fun x y => laneAt a x y ^^^ word (x + 5 * y)))) (bs.drop sha3Rate)

/-- The message with the suffix bits 01 and the padding 10*1, up to a whole number of blocks. -/
def sha3Pad (bs : List Byte) : List Byte :=
  let gap := sha3Rate - bs.length % sha3Rate
  bs ++ natBytes gap (6 + 2 ^ (8 * gap - 1))

def sha3 (bs : List Byte) : List Byte :=
  let p := sha3Pad bs
  (((sponge (p.length / sha3Rate) (lanes (fun _ _ => 0)) p).take 4).map (fun w => natBytes 8 w.toNat)).flatten

/-! CRC-32C (R426): reflected polynomial 0x82F6_3B78, initial value and final exclusive or 0xFFFF_FFFF. -/

def crcBits : Nat → Word → Word
  | 0, c => c
  | n + 1, c => crcBits n (if c.getLsbD 0 then (c >>> 1) ^^^ 0x82F63B78#32 else c >>> 1)

def crc32c (bs : List Byte) : Word :=
  (bs.foldl (fun c b => crcBits 8 (c ^^^ b.setWidth 32)) 0xFFFFFFFF#32) ^^^ 0xFFFFFFFF#32

/-! The BCH code (R217). -/

/-- g(x) = m1(x) m3(x), with m1 = x⁸+x⁴+x³+x²+1 and m3 = x⁸+x⁶+x⁵+x⁴+x²+x+1, the minimal polynomial of α³. -/
def bchG : Nat := 0x16F63

/-- Multiply by x modulo g. -/
def bchStep (r : Nat) : Nat := let t := 2 * r; if t ≥ 65536 then Nat.xor t bchG else t

def bchPow : Nat → Nat
  | 0 => 1
  | n + 1 => bchStep (bchPow n)

/-- Remainder of a 144-bit codeword: bit j is the coefficient of x^j. -/
def bchRem : Nat → Nat → Nat
  | 0, _ => 0
  | n + 1, w => Nat.xor (b2n (w % 2 == 1)) (bchStep (bchRem n (w / 2)))

/-- The 16 check bits of a 128-bit word. -/
def bchCheck (w : Nat) : Nat := bchRem 144 (w * 65536)

/-- The error positions of a syndrome: none when it is 0, one or two codeword positions, or uncorrectable. -/
inductive EccFind where
  | clean
  | corr (a : Nat) (b : Option Nat)
  | bad
  deriving DecidableEq, Repr

def bchPowers : List Nat := ((List.range 143).foldl (fun (l : List Nat × Nat) _ => (l.1 ++ [bchStep l.2], bchStep l.2)) ([1], 1)).1

def bchFind (syn : Nat) : EccFind :=
  if syn == 0 then .clean
  else match bchPowers.findIdx? (· == syn) with
    | some a => .corr a none
    | none =>
      match (List.range 144).find? (fun a => bchPowers.any (· == Nat.xor syn (bchPowers.getD a 0))) with
      | some a => .corr a (bchPowers.findIdx? (· == Nat.xor syn (bchPowers.getD a 0)))
      | none => .bad

/-- The first syndrome from `p` on that no error of one or two bits gives. -/
def farSyn : Nat → BitVec 16 → BitVec 16
  | 0, p => p
  | n + 1, p => if bchFind p.toNat = .bad then p else farSyn n (p + 1)

/-- STK_ECCINFO.POISON (R221): the device's fused value, which no error of one or two bits produces. -/
def poison : BitVec 16 := farSyn 65536 Config.poison

/-- A 128-bit word with the data bits among the found positions flipped. -/
def bchFlip (w : Nat) : EccFind → Nat
  | .corr a b =>
    let f (w : Nat) (p : Nat) : Nat := if p < 16 then w else Nat.xor w (2 ^ (p - 16))
    match b with
    | some q => f (f w a) q
    | none => f w a
  | _ => w

end Sys2Proof.Machine
end

