-- ==== Sys2Proof/Machine/Regs.lean ====
section
/-! DEFINITION. The register map (Tables 09.8 to 09.10, 10.8 to 10.10, 13.6, 14.11 to 14.13, 17.7 to 17.10, 18.6): every field with
its access code (Table 00.5) and reset value, and reading and writing registers by reader class (R6 to R8, R415 to R419). -/

namespace Sys2Proof.Machine

/-- Access codes of Table 00.5. -/
inductive Acc where
  | ro | rw | rc | wo | w1s | grd | mbx
  deriving DecidableEq, Repr

/-- A field: bits, access, reset value; `ret` marks a retained field (its value here is that of the first start, R403); `pf` a field whose
description says PF (R339). -/
structure Field where
  hi : Nat
  lo : Nat
  acc : Acc
  rst : Nat
  ret : Bool
  pf : Bool
  deriving DecidableEq, Repr

/-- A register: page offset, number of copies and their stride, fields. -/
structure Reg where
  off : Nat
  n : Nat
  stride : Nat
  fields : List Field
  deriving DecidableEq, Repr

def ro (hi lo v : Nat) : Field := ⟨hi, lo, .ro, v, false, false⟩
def roR (hi lo v : Nat) : Field := ⟨hi, lo, .ro, v, true, false⟩
def rw (hi lo v : Nat) : Field := ⟨hi, lo, .rw, v, false, false⟩
def rwR (hi lo v : Nat) : Field := ⟨hi, lo, .rw, v, true, false⟩
def rwP (hi lo v : Nat) : Field := ⟨hi, lo, .rw, v, false, true⟩
def grd (hi lo v : Nat) : Field := ⟨hi, lo, .grd, v, false, false⟩
def grdR (hi lo v : Nat) : Field := ⟨hi, lo, .grd, v, true, false⟩
def rc (hi lo : Nat) : Field := ⟨hi, lo, .rc, 0, false, false⟩
def wo (hi lo : Nat) : Field := ⟨hi, lo, .wo, 0, false, false⟩
def w1s (hi lo : Nat) : Field := ⟨hi, lo, .w1s, 0, false, false⟩
def w1sP (hi lo : Nat) : Field := ⟨hi, lo, .w1s, 0, false, true⟩
def mbx (hi lo : Nat) : Field := ⟨hi, lo, .mbx, 0, false, false⟩

def stkRegs : List Reg :=
  [⟨0x0, 1, 4, [ro 15 8 0x20, ro 4 0 0]⟩,  -- STK_ID
   ⟨0x4, 1, 4, [ro 15 0 0]⟩,  -- STK_ECCINFO
   ⟨0x8, 1, 4, [rc 31 16, ro 6 4 1, ro 3 3 0, ro 2 2 0, ro 1 1 1, grd 0 0 0]⟩,  -- STK_STATUS
   ⟨0x10, 1, 4, [rc 31 0]⟩,  -- STK_CE_COUNT
   ⟨0x14, 1, 4, [rc 31 0]⟩,  -- STK_UE_COUNT
   ⟨0x18, 1, 4, [mbx 63 0]⟩,  -- STK_CE_LOG
   ⟨0x20, 1, 4, [mbx 63 0]⟩,  -- STK_UE_LOG
   ⟨0x28, 1, 4, [ro 8 0 0]⟩,  -- STK_WCB_STATUS
   ⟨0x2C, 1, 4, [rc 31 0]⟩,  -- STK_WCB_EVICT
   ⟨0x30, 1, 4, [rc 31 0]⟩,  -- STK_WCB_RMW
   ⟨0x34, 1, 4, [rc 3 0]⟩,  -- STK_REF_STATUS
   ⟨0x38, 1, 4, [rc 31 0]⟩,  -- STK_REF_BREAKS
   ⟨0x3C, 1, 4, [rc 31 0]⟩,  -- STK_RH_REFRESH
   ⟨0x40, 1, 4, [mbx 63 0]⟩,  -- STK_RDBYTES
   ⟨0x48, 1, 4, [mbx 63 0]⟩,  -- STK_WRBYTES
   ⟨0x50, 1, 4, [mbx 63 0]⟩,  -- STK_CREMABYTES
   ⟨0x100, 1, 4, [grd 31 31 0, grd 7 3 0, grd 2 0 0]⟩,  -- STK_RPR_CMD
   ⟨0x104, 1, 4, [grd 29 24 0, grd 23 22 0, grd 21 20 0, grd 19 18 0, grd 17 4 0, grd 3 0 0]⟩,  -- STK_RPR_ADDR
   ⟨0x108, 1, 4, [grd 31 31 0, grd 11 8 8, grd 2 0 0]⟩,  -- STK_RPR_STATUS
   ⟨0x140, 18, 4, [grd 31 0 0]⟩]  -- STK_RPR_DATA0–17

def stkcRegs : List Reg :=
  [⟨0x0, 1, 4, [roR 3 0 0xe]⟩,  -- STK_BGCLASS
   ⟨0x4, 1, 4, [grd 31 31 0, grd 30 30 0, grd 10 8 0, grd 4 4 0, grd 1 0 0]⟩,  -- STK_CLASSCHG
   ⟨0x8, 1, 4, [grd 5 0 8]⟩,  -- STK_RH_CFG
   ⟨0x800, 64, 32, [grd 31 31 0, grd 30 30 0, grd 27 24 0, grd 17 17 0, grd 16 16 0, grd 6 6 0, grd 5 5 0, grd 4 4 0, grd 3 3 0, grd 2 2 0, grd 1 1 0, grd 0 0 0]⟩,  -- STK_RAT_CTL
   ⟨0x804, 64, 32, [grd 31 21 0]⟩,  -- STK_RAT_BASELO
   ⟨0x808, 64, 32, [grd 15 0 0]⟩,  -- STK_RAT_BASEHI
   ⟨0x80C, 64, 32, [grd 19 0 0]⟩,  -- STK_RAT_SIZE
   ⟨0x810, 64, 32, [grd 15 0 0]⟩]  -- STK_RAT_PCSEL

def crmRegs : List Reg :=
  [⟨0x0, 1, 4, [ro 15 8 0x40, ro 4 0 0]⟩,  -- CRM_ID
   ⟨0x4, 1, 4, [ro 23 16 0, ro 6 0 0x40]⟩,  -- CRM_STATUS
   ⟨0x8, 1, 4, [rc 31 0]⟩,  -- CRM_REJECT
   ⟨0xC, 1, 4, [rc 31 0]⟩,  -- CRM_SRAM_CE
   ⟨0x10, 1, 4, [rc 31 0]⟩,  -- CRM_SRAM_UE
   ⟨0x14, 1, 4, [rc 31 0]⟩,  -- CRM_THROTTLE
   ⟨0x18, 1, 4, [rc 31 0]⟩,  -- CRM_BREAKSTALL
   ⟨0x1000, 64, 32, [ro 31 28 0, ro 27 24 0, ro 23 19 0, ro 11 0 0]⟩,  -- CRM_U_STATE
   ⟨0x1004, 64, 32, [ro 23 0 0]⟩,  -- CRM_U_ROW
   ⟨0x1008, 64, 32, [mbx 63 0]⟩,  -- CRM_U_BUSY
   ⟨0x1010, 64, 32, [mbx 63 0]⟩,  -- CRM_U_SEGS
   ⟨0x1018, 64, 32, []⟩, ⟨0x101C, 64, 32, []⟩]  -- reserved words of Table 10.9

def crmcRegs : List Reg :=
  [⟨0x0, 1, 4, [grd 15 15 1, grd 6 0 0x40]⟩,  -- CRM_BUDGET
   ⟨0x4, 1, 4, [ro 31 24 0x28, ro 23 16 0x38, ro 15 8 0x40, ro 7 0 0x40]⟩,  -- CRM_BANDCAP
   ⟨0x8, 1, 4, [grd 15 8 8, grd 7 0 0x20]⟩]  -- CRM_RAMP

def prtRegs : List Reg :=
  [⟨0x0, 1, 4, [ro 20 20 0, ro 19 16 0, ro 3 0 0]⟩,  -- PRT_ID
   ⟨0x4, 1, 4, [ro 31 16 0, ro 3 0 0]⟩,  -- PRT_STATE
   ⟨0x8, 1, 4, [w1sP 31 31, ro 11 8 0, rwP 2 0 0]⟩,  -- PRT_JOBCTL
   ⟨0xC, 1, 4, [rw 31 0 0]⟩,  -- PRT_ARGLO
   ⟨0x10, 1, 4, [rw 15 0 0]⟩,  -- PRT_ARGHI
   ⟨0x14, 1, 4, [rwP 31 12 0]⟩,  -- PRT_SAVE_LO
   ⟨0x18, 1, 4, [rwP 15 0 0]⟩,  -- PRT_SAVE_HI
   ⟨0x20, 1, 4, [w1s 31 31]⟩,  -- PRT_LOADDB
   ⟨0x24, 1, 4, [w1s 31 31]⟩,  -- PRT_REQDB
   ⟨0x28, 1, 4, [rc 1 1, rc 0 0]⟩,  -- PRT_DBSTAT
   ⟨0x30, 1, 4, [wo 16 16, wo 11 0]⟩,  -- PRT_FLAGSET
   ⟨0x40, 1, 4, [rw 31 0 0]⟩,  -- PRT_TRUNC_PROG
   ⟨0x44, 1, 4, [rw 31 0 0]⟩,  -- PRT_TRUNC_CUT
   ⟨0x48, 1, 4, [w1s 31 31, rc 1 1, rw 0 0 0]⟩,  -- PRT_TRUNC_CTL
   ⟨0x50, 1, 4, [rwR 31 0 0]⟩,  -- PRT_TOKBUDGET
   ⟨0x54, 1, 4, [rwR 31 0 0]⟩,  -- PRT_PCHUNK
   ⟨0x58, 1, 4, [rwR 31 0 0]⟩,  -- PRT_LOWWATER
   ⟨0x5C, 1, 4, [rwR 11 8 0, rwR 1 1 0]⟩,  -- PRT_JOBFLAGS
   ⟨0x60, 1, 4, [rwP 31 16 0x3e8, rwP 15 0 0x4000]⟩,  -- PRT_CFG
   ⟨0x64, 1, 4, [w1s 31 31, rc 8 8, rw 7 0 0]⟩,  -- PRT_RINGSET
   ⟨0x80, 1, 4, [rwP 19 0 0]⟩,  -- PRT_REG_STKRATE
   ⟨0x84, 1, 4, [rwP 23 0 0]⟩,  -- PRT_REG_STKBURST
   ⟨0x88, 1, 4, [rwP 19 0 0]⟩,  -- PRT_REG_NETRATE
   ⟨0x8C, 1, 4, [rwP 23 0 0]⟩,  -- PRT_REG_NETBURST
   ⟨0x90, 1, 4, [rwP 19 0 0]⟩,  -- PRT_REG_HOSTRATE
   ⟨0x94, 1, 4, [rwP 23 0 0]⟩,  -- PRT_REG_HOSTBURST
   ⟨0xA0, 1, 4, [rc 31 0]⟩,  -- PRT_REG_STKWAIT
   ⟨0xA4, 1, 4, [rc 31 0]⟩,  -- PRT_REG_NETWAIT
   ⟨0xA8, 1, 4, [rc 31 0]⟩,  -- PRT_REG_HOSTWAIT
   ⟨0xC0, 1, 4, [rwP 31 6 0]⟩,  -- PRT_FRING_LO
   ⟨0xC4, 1, 4, [rwP 20 16 6, rwP 15 0 0]⟩,  -- PRT_FRING_HI
   ⟨0xC8, 1, 4, [ro 31 0 0]⟩,  -- PRT_FRING_PROD
   ⟨0xCC, 1, 4, [rw 31 0 0]⟩,  -- PRT_FRING_CONS
   ⟨0xD0, 1, 4, [rc 31 0]⟩,  -- PRT_FRING_OVF
   ⟨0xD4, 1, 4, [w1s 31 31, rc 19 19, rw 18 18 0, rw 17 16 0, rw 15 0 0]⟩,  -- PRT_FAULTCTL
   ⟨0xD8, 1, 4, [mbx 511 0]⟩,  -- PRT_FAULT_LAST
   ⟨0x100, 1, 4, [mbx 63 0]⟩,  -- PRT_CREMA_SEGS
   ⟨0x108, 1, 4, [rc 31 0]⟩,  -- PRT_CREMA_REJECT
   ⟨0x10C, 1, 4, [rc 31 0]⟩,  -- PRT_CREMA_THROTTLE
   ⟨0x110, 1, 4, [mbx 63 0]⟩,  -- PRT_SUSP_TIME
   ⟨0x118, 1, 4, [ro 31 0 0]⟩,  -- PRT_STEPREC_PROD
   ⟨0x400, 128, 4, [ro 31 0 0]⟩]  -- PRT_FLAGS0–127

def netRegs : List Reg :=
  [⟨0x0, 1, 4, [ro 1 0 0]⟩,  -- NET_ID
   ⟨0x4, 1, 4, [grdR 8 8 0, grdR 1 0 0]⟩,  -- NET_MODE
   ⟨0x8, 1, 4, [ro 11 8 0, ro 3 0 0]⟩,  -- NET_LINK
   ⟨0xC, 1, 4, [rc 3 0]⟩,  -- NET_LINKCHG
   ⟨0x10, 1, 4, [grdR 23 16 0, grdR 15 8 0, grdR 5 3 0, grdR 2 0 0]⟩,  -- NET_PFCCFG
   ⟨0x14, 1, 4, [grd 15 0 0x64]⟩,  -- NET_PFCWD
   ⟨0x18, 4, 4, [grdR 31 16 0, grdR 15 0 0]⟩,  -- NET_TSCORR0–3
   ⟨0x40, 1, 4, [mbx 63 0]⟩,  -- NET_RXBYTES
   ⟨0x48, 1, 4, [mbx 63 0]⟩,  -- NET_TXBYTES
   ⟨0x50, 1, 4, [mbx 63 0]⟩,  -- NET_FECCORR
   ⟨0x58, 1, 4, [rc 31 0]⟩,  -- NET_FECUNC
   ⟨0x5C, 1, 4, [rc 31 0]⟩,  -- NET_DROP_CRC
   ⟨0x60, 1, 4, [rc 31 0]⟩,  -- NET_PAUSERX
   ⟨0x64, 1, 4, [rc 31 0]⟩,  -- NET_PFCWDTRIP
   ⟨0x68, 1, 4, [rc 31 0]⟩,  -- NET_RXDROP
   ⟨0x1000, 1, 4, [grdR 1 1 0, grdR 0 0 0]⟩,  -- NET_CFG
   ⟨0x1004, 1, 4, [grd 23 16 0xa, grd 11 9 6, grd 8 6 7, grd 4 0 5]⟩,  -- NET_RETRY
   ⟨0x1008, 1, 4, [grd 23 16 2, grd 15 0 0x10]⟩,  -- NET_CC_TIMERS
   ⟨0x100C, 1, 4, [grd 31 24 0x80, grd 15 8 2, grd 7 0 4]⟩,  -- NET_CC_PARAM
   ⟨0x1010, 1, 4, [grd 15 0 0x14]⟩,  -- NET_CC_MIN
   ⟨0x1014, 1, 4, [grd 15 0 0x28]⟩,  -- NET_CC_LIMIT
   ⟨0x1018, 1, 4, [ro 14 0 0]⟩,  -- NET_QP_INUSE
   ⟨0x101C, 1, 4, [ro 16 0 0]⟩,  -- NET_PEER_INUSE
   ⟨0x1020, 1, 4, [mbx 255 0]⟩,  -- NET_DIGEST
   ⟨0x1040, 1, 4, [rc 31 16, ro 0 0 0]⟩,  -- NET_DIGSTATE
   ⟨0x1044, 1, 4, [rc 31 0]⟩,  -- NET_VIOL_PKT
   ⟨0x1048, 1, 4, [rc 31 0]⟩,  -- NET_VIOL_KEY
   ⟨0x104C, 1, 4, [rc 31 0]⟩,  -- NET_VIOL_OPC
   ⟨0x1050, 1, 4, [rc 31 0]⟩,  -- NET_VIOL_IMM
   ⟨0x1054, 1, 4, [rc 31 0]⟩,  -- NET_VIOL_CM
   ⟨0x1058, 1, 4, [rc 31 0]⟩,  -- NET_RNR_SENT
   ⟨0x105C, 1, 4, [rc 31 0]⟩]  -- NET_QPERR

def timRegs : List Reg :=
  [⟨0x0, 1, 4, [mbx 63 0]⟩,  -- TIM_NOW
   ⟨0x8, 1, 4, [mbx 63 0]⟩,  -- TIM_MONO
   ⟨0x10, 1, 4, [ro 23 20 0, rc 19 19, rc 18 18, ro 2 0 0]⟩,  -- TIM_STATUS
   ⟨0x14, 1, 4, [ro 31 0 0]⟩,  -- TIM_OFFSET
   ⟨0x18, 1, 4, [grdR 31 0 0]⟩,  -- TIM_FREQ
   ⟨0x1C, 1, 4, [w1s 31 31]⟩,  -- TIM_STEP_CTL
   ⟨0x20, 1, 4, [grd 31 0 0]⟩,  -- TIM_STEP_LO
   ⟨0x24, 1, 4, [grd 31 0 0]⟩,  -- TIM_STEP_HI
   ⟨0x28, 1, 4, [grdR 23 16 0, grdR 15 0 0]⟩,  -- TIM_PTPCFG
   ⟨0x2C, 1, 4, [grd 31 16 0x258, grd 15 0 0x14]⟩,  -- TIM_LOCK
   ⟨0x30, 1, 4, [grdR 31 31 0, grdR 30 30 0, grdR 29 29 0, grd 19 0 0x186a0]⟩,  -- TIM_PPS
   ⟨0x38, 1, 4, [mbx 63 0]⟩]  -- TIM_PPSIN_TS

def glbRegs : List Reg :=
  [⟨0x0, 1, 4, [ro 31 16 0x4b57, ro 15 8 0x20, ro 7 4 1, ro 3 0 0]⟩,  -- GLB_ID
   ⟨0x4, 1, 4, [ro 11 8 0, ro 3 0 0]⟩,  -- GLB_STATE
   ⟨0x8, 1, 4, [mbx 63 0]⟩,  -- GLB_SERIAL
   ⟨0x10, 1, 4, [rw 31 0 0]⟩,  -- GLB_SCRATCH
   ⟨0x20, 1, 4, [rw 29 28 0, rw 24 3 0]⟩,  -- GLB_MBX_SEL
   ⟨0x24, 1, 4, [ro 1 1 0, ro 0 0 0]⟩,  -- GLB_MBX_STATUS
   ⟨0x40, 8, 4, [ro 31 0 0]⟩,  -- GLB_MBX_DATA0–7
   ⟨0x80, 1, 4, [rwP 31 21 0]⟩,  -- GLB_BAR2_LO
   ⟨0x84, 1, 4, [rw 15 0 0]⟩,  -- GLB_BAR2_HI
   ⟨0xC0, 1, 4, [ro 31 0 0]⟩,  -- GLB_CFGCRC
   ⟨0xC4, 1, 4, [ro 31 0 0]⟩,  -- GLB_CFGREF
   ⟨0xC8, 1, 4, [rc 31 16, ro 0 0 0]⟩,  -- GLB_CFGCHK
   ⟨0xCC, 1, 4, [ro 31 0 0]⟩]  -- GLB_CFGSEQ

def mgtRegs : List Reg :=
  [⟨0x0, 1, 4, [ro 3 0 0]⟩,  -- MGT_FWSTATE
   ⟨0x4, 1, 4, [roR 31 0 0]⟩,  -- MGT_BOOTCOUNT
   ⟨0x8, 1, 4, [mbx 63 0]⟩,  -- MGT_BUILD
   ⟨0x10, 1, 4, [ro 15 8 0, ro 7 4 0, ro 1 0 0]⟩,  -- MGT_FWINFO
   ⟨0x14, 1, 4, [ro 31 24 0, ro 23 19 0, ro 18 16 0, ro 15 14 0]⟩,  -- MGT_FUSECNT
   ⟨0x20, 1, 4, [w1sP 31 31, rw 1 1 0]⟩,  -- MGT_RESET
   ⟨0x30, 1, 4, [w1s 31 31, ro 30 30 0]⟩,  -- MGT_REQCTL
   ⟨0x34, 1, 4, [rc 31 31, ro 15 0 0]⟩,  -- MGT_REQSTAT
   ⟨0x38, 1, 4, [ro 0 0 0]⟩,  -- MGT_AUTH
   ⟨0x40, 8, 4, [grdR 31 0 0]⟩,  -- MGT_BMCKEY0–7
   ⟨0x60, 1, 4, [w1s 31 31, rw 0 0 0]⟩,  -- MGT_RECOV_CTL
   ⟨0x64, 1, 4, [rw 31 0 0]⟩,  -- MGT_RECOV_SIZE
   ⟨0x68, 1, 4, [ro 11 8 0, ro 1 0 0]⟩,  -- MGT_RECOV_STATUS
   ⟨0x1000, 1024, 4, [rw 31 0 0]⟩,  -- MGT_REQBUF
   ⟨0x2000, 2048, 4, [ro 31 0 0]⟩]  -- MGT_RSPBUF

def dbgRegs : List Reg :=
  [⟨0x0, 1, 4, [rw 31 31 0, rw 15 0 0]⟩,  -- DBG_TRACE_CTL
   ⟨0x4, 1, 4, [rw 31 12 0]⟩,  -- DBG_TRACE_LO
   ⟨0x8, 1, 4, [rw 20 16 6, rw 15 0 0]⟩,  -- DBG_TRACE_HI
   ⟨0xC, 1, 4, [ro 31 0 0]⟩,  -- DBG_TRACE_PROD
   ⟨0x10, 1, 4, [rw 31 0 0]⟩,  -- DBG_TRACE_CONS
   ⟨0x14, 1, 4, [rc 31 0]⟩,  -- DBG_TRACE_DROP
   ⟨0x18, 1, 4, [ro 18 0 0]⟩,  -- DBG_BUF_FILL
   ⟨0x1C, 1, 4, [ro 1 1 0, ro 0 0 0]⟩,  -- DBG_DMA
   ⟨0x40, 16, 16, [rw 31 12 0]⟩,  -- DBG_DUMP_LO
   ⟨0x44, 16, 16, [rw 20 16 0x14, rw 15 0 0]⟩,  -- DBG_DUMP_HI
   ⟨0x48, 16, 16, [ro 31 0 0]⟩,  -- DBG_DUMP_PROD
   ⟨0x4C, 16, 16, [rw 31 0 0]⟩,  -- DBG_DUMP_CONS
   ⟨0x140, 1, 4, [rc 31 0]⟩,  -- DBG_DUMP_DROP
   ⟨0x144, 1, 4, [rc 31 0]⟩,  -- DBG_CUP_HITS
   ⟨0x148, 1, 4, [rc 31 0]⟩,  -- DBG_CODEC_BAD
   ⟨0x14C, 1, 4, [rc 31 0]⟩]  -- DBG_REC_BAD

def dbgcRegs : List Reg :=
  [⟨0x0, 1, 4, [grd 31 12 0]⟩,  -- DBG_EVLOG_LO
   ⟨0x4, 1, 4, [grd 20 16 0xa, grd 15 0 0]⟩,  -- DBG_EVLOG_HI
   ⟨0x8, 1, 4, [ro 31 0 0]⟩,  -- DBG_EVLOG_PROD
   ⟨0xC, 1, 4, [rw 31 0 0]⟩,  -- DBG_EVLOG_CONS
   ⟨0x10, 1, 4, [rc 31 0]⟩,  -- DBG_EVLOG_DROP
   ⟨0x14, 1, 4, [rw 9 1 0x1ff]⟩]  -- DBG_EVLOG_CTL

def thmRegs : List Reg :=
  [⟨0x0, 1, 4, [ro 9 9 0, ro 8 6 1, ro 5 3 1, ro 2 0 1]⟩,  -- THM_STATUS
   ⟨0x4, 1, 4, [ro 29 0 0x9249249]⟩,  -- THM_BANDS_STK0
   ⟨0x8, 1, 4, [ro 29 0 0x9249249]⟩,  -- THM_BANDS_STK1
   ⟨0xC, 1, 4, [ro 14 12 1, ro 11 0 0x249]⟩,  -- THM_BANDS_OTHER
   ⟨0x10, 1, 4, [ro 7 0 0]⟩,  -- THM_BROKEN
   ⟨0x14, 1, 4, [rwR 8 8 1, rwR 2 0 3]⟩,  -- THM_ALERT_CFG
   ⟨0x18, 1, 4, [ro 31 31 0, ro 15 8 0, ro 7 0 0]⟩,  -- THM_TRIP
   ⟨0x20, 1, 4, [ro 27 16 0x578, ro 11 0 0x578]⟩,  -- THM_CLOCK
   ⟨0x24, 1, 4, [rwR 11 0 0xd48]⟩,  -- THM_PLIMIT
   ⟨0x28, 1, 4, [grdR 11 0 0xd48]⟩,  -- THM_PCEIL
   ⟨0x2C, 1, 4, [ro 31 31 0, rc 15 0]⟩,  -- THM_LOOP
   ⟨0x30, 1, 4, [rc 31 16, ro 15 0 0]⟩,  -- THM_PKGPWR
   ⟨0x40, 7, 16, [ro 15 0 0]⟩,  -- THM_RAIL_V
   ⟨0x44, 7, 16, [ro 15 0 0]⟩,  -- THM_RAIL_I
   ⟨0x48, 7, 16, [ro 15 0 0]⟩,  -- THM_RAIL_P
   ⟨0x4C, 7, 16, [rc 0 0]⟩,  -- THM_RAIL_FLAGS
   ⟨0xC0, 1, 4, [roR 5 0 0]⟩,  -- THM_VGUARD
   ⟨0xC4, 1, 4, [roR 16 16 0, roR 15 0 0]⟩,  -- THM_ROAST_CD
   ⟨0xC8, 1, 4, [mbx 63 0]⟩,  -- THM_ROAST_LAST
   ⟨0x400, 220, 4, [ro 31 31 0, ro 11 0 0]⟩]  -- THM_SENSOR

def regsOf : Blk → List Reg
  | .glb => glbRegs | .mgt => mgtRegs | .thm => thmRegs | .tim => timRegs | .stk => stkRegs | .stkc => stkcRegs
  | .crm => crmRegs | .crmc => crmcRegs | .net => netRegs | .dbg => dbgRegs | .dbgc => dbgcRegs | .prt => prtRegs

/-- The register at a page offset (word offset), if the tables list one; wide fields cover both their words. -/
def findReg (b : Blk) (off : Nat) : Option Reg :=
  (regsOf b).find? (fun r => decide (r.off ≤ off) && (off - r.off) % r.stride == 0 && decide ((off - r.off) / r.stride < r.n))

def Field.mask (f : Field) : Nat := (2 ^ (f.hi + 1 - f.lo) - 1) * 2 ^ f.lo

def maskOf (fs : List Field) : Nat := fs.foldl (fun m f => m + f.mask) 0

/-- Reset word of a register's table fields. -/
def Reg.rst (r : Reg) : Nat := r.fields.foldl (fun w f => w + f.rst * 2 ^ f.lo) 0

/-- Fuse-loaded fields that depend on the copy (STK_ID.STACK, CRM_ID.STACK, PRT_ID.PART, NET_ID.DIE) or on the part. -/
def fuseBits (k : RegKey) : Nat :=
  match k.blk, k.off with
  | .stk, 0 => k.inst
  | .stk, 4 => poison.toNat
  | .crm, 0 => k.inst
  | .prt, 0 => k.inst
  | .net, 0 => k.inst
  | _, _ => 0

def resetW (k : RegKey) : Word :=
  BitVec.ofNat 32 ((match findReg k.blk k.off with | some r => r.rst | none => 0) + fuseBits k)

def lookupR {α : Type} (l : List (RegKey × α)) (k : RegKey) : Option α := (l.find? (fun p => p.1 == k)).map Prod.snd

def storeR {α : Type} : List (RegKey × α) → RegKey → α → List (RegKey × α)
  | [], k, v => [(k, v)]
  | (a, x) :: t, k, v => if a = k then (k, v) :: t else (a, x) :: storeR t k v

/-- A register word as it stands: stored, or at its reset value. -/
def rawW (s : State) (k : RegKey) : Word := (lookupR s.regs k).getD (resetW k)

def State.setW (s : State) (k : RegKey) (w : Word) : State := { s with regs := storeR s.regs k w }

/-- The shared copy of a register, as a number. -/
def reg (s : State) (b : Blk) (i off : Nat) : Nat := (rawW s ⟨b, i, off, 0⟩).toNat

def regF (s : State) (b : Blk) (i off hi lo : Nat) : Nat := fld (reg s b i off) hi lo

def State.setReg (s : State) (b : Blk) (i off v : Nat) : State := s.setW ⟨b, i, off, 0⟩ (BitVec.ofNat 32 v)

def State.setRegF (s : State) (b : Blk) (i off hi lo v : Nat) : State := s.setReg b i off (setFld (reg s b i off) hi lo v)

/-- Copies of RC fields: PF, firmware, and the owning VF for PRT fields (R419). -/
def rcCopies (b : Blk) : List Nat := if b = .prt then [0, 1, 2] else [0, 2]

/-- Change an RC field in every class's copy. -/
def State.updRC (s : State) (b : Blk) (i off hi lo : Nat) (f : Nat → Nat) : State :=
  (rcCopies b).foldl (fun s c =>
    let k : RegKey := ⟨b, i, off, c⟩
    let w := (rawW s k).toNat
    s.setW k (BitVec.ofNat 32 (setFld w hi lo (f (fld w hi lo))))) s

/-- A saturating RC counter counts `n` more in every copy (R419). -/
def State.bumpRC (s : State) (b : Blk) (i off hi lo n : Nat) : State :=
  s.updRC b i off hi lo (fun x => min (x + n) (2 ^ (hi + 1 - lo) - 1))

def State.bump (s : State) (b : Blk) (i off : Nat) : State := s.bumpRC b i off 31 0 1

/-- A status bit of an RC field is set in every copy. -/
def State.markRC (s : State) (b : Blk) (i off n : Nat) : State := s.updRC b i off n n (fun _ => 1)

def getWide (s : State) (k : RegKey) : Nat := ((lookupR s.wide k).getD 0).toNat

def State.setWide (s : State) (k : RegKey) (v : Nat) : State := { s with wide := storeR s.wide k (BitVec.ofNat 512 v) }

/-- A 64-bit MBX counter adds `n`, wrapping (R445). -/
def State.addWide (s : State) (b : Blk) (i off n : Nat) : State :=
  let k : RegKey := ⟨b, i, off, 0⟩
  s.setWide k ((getWide s k + n) % 2 ^ 64)

/-- The copy of RC fields and of PRT_ARG that a class uses (R339, R419): BMC and JTAG use firmware's. -/
def copyOf : RClass → Nat
  | .pf => 0 | .vf _ => 1 | _ => 2

/-- The instance of the mailbox and of the request page that a class uses (R422, R423). -/
def slotOf : RClass → Nat
  | .pf => 0 | .vf _ => 1 | .fw => 2 | .bmc => 3 | .bmcU => 3 | .jtag => 4

/-- A field's bits in a class's copy: RC fields in the class's, the others shared. -/
def readWord (s : State) (c : RClass) (b : Blk) (i off : Nat) : Nat :=
  match findReg b off with
  | none => 0
  | some r =>
    let w0 := reg s b i off
    let wc := (rawW s ⟨b, i, off, copyOf c⟩).toNat
    r.fields.foldl (fun w f =>
      let v := match f.acc with
        | .rc => fld wc f.hi f.lo
        | .wo => 0
        | .w1s => 0
        | .mbx => 0
        | .grd => (match c with | .pf => 0 | .vf _ => 0 | .bmcU => 0 | _ => fld w0 f.hi f.lo)
        | _ => fld w0 f.hi f.lo
      w + v * 2 ^ f.lo) 0

/-- Clear the RC fields of a register in the reader's copy (R419); BMC and JTAG read without clearing. -/
def State.clearRC (s : State) (c : RClass) (b : Blk) (i off : Nat) : State :=
  let go : Bool := match c with | .bmc => false | .bmcU => false | .jtag => false | _ => true
  match findReg b off with
  | none => s
  | some r =>
    let fs := r.fields.filter (fun f => f.acc == .rc)
    if go && !fs.isEmpty then
      let k : RegKey := ⟨b, i, off, copyOf c⟩
      s.setW k (BitVec.ofNat 32 (fs.foldl (fun w f => setFld w f.hi f.lo 0) (rawW s k).toNat))
    else s

/-- Whether a class may write a field (Table 00.5, R339, R418). -/
def mayWrite (c : RClass) (f : Field) : Bool :=
  match f.acc, c with
  | _, .bmcU => false
  | .rw, .vf _ => !f.pf
  | .rw, _ => true
  | .grd, .fw => true
  | .grd, .bmc => true
  | .grd, .jtag => true
  | _, _ => false

/-- Store the writable bits of a value (R8: reserved and read-only bits are dropped). -/
def State.writeWord (s : State) (c : RClass) (b : Blk) (i off v : Nat) : State :=
  match findReg b off with
  | none => s
  | some r =>
    let fs := r.fields.filter (mayWrite c)
    if fs.isEmpty then s else s.setReg b i off (fs.foldl (fun w f => setFld w f.hi f.lo (fld v f.hi f.lo)) (reg s b i off))

/-- Block, copy and page offset that a PF BAR0 offset decodes to (R415, Table 17.1). -/
def decodeOff (a : Nat) : Option (Blk × Nat × Nat) :=
  let o := if a < 0x4000000 then a % 0x2000000 else 0x4000000
  if o < 0x100000 then some (.glb, 0, o % 0x1000)
  else if o < 0x200000 then some (.mgt, 0, o % 0x4000)
  else if o < 0x300000 then some (.thm, 0, o % 0x1000)
  else if o < 0x400000 then some (.tim, 0, o % 0x1000)
  else if o < 0x600000 then
    let p := (o - 0x400000) / 0x10000
    if p < 20 then some (.stk, p, o % 0x4000) else if p == 28 then some (.stkc, 0, o % 0x4000) else none
  else if o < 0x800000 then
    let p := (o - 0x600000) / 0x10000
    if p < 20 then some (.crm, p, o % 0x4000) else if p == 28 then some (.crmc, 0, o % 0x4000) else none
  else if o < 0xC00000 then
    let n := (o - 0x800000) / 0x40000
    if n < 4 && !(n != 0 && 0x1000 ≤ o % 0x4000 && o % 0x4000 < 0x2000) then some (.net, n, o % 0x4000) else none
  else if o < 0x1000000 then
    if o < 0xE00000 then some (.dbg, (o - 0xC00000) / 0x20000, o % 0x1000)
    else if o < 0xE10000 then some (.dbgc, 0, o % 0x1000) else none
  else if o < 0x2000000 then some (.prt, (o - 0x1000000) / 0x100000, o % 0x1000)
  else none

end Sys2Proof.Machine
end

