-- ==== Sys2Proof/Machine/Ops.lean ====
section
/-! DEFINITION. The named operations over state: parts and jobs, events and MSI-X, stack memory with its windows, RAT, ECC and
write-combining (chapter 09), the other memories, regulators, trace, the flag store, fault records. -/

namespace Sys2Proof.Machine

/-! Parts and jobs (R15, R16). -/

def part (s : State) (p : Nat) : PartState := (getT s.parts p).getD {}
def State.modPart (s : State) (p : Nat) (f : PartState → PartState) : State := { s with parts := modT s.parts p {} f }
def job? (s : State) (lead : Nat) : Option Job := getT s.jobs lead
def State.setJob (s : State) (lead : Nat) (j : Job) : State := { s with jobs := putT s.jobs lead j }
def State.modJob (s : State) (lead : Nat) (f : Job → Job) : State :=
  match job? s lead with
  | some j => s.setJob lead (f j)
  | none => s
/-- The job a partition belongs to. -/
def jobOf (s : State) (p : Nat) : Option Job := (part s p).lead.bind (job? s)
def partsOf (s : State) (lead : Nat) : List Nat := match job? s lead with | some j => j.parts | none => []

/-- Step in flight with a step number. -/
def runOf (j : Job) (no : Nat) : Option StepRun := j.runs.find? (·.no == no)
def Job.modRun (j : Job) (no : Nat) (f : StepRun → StepRun) : Job :=
  { j with runs := j.runs.map (fun r => if r.no == no then f r else r) }
def dRun (r : StepRun) (i : Nat) : DRun := (getT r.runs i).getD {}
def State.modRun (s : State) (lead no : Nat) (f : StepRun → StepRun) : State := s.modJob lead (·.modRun no f)
def State.modD (s : State) (d : DTag) (f : DRun → DRun) : State :=
  s.modRun d.lead d.step (fun r => { r with runs := modT r.runs d.idx {} f })
def dRunOf (s : State) (d : DTag) : DRun :=
  match (job? s d.lead).bind (runOf · d.step) with
  | some r => dRun r d.idx
  | none => {}
def progOf (j : Job) (id : Word) : Option Prog := j.progs.find? (·.id == id)
def progIdx (j : Job) (id : Word) : Nat := j.progs.findIdx (·.id == id)

/-- PRT_STATE.STATE values (Table 13.6). -/
def pFree : Nat := 0
def pIdle : Nat := 1
def pRunning : Nat := 2
def pPaused : Nat := 3
def pSuspending : Nat := 4
def pSuspended : Nat := 5
def pResuming : Nat := 6
def pDebug : Nat := 7

def pState (s : State) (p : Nat) : Nat := regF s .prt p 0x004 3 0

/-! MSI-X (R359). Function 0 is the PF, p + 1 VF p + 1. -/

def State.msix (s : State) (fn vec : Nat) : State :=
  if s.pcie.masked.contains (fn, vec) then
    { s with pcie := { s.pcie with pend := if s.pcie.pend.contains (fn, vec) then s.pcie.pend else s.pcie.pend ++ [(fn, vec)] } }
  else { s with pcie := { s.pcie with msi := s.pcie.msi ++ [(fn, vec)] } }

/-- Source `k` of partition `p` (Table 14.8). -/
def State.msiPart (s : State) (p k : Nat) : State := (s.msix 0 (64 * p + k)).msix (p + 1) k

def State.setPState (s : State) (p v : Nat) : State :=
  if pState s p == v then s else (s.setRegF .prt p 0x004 3 0 v).msiPart p 2

/-! Windows (R206 to R213). A physical key is pseudo-channel * 2^30 + offset. -/

def classBits (s : State) : Nat := regF s .stkc 0 0 3 0
def isCremaIdx (s : State) (i : Nat) : Bool := bitN (classBits s) i
def hostIdxs (s : State) : List Nat := (List.range 4).filter (fun i => !isCremaIdx s i)
def numHost (s : State) : Nat := (hostIdxs s).length
def spreadTop (s : State) : Nat := numHost s * 0x5000000000
def bankBase : Nat := 0x800000000000
def bankTop : Nat := 0x814000000000

/-- R211. -/
def spreadKey (s : State) (a : Nat) : Option Nat :=
  let g := a / 256
  let line := g / 1280
  let h := Nat.xor (Nat.xor line (line / 32)) (line / 2048)
  let pc := (g + h) % 1280
  match (hostIdxs s)[line / 1048576]? with
  | none => none
  | some bg =>
    let l2 := line % 1048576
    some (pc * 2 ^ 30 + bg * 2 ^ 28 + fld l2 19 6 * 2 ^ 14 + fld l2 3 2 * 2 ^ 12 + fld l2 1 0 * 2 ^ 10 + fld l2 5 4 * 256 + a % 256)

/-- R213. -/
def bankKey (s : State) (a : Nat) : Option Nat :=
  if a < bankBase || bankTop ≤ a then none
  else if isCremaIdx s ((a - bankBase) % 2 ^ 30 / 2 ^ 28) then some (a - bankBase) else none

/-- Physical key of a stack-memory address; none when unmapped (R25). -/
def stackKey (s : State) (a : Nat) : Option Nat := if a < bankBase then spreadKey s a else bankKey s a

def keyPc (k : Nat) : Nat := k / 2 ^ 30
def keyStack (k : Nat) : Nat := k / 2 ^ 36

/-- What an access reaches at an address: mapped, and not in a stack in maintenance (R25, R235). -/
def hostKey (s : State) (a : Nat) : Option Nat := (stackKey s a).bind (fun k => if bitN (reg s .stk (keyStack k) 0x008) 0 then none else some k)

def keyBg (k : Nat) : Nat := k % 2 ^ 30 / 2 ^ 28
def keyRow (k : Nat) : Nat := k % 2 ^ 28 / 2 ^ 14
def keySid (k : Nat) : Nat := k % 2 ^ 14 / 2 ^ 12
def keyBank (k : Nat) : Nat := k % 2 ^ 12 / 2 ^ 10
def keySeg (k : Nat) : Nat := k % 2 ^ 10 / 64
/-- Bank number pc * 64 + BG * 16 + SID * 4 + BANK. -/
def keyBankId (k : Nat) : Nat := keyPc k * 64 + keyBg k * 16 + keySid k * 4 + keyBank k
def isHostKey (s : State) (k : Nat) : Bool := !isCremaIdx s (keyBg k)

/-! RAT (R214 to R216). -/

structure RatEnt where
  n : Nat
  valid : Bool
  window : Nat
  owner : Nat
  base : Nat
  /-- bytes -/
  size : Nat
  pcsel : Nat
  /-- bit 0 RD, 1 WR, 2 NRD, 3 NWR, 4 HRD, 5 HWR, 6 CRM (Table 09.10) -/
  perm : Nat
  dig : Bool
  nopat : Bool
  deriving DecidableEq, Repr

def ratEnt (s : State) (n : Nat) : RatEnt :=
  let w (i : Nat) : Nat := reg s .stkc 0 (0x800 + 32 * n + 4 * i)
  { n := n, valid := bitN (w 0) 31, window := fld (w 0) 30 30, owner := fld (w 0) 27 24,
    base := w 1 + fld (w 2) 15 0 * 2 ^ 32, size := fld (w 3) 19 0 * 0x200000, pcsel := fld (w 4) 15 0,
    perm := fld (w 0) 6 0, dig := bitN (w 0) 16, nopat := bitN (w 0) 17 }

def ratAll (s : State) : List RatEnt := ((List.range 64).map (ratEnt s)).filter (·.valid)

/-- Partitions named by a mask. -/
def maskParts (m : Nat) : List Nat := (List.range 16).filter (bitN m)

/-- Conditions 1 to 4 of R216 for one address: permission bit, who may own, whose pseudo-channels. -/
def ratHits (e : RatEnt) (perm : Nat) (own job : Nat → Bool) (a : Nat) : Bool :=
  e.valid && bitN e.perm perm && own e.owner &&
  (if a < bankBase then e.window == 0 && decide (e.base ≤ a) && decide (a < e.base + e.size)
   else
     let off := (a - bankBase) % 2 ^ 30
     e.window == 1 && decide (e.base ≤ off) && decide (off < e.base + e.size) &&
     bitN e.pcsel ((a - bankBase) / 2 ^ 30 % 16) && (maskParts e.pcsel).all job)

def ratOk (s : State) (perm : Nat) (own job : Nat → Bool) (a : Nat) : Bool :=
  (ratAll s).any (fun e => ratHits e perm own job a)

/-- Access by an engine of a job (RD 0, WR 1). -/
def ratJob (s : State) (perm : Nat) (parts : List Nat) (a : Nat) : Bool :=
  ratOk s perm parts.contains parts.contains a

/-! Events (R446, R447). -/

/-- An event as a rule raises it. Its DIE is the one that the rule names; where the rule names none it is the management die, 25 in Table 01.1, or
the compute die, 0, for what descriptors and Barista raise (R12; DESIGN CHOICE, log entry 147). -/
structure EvSpec where
  code : Nat
  part : Option Nat := none
  die : Nat := 25
  detail : List Nat := []
  /-- key of a once-per-second limit -/
  limit : Option Nat := none
  deriving DecidableEq, Repr

/-- Bytes written straight to DRAM cells, check bits right: what firmware's own whole-segment writes leave. -/
def Mem.putDram (m : Mem) (k : Nat) (bs : List Byte) : Mem := { m with dram := putBs m.dram k bs }

/-- Clear the stored-check difference of the words a byte range covers wholly. -/
def clearSynd (t : Tbl (BitVec 16)) (k n : Nat) : Tbl (BitVec 16) :=
  (List.range (n / 16 + 1)).foldl (fun t i =>
    let w := (k + 15) / 16 + i
    if 16 * w + 16 ≤ k + n then delT t w else t) t

def wcbIdx (m : Mem) (seg : Nat) : Option WcbEntry := m.wcb.find? (·.seg == seg)

/-- An access to a stack in self-refresh makes device firmware bring the stack out first (R232, R410, R411; log entry 9). -/
def State.wakeStack (s : State) (st : Nat) : State :=
  if bitN (reg s .stk st 0x008) 1 then s.setRegF .stk st 0x008 1 1 0 else s

/-- Write whole segments to DRAM, retiring their entries (R223). -/
def State.putSegs (s : State) (k : Nat) (bs : List Byte) : State :=
  { s with mem := { s.mem with dram := putBs s.mem.dram k bs, synd := clearSynd s.mem.synd k bs.length,
                               wcb := s.mem.wcb.filter (fun e => e.seg < k / 64 || (k + bs.length + 63) / 64 ≤ e.seg) } }

/-- Is every 2 MiB of a spread range inside valid regions owned by a partition that `own` accepts? -/
def spreadIn (s : State) (own : Nat → Bool) (a n : Nat) : Bool :=
  let rs := ratAll s
  decide (a + n ≤ spreadTop s) &&
  ((List.range (n / 0x200000 + 2)).all (fun i =>
    let x := if a + i * 0x200000 < a + n then a + i * 0x200000 else a + n - 1
    rs.any (fun e => e.window == 0 && own e.owner && decide (e.base ≤ x) && decide (x < e.base + e.size))))

/-! Activation counting (R233). -/

def noteAct (rows : List ActRow) (row : Nat) : List ActRow × Nat :=
  if rows.any (·.row == row) then
    (rows.map (fun a => if a.row == row then { a with count := a.count + 1 } else a),
     (rows.find? (·.row == row)).elim 1 (fun a => a.count + 1))
  else if rows.length < 32 then (rows ++ [⟨row, 1⟩], 1)
  else
    let low := rows.foldl (fun m a => min m a.count) (rows.headD ⟨0, 0⟩).count
    let i := rows.findIdx (fun a => a.count == low)
    (rows.set i ⟨row, low + 1⟩, low + 1)

def rhThresh (s : State) : Nat := let t := regF s .stkc 0 8 5 0; (if 2 ≤ t && t ≤ 32 then t else 8) * 256

/-- Refreshes of a bank that wait (R231): a controller holds at most 8; a count above 8 stands for refreshes that are due and wait for the gap
or the break that makes them (R254). -/
def postponed (s : State) (b : Nat) : Nat := (getT s.stk.postponed b).getD 0

/-- Postpone `n` refreshes of a bank, with the largest number held in POSTMAX. -/
def State.postpone (s : State) (b n : Nat) : State :=
  let m := postponed s b + n
  ({ s with stk := { s.stk with postponed := putT s.stk.postponed b m } } : State).updRC .stk (b / 4096) 0x034 3 0 (max (min m 8))

/-- An access opens its row when another row, or none, was open in its bank (log entry 41). A row whose count reaches the threshold waits for
its targeted refresh, which counts as two postponed refreshes (R233). -/
def State.activate (s : State) (k : Nat) : State :=
  let b := keyBankId k
  let row := keyRow k
  if getT s.stk.openRow b == some row then s
  else
    let (rows, c) := noteAct ((getT s.stk.act b).getD []) row
    let s := { s with stk := { s.stk with openRow := putT s.stk.openRow b row, act := putT s.stk.act b rows } }
    let wait := (getT s.stk.rhRows b).getD []
    if c ≥ rhThresh s && !wait.contains row then
      ({ s with stk := { s.stk with rhRows := putT s.stk.rhRows b (wait ++ [row]) } } : State).postpone b 2
    else s

/-- Index under class-change fill (R210). -/
def fillIdx (s : State) : Option Nat := s.stk.fill.map Prod.fst

/-- A write of one whole segment from the compute die: counted, its row opened; dropped and counted in an index under fill (R210, R223, R233). -/
def State.segWrite (s : State) (k : Nat) (bs : List Byte) : State :=
  let st := keyStack k
  if fillIdx s == some (keyBg k) then s.bumpRC .stk st 0x008 31 16 1
  else (((s.wakeStack st).putSegs k bs).addWide .stk st 0x048 bs.length).activate k

/-- Ranges of the program images that only firmware may write: the loaded programs' and those of accepted load requests (R81). -/
def protRanges (s : State) : List (Nat × Nat) :=
  (s.jobs.map (fun (_, j) => j.progs.map (fun p => (p.image, p.size)))).flatten ++ s.fw.loadq.map (fun r => (r.image, r.size))

def protAt (s : State) (a : Nat) : Bool := (protRanges s).any (fun r => decide (r.1 ≤ a) && decide (a < r.1 + r.2))

/-- A 64-byte record written to a spread ring by the device (event log, fault ring, trace ring): 64 B aligned. One that would fall into a
protected image is dropped and counted (R81); it raises no event, because the event log is such a ring. -/
def State.putRec (s : State) (a : Nat) (ws : List Word) : State :=
  if (List.range 64).any (fun i => protAt s (a + i)) then { s with fw := { s.fw with protDrops := s.fw.protDrops + 1 } }
  else match (spreadKey s a).bind (fun _ => hostKey s a) with
    | some k => s.segWrite k (wordsBytes ws)
    | none => s

/-- Occurrences suppressed for a code since its last record. -/
def suppCount (s : State) (code : Nat) : Nat := (s.supp.filter (·.code == code)).foldl (fun n x => n + x.count) 0

def evLimited (s : State) (e : EvSpec) : Bool :=
  match e.limit with
  | none => false
  | some k => match s.supp.find? (fun x => x.code == e.code && x.key == k) with
    | some x => decide (s.time.now < x.last + 1000000000)
    | none => false

def ringLog (x lo hi dflt : Nat) : Nat := if lo ≤ x && x ≤ hi then x else dflt

/-- R447: an occurrence inside the limit counts towards SUPP; otherwise the limit starts again. -/
def State.noteSupp (s : State) (e : EvSpec) (inside : Bool) : State :=
  if inside then
    { s with supp := s.supp.map (fun x => if x.code == e.code && some x.key == e.limit then { x with count := x.count + 1 } else x) }
  else
    let rest := (s.supp.filter (fun x => !(x.code == e.code && some x.key == e.limit))).map
      (fun x => if x.code == e.code then { x with count := 0 } else x)
    { s with supp := match e.limit with | some k => rest ++ [⟨e.code, k, s.time.now, 0⟩] | none => rest }

/-- Write one event record, or count it as dropped (R429, R446). `supp` is W1. -/
def State.evWrite (s : State) (e : EvSpec) (supp : Nat) : State :=
  if !bitN (reg s .dbgc 0 0x014) (e.code / 4096 % 16) then s
  else
    let hi := reg s .dbgc 0 0x004
    let base := reg s .dbgc 0 0x000 / 4096 * 4096 + fld hi 15 0 * 2 ^ 32
    let n := 2 ^ ringLog (fld hi 20 16) 6 16 10
    let prod := reg s .dbgc 0 0x008
    let lost (s : State) : State := s.bumpRC .dbgc 0 0x010 31 0 (if e.code == 0x9010 then 1 else 1 + supp)
    let inJob (p : Nat) : Bool := (part s p).lead.isSome
    if (prod + 2 ^ 32 - reg s .dbgc 0 0x00C) % 2 ^ 32 ≥ n || !spreadIn s inJob base (64 * n) then lost s
    else
      let w0 := (match e.part with | some p => 2 ^ 29 + p * 2 ^ 24 | none => 0) + e.die % 256 * 2 ^ 16 + e.code % 65536
      let ws := [BitVec.ofNat 32 w0, BitVec.ofNat 32 supp, lo32 s.time.now, hi32 s.time.now] ++ e.detail.map (BitVec.ofNat 32)
      let s := s.putRec (base + prod % n * 64) ((ws ++ List.replicate 16 0#32).take 16)
      let s := s.setReg .dbgc 0 0x008 (prod + 1)
      if e.code == 0x9010 then s else s.msix 0 (1024 + e.code / 4096 % 16)

/-- Raise an event (R446, R447); one of a class that CLASSEN leaves out is neither written nor counted. -/
def State.raise (s : State) (e : EvSpec) : State :=
  if !bitN (reg s .dbgc 0 0x014) (e.code / 4096 % 16) then s
  else if evLimited s e then s.noteSupp e true
  else
    let n := min (suppCount s e.code) 0xFFFFFFFF
    (s.noteSupp e false).evWrite e n

/-- A write to a sealed region unseals it (R377): a physical key inside a sealed bank-local entry. -/
def State.unseal (s : State) (k : Nat) : State :=
  let hit := s.fw.sealedR.filter (fun n =>
    let e := ratEnt s n
    e.window == 1 && bitN e.pcsel (k / 2 ^ 30 % 16) && decide (e.base ≤ k % 2 ^ 30) && decide (k % 2 ^ 30 < e.base + e.size))
  hit.foldl (fun s n => ({ s with fw := { s.fw with sealedR := s.fw.sealedR.filter (· != n) } } : State).raise { code := 0x100E, detail := [n] }) s

/-- The controller refreshes the neighbours of row `row` of bank `b` (rows r − 2 to r + 2) and counts the row from 0 again; event 0x1008 (R233). -/
def State.targeted (s : State) (b row : Nat) : State :=
  let rows := ((getT s.stk.act b).getD []).map (fun a => if a.row == row then { a with count := 0 } else a)
  let wait := ((getT s.stk.rhRows b).getD []).filter (· != row)
  let s := { s with stk := { s.stk with act := putT s.stk.act b rows,
                                        rhRows := if wait.isEmpty then delT s.stk.rhRows b else putT s.stk.rhRows b wait } }
  (s.bump .stk (b / 4096) 0x03C).raise { code := 0x1008, die := 1 + b / 4096, detail := [b / 64, row], limit := some (b / 4096) }

/-- A gap in a bank's use, or a break, pays back the bank's oldest targeted refresh, which is two, or one per-bank refresh (R231, R233); the bank's
row is closed. -/
def State.payBack (s : State) (b : Nat) : State :=
  let take (s : State) (n : Nat) : State :=
    let m := postponed s b - n
    { s with stk := { s.stk with postponed := if m == 0 then delT s.stk.postponed b else putT s.stk.postponed b m, openRow := delT s.stk.openRow b } }
  match (getT s.stk.rhRows b).getD [] with
  | row :: _ => (take s 2).targeted b row
  | [] => take s 1

/-- The targeted refreshes of a bank that wait are made. -/
def State.targetAll (s : State) (b : Nat) : State := ((getT s.stk.rhRows b).getD []).foldl (fun s _ => s.payBack b) s

/-! ECC (R217 to R221). -/

def wordData (m : Mem) (w : Nat) : Nat := leNat (getBs m.dram (16 * w) 16)
def syndOf (m : Mem) (w : Nat) : Nat := ((getT m.synd w).getD 0#16).toNat

/-- Table 09.11 value of a location. -/
def eccLog (k : Nat) (word : Nat) (f : EccFind) (poison : Bool) : Nat :=
  let (a, b) := match f with | .corr a b => (a, b.getD 0xFF) | _ => (0xFF, 0xFF)
  2 ^ 63 + b2n poison * 2 ^ 62 + (keyPc k % 64) * 2 ^ 55 + keySid k * 2 ^ 53 + keyBg k * 2 ^ 51 + keyBank k * 2 ^ 49 +
  keyRow k * 2 ^ 35 + keySeg k * 2 ^ 31 + word % 4 * 2 ^ 29 + a * 2 ^ 21 + b * 2 ^ 13

/-- Capture into a log in every class's copy, or mark MULTI (R219). -/
def State.captureLog (s : State) (st off v : Nat) : State :=
  (rcCopies .stk).foldl (fun s c =>
    let k : RegKey := ⟨.stk, st, off, c⟩
    let x := getWide s k
    s.setWide k (if bitN x 63 then setFld x 61 61 1 else v)) s

/-- A read meets a correctable word: count, log, write-back of the corrected word unless a write to the segment is pending (R219). -/
def State.correct (s : State) (w : Nat) (f : EccFind) : State :=
  let k := 16 * w
  let st := keyStack k
  let s := s.bump .stk st 0x010
  let s := s.captureLog st 0x018 (eccLog k w f false)
  let bit := match f with | .corr a _ => a | _ => 0
  let s := { s with stk := { s.stk with corrLog := s.stk.corrLog ++ [(w, bit, s.time.now)] } }
  let log := getWide s ⟨.stk, st, 0x018, 0⟩
  let s := s.raise { code := 0x1004, die := 1 + st, detail := [log % 2 ^ 32, log / 2 ^ 32], limit := some st }
  if (wcbIdx s.mem (w / 4)).isSome then s
  else { s with mem := { s.mem with dram := putBs s.mem.dram k (natBytes 16 (bchFlip (wordData s.mem w) f)),
                                    synd := delT s.mem.synd w } }

/-- A read meets an uncorrectable word: count and log (R220). -/
def State.noteUe (s : State) (w : Nat) : State :=
  let k := 16 * w
  let st := keyStack k
  let p := BitVec.ofNat 16 (syndOf s.mem w) == poison
  (s.bump .stk st 0x014).captureLog st 0x020 (eccLog k w .bad p)

/-- How a word reads: poison is uncorrectable whatever its value (R221). -/
def wordFind (m : Mem) (w : Nat) : EccFind :=
  let y := syndOf m w
  if y == 0 then .clean else if BitVec.ofNat 16 y == poison then .bad else bchFind y

def wcbByte (m : Mem) (k : Nat) : Option Byte := (wcbIdx m (k / 64)).bind (fun e => getT e.bytes (k % 64))

/-- The corrected DRAM byte. -/
def dramByte (s : State) (k : Nat) : Byte :=
  if isHostKey s k then
    match wordFind s.mem (k / 16) with
    | .corr a b => BitVec.ofNat 8 (bchFlip (wordData s.mem (k / 16)) (.corr a b) / 256 ^ (k % 16))
    | _ => getB s.mem.dram k
  else getB s.mem.dram k

/-- The byte a read from the compute die returns (R210, R225). -/
def dieByte (s : State) (k : Nat) : Byte :=
  if fillIdx s == some (keyBg k) then 0#8
  else match wcbByte s.mem k with
    | some b => b
    | none => dramByte s k

/-- Words of a segment of which a read returns a DRAM byte: all but those that an entry holds wholly (R207, R225). -/
def dramWords (m : Mem) (seg : Nat) : List Nat :=
  match wcbIdx m seg with
  | none => [4 * seg, 4 * seg + 1, 4 * seg + 2, 4 * seg + 3]
  | some e => ([0, 1, 2, 3].filter (fun w => (e.bytes.filter (fun p => p.1 / 16 == w)).length != 16)).map (4 * seg + ·)

/-- Words that a read of a host-class segment examines: corrected, or counted and logged (R219, R220). -/
def State.examine (s : State) (ws : List Nat) : State :=
  ws.foldl (fun s w => match wordFind s.mem w with
    | .corr a b => s.correct w (.corr a b)
    | .bad => s.noteUe w
    | .clean => s) s

/-- Read `n` bytes inside one segment from the compute die: bytes, the first uncorrectable word of the segment if any, and the counters, log,
write-back and activation that go with it (R207, R219, R220, R225, R233). -/
def readRun (s : State) (k n : Nat) : List Byte × Option Nat × State :=
  let st := keyStack k
  let bs := (List.range n).map (fun i => dieByte s (k + i))
  if fillIdx s == some (keyBg k) then (bs, none, s.bumpRC .stk st 0x008 31 16 1)
  else
    let s1 := ((s.wakeStack st).addWide .stk st 0x040 64).activate k
    if !isHostKey s k then (bs, none, s1)
    else
      let ws := dramWords s.mem (k / 64)
      (bs, ws.find? (fun w => wordFind s.mem w == .bad), s1.examine ws)

/-! Trace (R449 to R451). -/

structure TraceRec where
  cls : Nat
  kind : Nat
  part : Nat
  core : Nat := 0
  engine : Nat := 0
  attempt : Nat := 0
  id : Word := 0xFFFFFFFF#32
  step : Nat := 0
  data : List Nat := []
  deriving DecidableEq, Repr

/-- Core and engine of a record: the order of the records of one clock. -/
def traceKey (w : List Word) : Nat := wfld (wAt w 0) 15 12 * 16 + wfld (wAt w 0) 19 16

/-- A record enters the buffer behind those of earlier clocks, and among the `n` of its own clock by core and engine (R451). -/
def enterTrace (l : List (List Word)) (n : Nat) (w : List Word) : List (List Word) :=
  let m := l.length - n
  let mine := l.drop m
  l.take m ++ mine.takeWhile (fun x => traceKey x ≤ traceKey w) ++ w :: mine.dropWhile (fun x => traceKey x ≤ traceKey w)

/-- A trace record; one that finds the buffer full, or is the fifth or a later one of its clock, is dropped and counted (R451; log entry 155). -/
def State.trace (s : State) (t : TraceRec) : State :=
  let c := reg s .dbg t.part 0
  if bitN c 31 && bitN c t.cls && t.cls < 9 then
    let q := part s t.part
    let n := if q.traced.1 == s.time.clk then q.traced.2 else 0
    if 4096 ≤ q.trace.length || 4 ≤ n then s.bump .dbg t.part 0x014
    else
      let w0 := t.cls + t.kind * 16 + t.part * 256 + t.core % 16 * 4096 + t.engine * 65536 + min t.attempt 15 * 2 ^ 20
      let ws := [BitVec.ofNat 32 w0, t.id, lo32 s.time.now, hi32 s.time.now, lo32 t.step] ++ t.data.map (BitVec.ofNat 32)
      s.modPart t.part (fun q => { q with trace := enterTrace q.trace n ((ws ++ List.replicate 16 0#32).take 16), traced := (s.time.clk, n + 1) })
  else s

/-! Regulators (R329). -/

/-- Charge units of 64 B to regulator 0 stack, 1 network, 2 host of a partition. A transfer starts when its bucket holds at least one unit: one
that finds less waits for refills of 256 clocks, and the wait is counted and traced (Table 19.4) as part of the work that `t` names. It then takes
all its units, and the bucket may go negative. -/
def State.charge (s : State) (p r units : Nat) (t : TraceRec := { cls := 6, kind := 0, part := p }) : State :=
  let rate := regF s .prt p (0x080 + 8 * r) 19 0
  if rate == 0 || units == 0 then s
  else
    let burst : Int := max (regF s .prt p (0x084 + 8 * r) 23 0) rate
    let b : Int := (part s p).buckets.getD r 0
    if 1 ≤ b then s.modPart p (fun q => { q with buckets := q.buckets.set r (b - units) })
    else
      let k := ceilDiv (1 - b).toNat rate
      let s := (s.bumpRC .prt p (0x0A0 + 4 * r) 31 0 (256 * k)).trace { t with kind := 0, data := [r, 0] }
      let s := s.trace { t with kind := 1, data := [r, 256 * k] }
      s.modPart p (fun q => { q with buckets := q.buckets.set r (min (b + k * rate) burst - units) })

/-! Write-combining (R223 to R227). -/

/-- A merge writes a word whose old contents are uncorrectable, and that the new bytes do not cover, with poisoned check bits (R221). -/
def State.poisonAs (s : State) (w : Nat) : State :=
  ({ s with mem := { s.mem with synd := putT s.mem.synd w poison } } : State).raise
    { code := 0x1006, die := 1 + keyStack (16 * w), detail := [keyPc (16 * w), 16 * w / 64 * 64 % 2 ^ 30] }

/-- The same where the merge is what reads the word: it is counted and logged too (R220). -/
def State.poisonWord (s : State) (w : Nat) : State := (s.noteUe w).poisonAs w

/-- Flush one entry to DRAM (R227). In a Crema-class segment the spare bits of the beats written become zero (R213). In a host-class segment a
mask of whole words needs no read; otherwise the segment is read, corrected and merged, and every word is written: a merge of descriptors' writes
is charged once, to the first of their partitions (R329). -/
def State.flushEntry (s : State) (e : WcbEntry) : State :=
  let k := 64 * e.seg
  let st := e.stack
  let s := { s with mem := { s.mem with wcb := s.mem.wcb.filter (·.seg != e.seg) } }
  let s := ((s.wakeStack st).addWide .stk st 0x048 64).activate k
  let held (w : Nat) : Nat := (e.bytes.filter (fun p => p.1 / 16 == w)).length
  let wr (s : State) (fresh : List Nat) : State :=
    { s with mem := { s.mem with dram := e.bytes.foldl (fun m (o, b) => putB m (k + o) b) s.mem.dram,
                                 synd := fresh.foldl (fun t w => delT t (k / 16 + w)) s.mem.synd } }
  let words := [0, 1, 2, 3]
  let whole := words.filter (fun w => held w == 16)
  if !isHostKey s k then wr s (words.filter (fun w => 0 < held (w / 2 * 2) + held (w / 2 * 2 + 1)))
  else if words.all (fun w => held w == 0 || held w == 16) then wr s whole
  else
    let s := (s.bump .stk st 0x030).addWide .stk st 0x040 64
    let s := if e.descs.isEmpty then s else match e.parts with | p :: _ => s.charge p 0 1 | [] => s
    let s := (words.filter (fun w => held w != 16)).foldl (fun s w =>
      let x := k / 16 + w
      match wordFind s.mem x with
      | .clean => s
      | .corr a b => s.correct x (.corr a b)
      | .bad => s.poisonWord x) s
    wr s whole

def State.flushWhere (s : State) (p : WcbEntry → Bool) : State := (s.mem.wcb.filter p).foldl State.flushEntry s

/-- Flush every entry holding writes of a partition (R226). -/
def State.flushPart (s : State) (p : Nat) : State := s.flushWhere (·.parts.contains p)

/-- Who writes: the partition whose write it is, the descriptor, the PCIe function. -/
structure Writer where
  part : Option Nat := none
  desc : Option DTag := none
  fn : Option Nat := none
  deriving DecidableEq, Repr

def addNew {α : Type} [DecidableEq α] (l : List α) : Option α → List α
  | none => l
  | some x => if x ∈ l then l else l ++ [x]

/-- A partial write enters the buffer (R223, R224). -/
def State.wcbPut (s : State) (k : Nat) (bs : List Byte) (w : Writer) : State :=
  let seg := k / 64
  let st := keyStack k
  let put (old : Tbl Byte) : Tbl Byte := bs.zipIdx.foldl (fun t (b, i) => putT t (k % 64 + i) b) old
  match wcbIdx s.mem seg with
  | some e =>
    let e' := { e with bytes := put e.bytes, parts := addNew e.parts w.part, descs := addNew e.descs w.desc, fns := addNew e.fns w.fn,
                       last := s.time.now }
    { s with mem := { s.mem with wcb := s.mem.wcb.map (fun x => if x.seg == seg then e' else x) } }
  | none =>
    let mine := s.mem.wcb.filter (·.stack == st)
    let s := if mine.length < 256 then s else
      match mine.foldl (fun (m : Option WcbEntry) e => match m with
        | none => some e
        | some x => if e.last < x.last then some e else some x) none with
      | some e => (s.flushEntry e).bump .stk st 0x02C
      | none => s
    let e : WcbEntry := { stack := st, seg := seg, bytes := put [], parts := addNew [] w.part, last := s.time.now,
                          descs := addNew [] w.desc, fns := addNew [] w.fn }
    { s with mem := { s.mem with wcb := s.mem.wcb ++ [e] } }

/-- Write bytes inside one segment from the compute die (R210, R223). -/
def State.writeRun (s : State) (k : Nat) (bs : List Byte) (w : Writer) : State :=
  let st := keyStack k
  if bs.length == 64 || fillIdx s == some (keyBg k) then s.segWrite k bs
  else (s.wakeStack st).wcbPut k bs w

/-- Write a run under the image protection of R81: protected bytes are dropped, with an event and a count. -/
def State.writeGuard (s : State) (a k : Nat) (bs : List Byte) (w : Writer) : State :=
  let hit := (List.range bs.length).filter (fun i => protAt s (a + i))
  let s := s.unseal k
  match hit with
  | [] => s.writeRun k bs w
  | _ =>
    let s := { s with fw := { s.fw with protDrops := s.fw.protDrops + 1 } }
    let s := s.raise { code := 0x8101, part := w.part, die := 0, detail := [a % 2 ^ 32, a / 2 ^ 32] }
    bs.zipIdx.foldl (fun s (b, i) => if hit.contains i then s else s.wcbPut (k + i) [b] w) s

/-- The runs of an address range, each inside one 64-byte segment: address and length. -/
def runsOf : Nat → Nat → Nat → List (Nat × Nat)
  | 0, _, _ => []
  | f + 1, a, n =>
    if n == 0 then []
    else
      let m := min n (64 - a % 64)
      (a, m) :: runsOf f (a + m) (n - m)

def segRuns (a n : Nat) : List (Nat × Nat) := runsOf (n / 64 + 2) a n

/-- A stack range read by the die without checks of the RAT (firmware, Barista's own areas): bytes that are unmapped or in a stack in maintenance
read zero. Answers the bytes, whether an uncorrectable word was met, and the state. -/
def readStack (s : State) (a n : Nat) : List Byte × Bool × State :=
  (segRuns a n).foldl (fun (acc, bad, s) (x, m) =>
    match hostKey s x with
    | none => (acc ++ List.replicate m 0#8, bad, s)
    | some k => let (bs, ue, s') := readRun s k m; (acc ++ bs, bad || ue.isSome, s')) ([], false, s)

/-- A stack range written by the die, run by run, each through `put`; bytes that are unmapped or in a stack in maintenance are dropped. -/
def State.writeVia (s : State) (put : State → Nat → Nat → List Byte → State) (a : Nat) (bs : List Byte) : State :=
  ((segRuns a bs.length).foldl (fun (sb : State × List Byte) (r : Nat × Nat) =>
    let (s, bs) := sb
    (match hostKey s r.1 with
     | none => s
     | some k => put s r.1 k (bs.take r.2), bs.drop r.2)) (s, bs)).1

/-- A write by Barista, a ring's writer or a debug channel: under the protection of R81. -/
def State.writeStack (s : State) (a : Nat) (bs : List Byte) (w : Writer) : State :=
  s.writeVia (fun s x k b => s.writeGuard x k b w) a bs

/-- The bytes that a read by the die returns. What the read does beside is `State.seen`. -/
def peek (s : State) (a n : Nat) : List Byte :=
  (List.range n).map (fun i => match hostKey s (a + i) with | some k => dieByte s k | none => 0#8)

/-- What a read of Barista's or firmware's does to the stacks: bytes, rows and errors counted, corrections, accesses to an index under fill
(R210, R219, R220, R233). An uncorrectable word raises event 0x1005, and its segment waits to be dealt with (R373). -/
def State.seen (s : State) (a n : Nat) : State :=
  let (_, bad, t) := readStack s a n
  if !bad then t
  else
    let found := (segRuns a n).filter (fun r => match hostKey s r.1 with
      | some k => isHostKey s k && fillIdx s != some (keyBg k) && (dramWords s.mem (k / 64)).any (fun w => wordFind s.mem w == .bad)
      | none => false)
    let segs := (found.map (fun r => r.1 / 64 * 64)).filter (fun x => !t.stk.finds.contains x)
    ({ t with stk := { t.stk with finds := t.stk.finds ++ segs } } : State).raise { code := 0x1005, detail := [a % 2 ^ 32, a / 2 ^ 32] }

def peekW (s : State) (a : Nat) : Nat := leNat (peek s a 4)
def peekWords (s : State) (a n : Nat) : List Word := (List.range n).map (fun i => BitVec.ofNat 32 (peekW s (a + 4 * i)))

/-- Entries of a range's segments are flushed. -/
def State.flushRange (s : State) (a n : Nat) : State :=
  let segs := (segRuns a n).filterMap (fun r => (hostKey s r.1).map (· / 64))
  s.flushWhere (fun e => segs.contains e.seg)

/-- A write that is performed everywhere (R302): stored, and any entry it left flushed. -/
def State.poke (s : State) (a : Nat) (bs : List Byte) : State := (s.writeStack a bs {}).flushRange a bs.length

/-- The same by device firmware, which alone may write program images (R81). -/
def State.fwPoke (s : State) (a : Nat) (bs : List Byte) : State :=
  (s.writeVia (fun s _ k b => (s.unseal k).writeRun k b {}) a bs).flushRange a bs.length

def State.pokeWords (s : State) (a : Nat) (ws : List Word) : State := s.poke a (wordsBytes ws)

/-! Partition buffers and scratchpads (R23). -/

def pbufKey (p off : Nat) : Nat := p * 2 ^ 25 + off
def scratchKey (p off : Nat) : Nat := p * 2 ^ 26 + off

def State.putPbuf (s : State) (p off : Nat) (bs : List Byte) : State :=
  { s with mem := { s.mem with pbuf := putBs s.mem.pbuf (pbufKey p off) bs } }
def getPbuf (s : State) (p off n : Nat) : List Byte := getBs s.mem.pbuf (pbufKey p off) n
def State.putScratch (s : State) (p off : Nat) (bs : List Byte) : State :=
  { s with mem := { s.mem with scratch := putBs s.mem.scratch (scratchKey p off) bs } }
def getScratch (s : State) (p off n : Nat) : List Byte := getBs s.mem.scratch (scratchKey p off) n

/-! The flag store (R308 to R311). Program-local flags are 0 to 2047, job flags 2048 to 4095. -/

def flagVal (t : Tbl FlagVal) (f : Nat) : FlagVal := (getT t f).getD {}

def FlagVal.set (v : FlagVal) : Bool := !v.sets.isEmpty

/-- A change as it applies at its clock. A further set of one setter makes a set flag no more sampleable than its first. -/
def applyChange (t : Tbl FlagVal) (c : FlagChange) : Tbl FlagVal :=
  if c.set then
    let v := flagVal t c.flag
    if v.sets.any (fun x => x.1 == c.part) then t else putT t c.flag { sets := v.sets ++ [(c.part, c.clk)] }
  else delT t c.flag

/-- The clock from which partition `p` can sample a set of a setter that applied in clock `t`: at once its own and a remote or host one, 7 clocks
later one of another partition (R308). -/
def sampleFrom (p : Nat) (x : Option Nat × Nat) : Nat :=
  match x.1 with
  | none => x.2
  | some q => if q == p then x.2 else x.2 + 7

/-- A sample of partition `p` finds the flag set: some set since it was last clear is sampleable there (R308). -/
def flagSeen (t : Tbl FlagVal) (clk p f : Nat) : Bool := (flagVal t f).sets.any (fun x => decide (sampleFrom p x ≤ clk))

/-- Keep changes in the order they apply: by clock, and within a clock sets before clears (R311). -/
def insChange (c : FlagChange) : List FlagChange → List FlagChange
  | [] => [c]
  | d :: t => if d.clk < c.clk || (d.clk == c.clk && (d.set || !c.set)) then d :: insChange c t else c :: d :: t

/-- Changes that are due up to a clock apply. -/
def settle (t : Tbl FlagVal) (cs : List FlagChange) (clk : Nat) : Tbl FlagVal × List FlagChange :=
  ((cs.filter (·.clk ≤ clk)).foldl applyChange t, cs.filter (clk < ·.clk))

def Job.settle (j : Job) (clk : Nat) : Job := let (t, c) := Machine.settle j.flags j.changes clk; { j with flags := t, changes := c }
def StepRun.settle (r : StepRun) (clk : Nat) : StepRun := let (t, c) := Machine.settle r.flags r.changes clk; { r with flags := t, changes := c }

/-- Changes may be settled up to the clock before the present one and before the earliest start of a running descriptor: a FLAG_WAIT may still
sample later ones. -/
def StepRun.floor (r : StepRun) (clk : Nat) : Nat :=
  r.runs.foldl (fun m (_, d) => if d.stat == .running then min m (d.startClk - 1) else m) (clk - 1)

def Job.floor (j : Job) (clk : Nat) : Nat := j.runs.foldl (fun m r => min m (r.floor clk)) (clk - 1)

/-- Queue a change of a job's flag (R308): by a descriptor of a partition, one clock on, or remote or host (none), 8 clocks on. A set that finds
flag 4,032 + k clear raises job-flag source k of the lead partition (Table 14.8). -/
def State.flagChange (s : State) (lead f : Nat) (set : Bool) (p : Option Nat) : State :=
  let d := if p.isSome then 1 else 8
  let was := match job? s lead with | some j => (flagVal (j.settle s.time.clk).flags f).set | none => false
  let s := s.modJob lead (fun j => let j := j.settle (j.floor s.time.clk)
                                   { j with changes := insChange ⟨s.time.clk + d, f, set, p, false⟩ j.changes })
  if set && !was && 4064 ≤ f then s.msiPart lead (f - 4032) else s

/-- A change of a step's own program-local flag. -/
def State.localChange (s : State) (lead no f : Nat) (set : Bool) (p : Nat) : State :=
  s.modRun lead no (fun r => let r := r.settle (r.floor s.time.clk)
                             { r with changes := insChange ⟨s.time.clk + 1, f, set, some p, false⟩ r.changes })

/-- A descriptor's change of the flag a flag word names (R58). -/
def State.descFlag (s : State) (d : DTag) (p : Nat) (w : Word) (set : Bool) : State :=
  if !wbit w 31 then s
  else
    let f := wfld w 11 0
    if f < 2048 then s.localChange d.lead d.step f set p else s.flagChange d.lead f set (some p)

/-- The flag table that holds flag f for a step. -/
def flagTab (j : Job) (r : StepRun) (clk f : Nat) : Tbl FlagVal := if f < 2048 then (r.settle clk).flags else (j.settle clk).flags

/-! Faults (R77, R330 to R333). -/

/-- What a faulting instance reports. `code` 0 means that it waits for host data (R357) and is no fault. -/
structure Flt where
  code : Nat
  addr : Nat := 0
  pc : Nat := 0x7FF
  flagA : Word := 0
  flagB : Word := 0
  detail : Nat := 0
  resumable : Bool := true
  /-- of 0x3102: the batch values above the declared extent -/
  bound : List Nat := []
  deriving DecidableEq, Repr

/-- Where it arose. -/
structure FltAt where
  d : DTag
  id : Word
  part : Nat
  inst : Nat
  core : Nat
  engine : Nat
  opcode : Nat
  cursor : Nat
  deriving DecidableEq, Repr

def packFlag (w : Word) : Nat := b2n (wbit w 31) * 2 ^ 15 + wfld w 11 0

def faultWords (s : State) (w : FltAt) (e : Flt) : List Word :=
  let cur := Config.cursor (w.cursor + 2 ^ 40 * w.inst)
  [BitVec.ofNat 32 (w.part * 2 ^ 24 + w.inst % 16 * 2 ^ 20 + b2n e.resumable * 2 ^ 16 + e.code % 65536), w.id,
   BitVec.ofNat 32 (w.core % 16 * 4096 + w.engine * 256 + w.opcode), lo32 w.d.step, lo32 e.addr, BitVec.ofNat 32 (e.addr / 2 ^ 32 % 65536),
   BitVec.ofNat 32 e.pc, BitVec.ofNat 32 (packFlag e.flagB * 65536 + packFlag e.flagA),
   cur.extractLsb' 0 32, cur.extractLsb' 32 32, cur.extractLsb' 64 32, cur.extractLsb' 96 32,
   lo32 s.time.now, hi32 s.time.now, BitVec.ofNat 32 e.detail, 0#32]

def fringLog (s : State) (p : Nat) : Nat := ringLog (regF s .prt p 0x0C4 20 16) 4 16 6

/-- Write a fault record into the ring or PRT_FAULT_LAST (R331, R333); answers the ring position, or none for the latter. -/
def State.faultRec (s : State) (p : Nat) (ws : List Word) : Option Nat × State :=
  let n := 2 ^ fringLog s p
  let prod := reg s .prt p 0x0C8
  let pos := prod % n
  let full := decide ((prod + 2 ^ 32 - reg s .prt p 0x0CC) % 2 ^ 32 ≥ n)
  let busy := (part s p).faults.any (fun f => f.pos == some pos)
  if full || busy then
    let s := s.setWide ⟨.prt, p, 0x0D8, 0⟩ (leNat (wordsBytes ws))
    (none, s.bump .prt p 0x0D0)
  else
    let base := reg s .prt p 0x0C0 / 64 * 64 + regF s .prt p 0x0C4 15 0 * 2 ^ 32
    (some pos, (s.putRec (base + 64 * pos) ws).setReg .prt p 0x0C8 (prod + 1))

/-- Retries of a descriptor's step (R450). -/
def attemptOf (s : State) (d : DTag) : Nat := match (job? s d.lead).bind (fun j => runOf j d.step) with | some r => r.attempt | none => 0

/-- A descriptor's fault: record, event, pause, messages (R77, R330, R331). Codes 0x3104 and 0x3105 do not pause (Table 03.16). -/
def State.fault (s : State) (w : FltAt) (e : Flt) : State :=
  let ws := faultWords s w e
  let (pos, s) := s.faultRec w.part ws
  -- a record in PRT_FAULT_LAST takes the place of the one before it (R333)
  let s := if pos.isNone then s.modPart w.part (fun q => { q with faults := q.faults.map (fun f => { f with inLast := false }) }) else s
  let s := s.modRun w.d.lead w.d.step (fun r => { r with nfault := r.nfault + 1 })
  let s := if e.code == 0x2001 then s.bump .prt w.part 0x108 else s
  let s := s.raise { code := e.code, part := some w.part, die := 0, detail := [w.id.toNat] }
  let s := s.trace { cls := 5, kind := 0, part := w.part, core := w.core, engine := w.engine, attempt := attemptOf s w.d, id := w.id, step := w.d.step,
                      data := [e.code, 0, pos.getD 0xFFFF] }
  if e.code == 0x3104 || e.code == 0x3105 then s
  else
    let pf : PFault := { code := e.code, words := ws, pos := pos, inLast := pos.isNone, d := w.d, inst := w.inst, cursor := w.cursor,
                         resumable := e.resumable, addr := e.addr, since := s.time.mono, bound := e.bound }
    let s := s.modPart w.part (fun q => { q with faults := q.faults ++ [pf] })
    let s := s.setRegF .prt w.part 0x004 31 16 (min (part s w.part).faults.length 65535)
    let s := s.modD w.d (fun x => { x with faulted := true })
    -- a fault that arises while the job is being suspended is saved with it (R338)
    (if pState s w.part == pSuspending || pState s w.part == pSuspended then s else s.setPState w.part pPaused).msiPart w.part 0

/-! The host link's classes. -/

/-- A host violation: 0x5002, at most once per second per row of Table 14.9 (R360). -/
def State.hostViol (s : State) (row : Nat) : State := s.raise { code := 0x5002, detail := [row], limit := some row }

/-- Recovery (R400): GLB_STATE.STATE is 3. -/
def inRecovery (s : State) : Bool := regF s .glb 0 0x004 3 0 == 3

/-- VF p + 1 answers: VFs are enabled and the endpoint is not in reset (R358, R465); in recovery there is the PF only. -/
def vfUp (s : State) (p : Nat) : Bool := decide (p < 16) && !inRecovery s && s.pcie.vfsEnabled && !s.pcie.perstLow

/-! Device firmware's looks at other settings. -/

def jobHas (s : State) (p : Nat) : Bool := (part s p).lead.isSome

/-- The main clock in MHz (THM_CLOCK.MHZ). -/
def clockMhz (s : State) : Nat := regF s .thm 0 0x020 11 0

end Sys2Proof.Machine
end

