-- ==== Sys2Proof/Machine/Operands.lean ====
section
/-! DEFINITION. Tensor operands of descriptors: where an element lies (R35, R36, R59 to R62, R75), checked reads and writes in the four
address spaces (R24, R25, R216, R357), and conversion on the way in and out (R43 to R47, R183, R184). -/

namespace Sys2Proof.Machine

/-- The state a running descriptor works on: the device, the sticky flags, byte and drop counts it gathers (R76), and the index of the
next free value of this command (log entry 1). -/
structure X where
  s : State
  fl : Sticky := 0#5
  bytes : Nat := 0
  drops : Nat := 0
  k : Nat := 0
  /-- the stack segment that each operand stream last read and last wrote, by core and tensor base (R103, R191) -/
  rseg : Tbl Nat := []
  wseg : Tbl Nat := []

/-- A computation of an instance: it ends with a value or stops with a fault, keeping what it did. -/
abbrev M := ExceptT Flt (StateM X)

def getS : M State := do return (← get).s
def modS (f : State → State) : M Unit := modify fun x => { x with s := f x.s }
def sticky (f : Sticky) : M Unit := modify fun x => { x with fl := x.fl ||| f }
def countB (n : Nat) : M Unit := modify fun x => { x with bytes := x.bytes + n }
def fresh : M Nat := do
  let x ← get
  set { x with k := x.k + 1 }
  return x.k
def stop {α : Type} (e : Flt) : M α := throw e

/-- The running descriptor: names, words, its instance and place. -/
structure Cx where
  d : DTag
  prog : Prog
  w : List Word
  parts : List Nat
  part : Nat
  cores : List Nat
  engine : Nat
  opcode : Nat
  /-- batch-table address and its header words -/
  bt : Nat
  hdr : List Word
  inst : Nat := 0
  core : Nat := 0
  trunc : Option (Nat × Bool) := none
  attempt : Nat := 0
  /-- the launch of the step (R110) -/
  uid : Nat := 0
  cfg : JobCfg := {}

def Cx.id (c : Cx) : Word := wAt c.w 1
def Cx.cvt (c : Cx) : Nat := wfld (wAt c.w 0) 17 16
def Cx.acc (c : Cx) : Bool := wbit (wAt c.w 0) 18
def Cx.writer (c : Cx) : Writer := { part := some c.part, desc := some c.d }
/-- Core number in the device. -/
def Cx.dcore (c : Cx) : Nat := 16 * c.part + c.core
def Cx.at_ (c : Cx) (cursor : Nat) : FltAt :=
  { d := c.d, id := c.id, part := c.part, inst := c.inst, core := c.core, engine := c.engine, opcode := c.opcode, cursor := cursor }

/-- The trace of a regulator wait of the descriptor. -/
def Cx.waitTrace (c : Cx) : TraceRec :=
  { cls := 6, kind := 0, part := c.part, core := c.core, engine := c.engine, attempt := c.attempt, id := c.id, step := c.d.step }

/-- Batch-table values by BSRC (Table 03.13). -/
def Cx.bind (c : Cx) : Nat → Nat
  | 1 => fld (nAt c.hdr 3) 13 0
  | 2 => fld (nAt c.hdr 4) 16 0
  | 3 => fld (nAt c.hdr 5) 12 0
  | 4 => fld (nAt c.hdr 6) 16 0
  | 5 => fld (nAt c.hdr 7) 15 0
  | _ => 0

/-! Tensor descriptors (Table 03.9). -/

namespace TV
def space (w : List Word) : Nat := wfld (wAt w 0) 2 0
def fmt (w : List Word) : Nat := wfld (wAt w 0) 11 4
def rank (w : List Word) : Nat := wfld (wAt w 0) 14 12
def comp (w : List Word) : Bool := wbit (wAt w 0) 16
def pad (w : List Word) : Bool := wbit (wAt w 0) 17
def padSup (w : List Word) : Bool := wbit (wAt w 0) 18
def irel (w : List Word) : Bool := wbit (wAt w 0) 19
def part (w : List Word) : Nat := wfld (wAt w 0) 23 20
def base (w : List Word) : Nat := addrAt w 1
def bsrc (w : List Word) : Nat := wfld (wAt w 2) 21 19
def bdim (w : List Word) : Nat := wfld (wAt w 2) 18 16
def dims (w : List Word) : List Nat := (List.range 5).map (fun i => nAt w (3 + i))
def strideBits (w : List Word) : Nat := (List.range 6).foldl (fun a i => a + nAt w (8 + i) * 2 ^ (32 * i)) 0
/-- STRIDEi, two's complement 36 bits (R59). -/
def stride (w : List Word) (i : Nat) : Int :=
  let x := fld (strideBits w) (36 * i + 35) (36 * i)
  if x ≥ 2 ^ 35 then (x : Int) - 2 ^ 36 else x
def padValue (w : List Word) : Word := wAt w 14
def codec (w : List Word) : Nat := wfld (wAt w 15) 15 0
end TV

def prodL (l : List Nat) : Nat := l.foldl (· * ·) 1

/-- Element count at the declared maximum extents. -/
def elemsMax (w : List Word) : Nat := prodL (TV.dims w)

/-- A tensor as a step sees it. -/
def Cx.view (c : Cx) (i : Nat) : TView :=
  let w := c.prog.tens.getD i []
  let b := TV.bsrc w
  let ds := TV.dims w
  let cd := c.prog.codecs.getD (TV.codec w) []
  { w := w, dims := if b == 0 then ds else ds.set (TV.bdim w) (c.bind b),
    base := TV.base w + (if TV.irel w then c.prog.image + c.prog.constOff else 0),
    table := if TV.comp w then (nAt cd 0 + wfld (wAt cd 1) 15 0 * 2 ^ 32) + (if wbit (wAt cd 1) 31 then c.prog.image + c.prog.constOff else 0) else 0 }

/-- Tensor-table index of slot k (Table 03.4). -/
def Cx.slotIdx (c : Cx) (k : Nat) : Nat :=
  let w := wAt c.w (8 + k / 2)
  if k % 2 == 0 then wfld w 15 0 else wfld w 31 16
def Cx.t (c : Cx) (k : Nat) : TView := c.view (c.slotIdx k)

def TView.fmt (t : TView) : Nat := TV.fmt t.w
def TView.space (t : TView) : Nat := TV.space t.w
def TView.dim (t : TView) (i : Nat) : Nat := t.dims.getD i 1
def TView.elems (t : TView) : Nat := prodL t.dims

/-- Element offset Σ ik × STRIDEk (R60). -/
def TView.offset (t : TView) (idx : List Nat) : Int :=
  idx.zipIdx.foldl (fun a (i, k) => a + (i : Int) * TV.stride t.w k) 0

/-- Linear index i0 + DIM0 (i1 + ...). -/
def linear (dims idx : List Nat) : Nat := (dims.zip idx).foldr (fun (d, i) a => i + d * a) 0

/-- Indices of a linear position. -/
def unlinear : List Nat → Nat → List Nat
  | [], _ => []
  | d :: t, x => (if d == 0 then 0 else x % d) :: unlinear t (if d == 0 then 0 else x / d)

/-- Bytes of the element plane at the declared extents, and where the scale plane starts (R35). -/
def planeBytes (w : List Word) : Nat := ceilDiv (elemsMax w * fmtBits (TV.fmt w)) 8
def scaleOff (w : List Word) : Nat := roundUp (planeBytes w) 256

/-! Checked accesses. -/

/-- Runs of a signed range; a negative address is out of range. -/
def Cx.badAddr {α : Type} (a : Int) : M α := stop { code := 0x1001, addr := a.toNat }

/-- May the descriptor reach a stack range: RAT permission 0 read or 1 write, and mapped (R25, R216, R235)? The whole range is tested before a
byte moves. -/
def Cx.reach (c : Cx) (perm a n : Nat) : M PUnit :=
  (segRuns a n).forM (fun (x, _) => do
    let s ← getS
    if ratJob s perm c.parts x && (hostKey s x).isSome then pure () else stop { code := 0x1001, addr := x })

/-- Stack read of a descriptor: RAT, windows, regulator, ECC (R216, R220, R329). -/
def Cx.readStk (c : Cx) (a n : Nat) : M (List Byte) := do
  c.reach 0 a n
  (segRuns a n).foldlM (fun acc (x, m) => do
    modS (·.charge c.part 0 1 c.waitTrace)
    let s ← getS
    match hostKey s x with
    | none => return acc
    | some k =>
      let (bs, bad, s') := readRun s k m
      modS (fun _ => s')
      match bad with
      | some w => stop { code := 0x1002, addr := x, pc := keyPc (16 * w) }
      | none => return acc ++ bs) []

/-- Stack write of a descriptor. An access that goes on in the segment of the one before it (`more`) costs no segment of its own. -/
def Cx.writeStk (c : Cx) (a : Nat) (bs : List Byte) (more : Bool := false) : M Unit := do
  c.reach 1 a bs.length
  let _ ← (segRuns a bs.length).foldlM (fun (rest : List Byte) (x, m) => do
    modS (fun s => match hostKey s x with
      | none => s
      | some k => (if more then s else s.charge c.part 0 1 c.waitTrace).writeGuard x k (rest.take m) c.writer)
    return rest.drop m) bs

/-- Aperture `i` of a partition (R357). -/
def aperture (s : State) (p i : Nat) : AptFields := (getT s.pcie.apert (p * 16 + i)).getD ⟨false, 0, 0, false, false, 0⟩

/-- A device read of host memory: the completion's bytes if they have come, otherwise the read is issued and the instance waits. -/
def Cx.readHost (c : Cx) (apt a n : Nat) : M (List Byte) := do
  let s ← getS
  let e := aperture s c.part apt
  if !e.valid || !e.rd || e.size * 4096 < a + n then stop { code := 0x5001, addr := a }
  else
    let bus := e.base + a
    let mine := (s.pcie.arrived.filter (fun q => q.1 == c.d)).map Prod.snd
    let got := (List.range n).filterMap (fun i => mine.findSome? (fun l => getT l (bus + i)))
    if got.length == n then
      modS (·.charge c.part 2 (ceilDiv n 64) c.waitTrace)
      return got
    else
      -- one read of the rest of the 4 KiB page, inside the aperture
      let len := max n (min (4096 - bus % 4096) (e.size * 4096 - a))
      let out := s.pcie.reads.any (fun r => r.d == some c.d && r.addr == bus)
      if !out then
        modS (fun s => { s with pcie := { s.pcie with
          reads := s.pcie.reads ++ [⟨s.pcie.nextTag, c.part, bus, len, some c.d, c.inst⟩], nextTag := s.pcie.nextTag + 1 } })
      stop { code := 0 }

def Cx.writeHost (c : Cx) (apt a : Nat) (bs : List Byte) : M Unit := do
  let s ← getS
  let e := aperture s c.part apt
  if !e.valid || !e.wr || e.size * 4096 < a + bs.length then stop { code := 0x5001, addr := a }
  else modS (fun s => let s := s.charge c.part 2 (ceilDiv bs.length 64) c.waitTrace
                      { s with mem := { s.mem with host := putBs s.mem.host (e.base + a) bs } })

/-- Checked read of `n` bytes at `a` in a space (R24, R25). Only the DMA engine has a path to host memory (R26). -/
def Cx.rd (c : Cx) (space part : Nat) (a : Int) (n : Nat) : M (List Byte) := do
  if a < 0 then Cx.badAddr a
  else
    let x := a.toNat
    let bs ← match space with
      | 2 => if !c.parts.contains part || 0x2000000 < x + n then Cx.badAddr a else (do return getPbuf (← getS) part x n)
      | 3 => if !c.parts.contains part || 0x4000000 < x + n then Cx.badAddr a else (do return getScratch (← getS) part x n)
      | 4 => if c.engine != 3 then Cx.badAddr a else c.readHost part x n
      | _ => c.readStk x n
    countB n
    return bs

/-- Checked write. -/
def Cx.wr (c : Cx) (space part : Nat) (a : Int) (bs : List Byte) : M Unit := do
  if a < 0 then Cx.badAddr a
  else
    let x := a.toNat
    match space with
      | 2 => if !c.parts.contains part || 0x2000000 < x + bs.length then Cx.badAddr a else modS (·.putPbuf part x bs)
      | 3 => if !c.parts.contains part || 0x4000000 < x + bs.length then Cx.badAddr a else modS (·.putScratch part x bs)
      | 4 => if c.engine != 3 then Cx.badAddr a else c.writeHost part x bs
      | _ => c.writeStk x bs
    countB bs.length

/-- Does a tensor stream: stack memory with unit stride in dimension 0 (R103, R191)? Then an access costs a segment only where it leaves the
segment of the access before it. -/
def TView.streams (t : TView) : Bool := TV.space t.w ≤ 1 && TV.stride t.w 0 == 1

def Cx.streamKey (c : Cx) (t : TView) : Nat := c.core * 2 ^ 50 + t.base

/-- Checked read of a tensor's bytes, as a stream where it is one. -/
def Cx.rdT (c : Cx) (t : TView) (a : Int) (n : Nat) : M (List Byte) := do
  if !t.streams then c.rd (TV.space t.w) (TV.part t.w) a n
  else
    let y ← get
    let x := a.toNat
    if 0 ≤ a && getT y.rseg (c.streamKey t) == some (x / 64) && x % 64 + n ≤ 64 then do
      c.reach 0 x n
      countB n
      return peek y.s x n
    else do
      let bs ← c.rd (TV.space t.w) (TV.part t.w) a n
      modify (fun y => { y with rseg := putT y.rseg (c.streamKey t) ((x + n - 1) / 64) })
      return bs

/-- Checked write of a tensor's bytes, as a stream where it is one. -/
def Cx.wrT (c : Cx) (t : TView) (a : Int) (bs : List Byte) : M Unit := do
  if !t.streams then c.wr (TV.space t.w) (TV.part t.w) a bs
  else
    let y ← get
    let x := a.toNat
    if 0 ≤ a && getT y.wseg (c.streamKey t) == some (x / 64) && x % 64 + bs.length ≤ 64 then do
      c.writeStk x bs true
      countB bs.length
    else do
      c.wr (TV.space t.w) (TV.part t.w) a bs
      modify (fun y => { y with wseg := putT y.wseg (c.streamKey t) ((x + bs.length - 1) / 64) })

/-! Elements. -/

/-- Byte address and bit within it of an element. -/
def TView.bitAddr (t : TView) (idx : List Nat) : Int × Nat :=
  let b := t.offset idx * (fmtBits t.fmt : Int)
  ((t.base : Int) + b / 8, (b % 8).toNat)

/-- Bits of an element. -/
def Cx.rdBits (c : Cx) (t : TView) (idx : List Nat) : M Nat := do
  let (a, sh) := t.bitAddr idx
  let n := ceilDiv (sh + fmtBits t.fmt) 8
  let bs ← c.rdT t a n
  return leNat bs / 2 ^ sh % 2 ^ fmtBits t.fmt

/-- Scale byte address of an MX element (R35): one byte per block in block order. -/
def TView.scaleAddr (t : TView) (idx : List Nat) : Int := (t.base : Int) + scaleOff t.w + (t.offset idx / 32)

/-! Entropy decoding (R196 to R204). -/

/-- Raw image length (R196). -/
def rawSize (w : List Word) (elems : Nat) : Nat :=
  let e := ceilDiv (elems * fmtBits (TV.fmt w)) 8
  if fmtIsMx (TV.fmt w) then roundUp e 256 + elems / 32 else e

structure CodeTab where
  ok : Bool
  symw : Nat
  lens : List Nat
  deriving DecidableEq, Repr

/-- A code table from its 256 bytes, with the rules of R197 and the directory's SYMW. -/
def codeTab (bs : List Byte) (symw : Nat) : CodeTab :=
  let n := if symw == 1 then 16 else 256
  let lens := (List.range n).map (fun i => let b := byteAt bs (64 + i / 2); if i % 2 == 0 then b % 16 else b / 16)
  let pres := lens.filter (0 < ·)
  let kraft := pres.foldl (fun a l => a + 2 ^ (12 - l)) 0
  { ok := byteAt bs 4 % 2 == symw && decide (1 ≤ leAt bs 8 4) && pres.all (· ≤ 12) && decide (kraft ≤ 4096), symw := symw, lens := lens }

/-- Canonical codes by length then symbol (R199): (length, code, symbol). -/
def canonCodes (lens : List Nat) : List (Nat × Nat × Nat) :=
  ((List.range 12).foldl (fun (acc : List (Nat × Nat × Nat) × Nat) i =>
    let l := i + 1
    let r := lens.zipIdx.foldl (fun (acc : List (Nat × Nat × Nat) × Nat) (x, sym) =>
      if x == l then (acc.1 ++ [(l, acc.2, sym)], acc.2 + 1) else acc) acc
    (r.1, 2 * r.2)) ([], 0)).1

/-- The next symbol at bit position `p`: code bits come most significant first from bit 0 of each byte upward; bits past the stored
bytes read zero; a pattern with no code is symbol 0 of 12 bits (R204). -/
def nextSym (codes : List (Nat × Nat × Nat)) (bit : Nat → Nat) (p : Nat) : Nat × Nat × Bool :=
  let pre (l : Nat) : Nat := (List.range l).foldl (fun a i => 2 * a + bit (p + i)) 0
  match codes.find? (fun (l, c, _) => pre l == c) with
  | some (l, _, sym) => (sym, l, true)
  | none => (0, 12, false)

def decSyms (codes : List (Nat × Nat × Nat)) (bit : Nat → Nat) : Nat → Nat → List Nat × Bool
  | 0, _ => ([], true)
  | n + 1, p =>
    let (sym, l, ok) := nextSym codes bit p
    let (r, ok') := decSyms codes bit n (p + l)
    (sym :: r, ok && ok')

/-- Symbols as raw bytes. -/
def symBytes (symw : Nat) : List Nat → List Byte
  | [] => []
  | [a] => [BitVec.ofNat 8 a]
  | a :: b :: t => if symw == 1 then BitVec.ofNat 8 (a + 16 * b) :: symBytes symw t else BitVec.ofNat 8 a :: symBytes symw (b :: t)

/-- Blocks of a compressed tensor and their places. -/
def codecNB (r : Nat) : Nat := ceilDiv r 4096
def codecDstart (nb : Nat) : Nat := roundUp (64 + 8 * nb) 64
def blkRaw (r b : Nat) : Nat := min 4096 (r - 4096 * b)

/-- Decode block `b` from its index entry and stored bytes (R202, R204): the raw bytes and whether the block was well formed. -/
def decBlock (tab : CodeTab) (r nb b : Nat) (idx : List Byte) (stored : Nat → List Byte) : List Byte × Bool :=
  let rl := blkRaw r b
  let off := leAt idx 0 4
  let e1 := leAt idx 4 4
  let len := fld e1 12 0
  let raw := bitN e1 16
  let f := codecDstart nb + 4096 * nb
  if len == 0 || 4096 < len || (raw && len != rl) || f < codecDstart nb + 64 * off + len then (List.replicate rl 0#8, false)
  else
    let bs := stored len
    if raw then (bs, true)
    else if !tab.ok then (List.replicate rl 0#8, false)
    else
      let n := if tab.symw == 1 then 2 * rl else rl
      let bit (p : Nat) : Nat := if p / 8 < len then byteAt bs (p / 8) / 2 ^ (p % 8) % 2 else 0
      let (syms, ok) := decSyms (canonCodes tab.lens) bit n 0
      (symBytes tab.symw syms, ok)

/-- What the device core's decoders hold for this descriptor. -/
def Cx.held (c : Cx) (s : State) : List Held :=
  ((getT s.mem.dec c.dcore).getD []).filter (fun h => h.run == c.uid && h.idx == c.d.idx)

/-- The decoders take in a block, or a header that they have checked; 16 blocks at most (R203). -/
def Cx.hold (c : Cx) (base : Nat) (block : Option Nat) (bs : List Byte) : M PUnit :=
  modS (fun s =>
    let l : List Held := ⟨c.uid, c.d.idx, base, block, bs⟩ :: (getT s.mem.dec c.dcore).getD []
    let blocks := (l.filter (·.block.isSome)).take 16
    { s with mem := { s.mem with dec := putT s.mem.dec c.dcore (blocks ++ l.filter (·.block.isNone)) } })

def Cx.countBad (c : Cx) (n : Nat) : M PUnit := if n == 0 then pure () else modS (·.bumpRC .dbg c.part 0x148 31 0 n)

/-- The header of a compressed tensor, checked and counted once per descriptor and core (R204): its fields, and the tag of the directory's
table. -/
def Cx.checkHeader (c : Cx) (t : TView) (tabBs : List Byte) : M PUnit := do
  if (c.held (← getS)).any (fun h => h.base == t.base && h.block.isNone) then pure ()
  else
    let r := rawSize t.w t.elems
    let hdr ← c.rd t.space (TV.part t.w) t.base 64
    let h (i : Nat) : Nat := leAt hdr (4 * i) 4
    let good := h 0 == 0x4B574358 && h 1 + fld (h 2) 15 0 * 2 ^ 32 == r && h 3 == codecNB r && fld (h 2) 31 16 == 0 && fld (h 5) 31 12 == 0 &&
      fld (h 5) 7 1 == 0 && (List.range 8).all (fun i => h (8 + i) == 0) && (hdr.drop 24).take 8 == (sha3 tabBs).take 8
    c.countBad (b2n (!good))
    c.hold t.base none []

/-- Decode one block of compressed tensor `t`, counting a malformed block (R204): a bad index entry, a code that the table does not have, or a
coded block under a table that breaks R197. -/
def Cx.decodeBlock (c : Cx) (t : TView) (b : Nat) : M (List Byte) := do
  let p := TV.part t.w
  let r := rawSize t.w t.elems
  let nb := codecNB r
  let base : Int := t.base
  let tabBs ← c.rd 0 0 t.table 256
  let tab := codeTab tabBs (wfld (wAt (c.prog.codecs.getD (TV.codec t.w) []) 3) 0 0)
  c.checkHeader t tabBs
  let ix ← c.rd t.space p (base + 64 + 8 * b) 8
  let off := leAt ix 0 4
  let len := fld (leAt ix 4 4) 12 0
  let fits := 0 < len && len ≤ 4096 && 64 * off + len ≤ 4096 * nb
  let st ← if fits then c.rd t.space p (base + codecDstart nb + 64 * off) len else pure []
  let (bs, ok) := decBlock tab r nb b ix (fun _ => st)
  c.countBad (b2n (!ok))
  return bs

/-- A block of a compressed tensor through the core's decode buffer (R203). -/
def Cx.rdBlock (c : Cx) (t : TView) (b : Nat) : M (List Byte) := do
  match (c.held (← getS)).find? (fun h => h.base == t.base && h.block == some b) with
  | some h => return h.bytes
  | none =>
    let bs ← c.decodeBlock t b
    c.hold t.base (some b) bs
    return bs

/-- Bits of an element of a compressed tensor, from its decoded raw image; the MX scale too. -/
def Cx.rdBitsC (c : Cx) (t : TView) (idx : List Nat) : M (Nat × Nat) := do
  let n := linear t.dims idx
  let b := fmtBits t.fmt
  let rd1 (x : Nat) : M Nat := do
    let blk ← c.rdBlock t (x / 4096)
    return byteAt blk (x % 4096)
  let lo ← rd1 (n * b / 8)
  let hi ← if n * b % 8 + b > 8 then rd1 (n * b / 8 + 1) else pure 0
  let v2 ← if n * b % 8 + b > 16 then rd1 (n * b / 8 + 2) else pure 0
  let v3 ← if n * b % 8 + b > 24 then rd1 (n * b / 8 + 3) else pure 0
  let bits := (lo + 256 * hi + 65536 * v2 + 16777216 * v3) / 2 ^ (n * b % 8) % 2 ^ b
  let sc ← if fmtIsMx t.fmt then rd1 (roundUp (ceilDiv (t.elems * b) 8) 256 + n / 32) else pure 0
  return (bits, sc)

/-- The value of an element (R33, R34), whatever its storage. -/
def Cx.elem (c : Cx) (t : TView) (idx : List Nat) : M Num := do
  if TV.comp t.w then
    let (b, sc) ← c.rdBitsC t idx
    return if fmtIsMx t.fmt then decodeMx t.fmt sc b else decodeElem t.fmt b
  else
    let b ← c.rdBits t idx
    if fmtIsMx t.fmt then
      let sc ← c.rdT { t with base := t.base + 2 ^ 47 } (t.scaleAddr idx) 1
      return decodeMx t.fmt (leNat sc) b
    else return decodeElem t.fmt b

/-- PAD_VALUE converted to the tensor's format and read back (R62). An MX element format without a NaN takes a NaN as MX narrowing leaves it, a
finite element (DESIGN CHOICE, log entry 133). -/
def padNum (w : List Word) : Num :=
  let c := TV.fmt w
  let v := if fmtIsInt c then Num.ofInt (TV.padValue w).toInt else num32 (TV.padValue w)
  decodeElem c (encodeElem c 0 0 v).1

/-- Write an element's bits, leaving its neighbours in the byte (R36). -/
def Cx.wrBits (c : Cx) (t : TView) (idx : List Nat) (v : Nat) : M Unit := do
  let b := fmtBits t.fmt
  let (a, sh) := t.bitAddr idx
  let n := ceilDiv (sh + b) 8
  if sh == 0 && b % 8 == 0 then c.wrT t a (natBytes n v)
  else
    let x := (← get)
    let old ← c.rdT t a n
    -- the read of the neighbours is part of the write: it is not counted
    modify (fun y => { y with bytes := x.bytes })
    c.wrT t a (natBytes n (setFld (leNat old) (sh + b - 1) sh v))

/-- Conversion of a value to a non-MX element under CVT (R43 to R47). An infinity that stays in its format is not converted (log entry 42). -/
def cvtElem (fmt cvt src : Nat) (r : Nat) (v : Num) : Nat × Sticky :=
  let cvt' := match v with
    | .inf _ => if fmt == src then cvt ||| 2 else cvt
    | _ => cvt
  encodeElem fmt cvt' r v

/-- Fresh stochastic-rounding bits (R45). -/
def srDraw : M Nat := do
  let i ← fresh
  return (Config.srBits (← getS).free i).toNat

/-- Write a value as an element of a tensor that is not MX. -/
def Cx.put (c : Cx) (t : TView) (idx : List Nat) (cvt src : Nat) (v : Num) : M Unit := do
  let r ← srDraw
  let (b, f) := cvtElem t.fmt cvt src r v
  sticky f
  c.wrBits t idx b

/-- Sum an incoming value into an element (R183): the value converts to FP32 or INT32 under CVT, the addition rounds to nearest, and the sum
converts to the destination's format. -/
def Cx.accPut (c : Cx) (t : TView) (idx : List Nat) (cvt src : Nat) (v : Num) : M Unit := do
  let old ← c.rdBits t idx
  let r ← srDraw
  if t.fmt == 11 then
    let (x, f) := toIntFmt 11 (cvtMode cvt r) v
    sticky f
    c.wrBits t idx (bitsOfInt 32 (intOfBits 11 old + x))
  else
    let (x, f) := cvtElem 0 cvt src r v
    let (y, g) := fin32 (addNum (decodeElem t.fmt old) (num32 (BitVec.ofNat 32 x)))
    let (b, h) := cvtElem t.fmt cvt 0 (← srDraw) (num32 y)
    sticky (f ||| g ||| h)
    c.wrBits t idx b

/-- Write a block of 32 values to an MX destination: elements and scale (R46, R184). -/
def Cx.putBlock (c : Cx) (t : TView) (idx : List Nat) (cvt : Nat) (vs : List Num) : M Unit := do
  let k0 ← fresh
  modify (fun x => { x with k := x.k + 32 })
  let fr := (← getS).free
  let (sc, es, f) := mxBlock t.fmt cvt (fun i => (Config.srBits fr (k0 + i)).toNat) vs
  sticky f
  for (e, i) in es.zipIdx do
    c.wrBits t (idx.set 0 (idx.headD 0 + i)) e
  c.wrT { t with base := t.base + 2 ^ 47 } (t.scaleAddr idx) [BitVec.ofNat 8 sc]

/-! Splitting (R64, R65). -/

/-- Instance j's part of an extent. -/
def share (e m j : Nat) : Nat × Nat :=
  let q := ceilDiv e m
  let lo := min (j * q) e
  (lo, min ((j + 1) * q) e - lo)

/-- The part of E work units that a descriptor's NSHARE and PSHARE take, then instance j's part of it: first unit and count. -/
def Cx.units (c : Cx) (e : Nat) (sw : Word) : Nat × Nat :=
  let n := wfld sw 4 0
  let (lo, k) := if n < 2 then (0, e) else share e n (wfld sw 11 8)
  let (a, b) := share k c.cores.length c.inst
  (lo + a, b)

def Cx.mine (c : Cx) (e : Nat) : Nat × Nat := share e c.cores.length c.inst

/-- Is the descriptor skipped: some bound extent of a tensor it names is 0 (R72)? -/
def Cx.skipped (c : Cx) (slots : List Nat) : Bool :=
  slots.any (fun k => let w := c.prog.tens.getD (c.slotIdx k) []; TV.bsrc w != 0 && c.bind (TV.bsrc w) == 0)

/-- Batch values that exceed the declared maximum of an extent bound to them (R75). -/
def Cx.tooBig (c : Cx) (slots : List Nat) : List Nat :=
  (slots.filterMap (fun k =>
    let w := c.prog.tens.getD (c.slotIdx k) []
    if TV.bsrc w != 0 && decide ((TV.dims w).getD (TV.bdim w) 0 < c.bind (TV.bsrc w)) then some (TV.bsrc w) else none)).dedup

end Sys2Proof.Machine
end

