-- ==== Sys2Proof/Machine/Run.lean ====
section
/-! DEFINITION. Running a descriptor: when it may start (R70, R294, R330), its instances and their work units (R64, R332), what a fault or
a wait for host data leaves, completion (R71, R76), and the records of Tables 03.18 and 03.20. -/

namespace Sys2Proof.Machine

def descOp (w : List Word) : Nat := wfld (wAt w 0) 7 0
def descEngine (w : List Word) : Nat := wfld (wAt w 0) 11 8
def descPart (w : List Word) : Nat := wfld (wAt w 11) 19 16
def descCores (w : List Word) : List Nat := maskParts (wfld (wAt w 11) 15 0)
def descPreds (w : List Word) : List Word := (List.range (wfld (wAt w 0) 14 12)).map (fun i => wAt w (2 + i))
def descIdx (p : Prog) (id : Word) : Nat := p.descs.findIdx (fun w => wAt w 1 == id)

/-- Descriptors executing at once per engine (Table 03.14). -/
def engineDepth : Nat → Nat
  | 2 => 4 | 3 => 16 | _ => 1

def DStat.begun : DStat → Bool
  | .waiting => false
  | .notRun => true
  | _ => true

def DStat.executing : DStat → Bool
  | .ran => true | .running => true | .faulted => true | .resumed => true | _ => false

def DStat.ended : DStat → Bool
  | .done => true | .notRun => true | _ => false

/-- Do two descriptors share an engine queue on some core? -/
def sameQueue (a b : List Word) : Bool :=
  descEngine a == descEngine b && descPart a == descPart b && (descCores a).any (descCores b).contains

/-- Predecessors complete (R70); STEP_END waits for every other descriptor (R69, R96). -/
def predsDone (p : Prog) (r : StepRun) (i : Nat) (w : List Word) : Bool :=
  if descOp w == 0x3F then (List.range (p.descs.length - 1)).all (fun k => (dRun r k).stat.ended)
  else (descPreds w).all (fun id => (dRun r (descIdx p id)).stat == .done) && decide (i < p.descs.length)

/-- Every earlier descriptor of a shared queue has started (R70). -/
def queueReached (p : Prog) (r : StepRun) (i : Nat) (w : List Word) : Bool :=
  (List.range i).all (fun k => !sameQueue (p.descs.getD k []) w || (dRun r k).stat.begun)

/-- Descriptors of a step executing in a core's engine queue. -/
def executing (p : Prog) (r : StepRun) (w : List Word) (core : Nat) : Nat :=
  ((List.range p.descs.length).filter (fun k =>
    let v := p.descs.getD k []
    (dRun r k).stat.executing && descEngine v == descEngine w && descPart v == descPart w && (descCores v).contains core)).length

/-- The partition runs descriptors: RUNNING, or in a truncated run under debug hold, and awake. -/
def partRuns (s : State) (p : Nat) (r : StepRun) : Bool :=
  (pState s p == pRunning || (r.trunc.isSome && pState s p == pDebug)) && !(part s p).asleep && !s.fatal

/-- A descriptor that has begun goes on in a paused partition too (R330), once none of its own faults is pending. -/
def mayGoOn (s : State) (p : Nat) (r : StepRun) (i : Nat) : Bool :=
  (partRuns s p r || (pState s p == pPaused && !(part s p).asleep && !s.fatal)) &&
  !(part s p).faults.any (fun f => f.d.step == r.no && f.d.idx == i)

/-- Ready to start, by the step's own order. -/
def readyIn (s : State) (j : Job) (r : StepRun) (p : Prog) (i : Nat) : Bool :=
  let w := p.descs.getD i []
  decide (i < p.descs.length) && r.launched && r.stopping.isNone && !(r.withdrawn && !(dRun r i).stat.begun) &&
  match (dRun r i).stat with
  | .resumed => mayGoOn s (descPart w) r i
  | .waiting =>
    partRuns s (descPart w) r && predsDone p r i w && queueReached p r i w &&
    (descCores w).all (fun c => decide ((j.runs.foldl (fun n q => n + (match progOf j q.prog with
      | some pq => executing pq q w c
      | none => 0)) 0) < engineDepth (descEngine w)))
  | _ => false

/-- The context of a descriptor of a step in flight. -/
def cxOf (s : State) (j : Job) (r : StepRun) (p : Prog) (lead i : Nat) : Cx :=
  let w := p.descs.getD i []
  { d := ⟨lead, r.no, i⟩, prog := p, w := w, parts := j.parts, part := descPart w, cores := descCores w, engine := descEngine w,
    opcode := descOp w, bt := r.bt, hdr := peekWords s r.bt 16, core := (descCores w).headD 0, trunc := r.trunc, attempt := r.attempt,
    uid := r.uid, cfg := j.cfg }

/-- The descriptor that a command names, if it is of the given opcode and may start now; the older step goes first on an engine (R294). -/
def startable (s : State) (d : DescRef) (op : Nat) : Option Cx :=
  match job? s d.lead with
  | none => none
  | some j =>
    match j.runs[d.run]? with
    | none => none
    | some r =>
      match progOf j r.prog with
      | none => none
      | some p =>
        let w := p.descs.getD d.idx []
        let older : Bool := (j.runs.take d.run).any (fun q => match progOf j q.prog with
          | some pq => (List.range pq.descs.length).any (fun k => sameQueue (pq.descs.getD k []) w && readyIn s j q pq k)
          | none => false)
        if descOp w == op && readyIn s j r p d.idx && !older then some (cxOf s j r p d.lead d.idx) else none

/-- The descriptor that a command names, whatever its state. -/
def named (s : State) (d : DescRef) : Option (Job × StepRun × Cx) :=
  match job? s d.lead with
  | none => none
  | some j =>
    match j.runs[d.run]? with
    | none => none
    | some r => (progOf j r.prog).bind (fun p => if d.idx < p.descs.length then some (j, r, cxOf s j r p d.lead d.idx) else none)

/-- What a descriptor command can change: memories, registers, engines, units, jobs, partitions, network, host link, the count of R81, seals (R377) and
event suppression; not the queue, time, mailboxes, temperature, pins, fuses or on-die repair. One draw of free values is used up. -/
def touchDesc (s t : State) : State :=
  { s with free := s.free + 1, launches := t.launches, regs := t.regs, wide := t.wide, mem := t.mem, stk := t.stk, units := t.units, vecs := t.vecs, atts := t.atts,
           jobs := t.jobs, parts := t.parts, net := t.net, pcie := t.pcie, fw := { s.fw with protDrops := t.fw.protDrops, sealedR := t.fw.sealedR }, supp := t.supp }

/-! Records. -/

/-- W0 to W7 of the completion record (Table 03.18). START and DURATION of a descriptor that never started are free values (log entry 1). -/
def complWords (s : State) (id : Word) (dr : DRun) (status : Nat) (step : Nat) : List Word :=
  let open_ (i : Nat) : Word := Config.freeWord s.free (2 ^ 41 + 2 * id.toNat + i)
  let (t0, dt) := if dr.stat == .waiting then (open_ 0, open_ 1) else (lo32 dr.start, lo32 (s.time.mono - dr.startMono))
  [id, BitVec.ofNat 32 (((dr.sticky.toNat % 32) * 256) + status), t0, dt, lo32 dr.bytes, hi32 dr.bytes,
   BitVec.ofNat 32 (min dr.drops 65535), lo32 step]

/-- Completion area of a step: buffer 0 or 1 (R272), 32 B per descriptor. -/
def complAddr (j : Job) (r : StepRun) (i : Nat) : Nat := j.cfg.cArea + r.buf * 0x2000000 + 32 * i

/-- Write a descriptor's completion record if R76 asks for it. -/
def State.complRec (s : State) (j : Job) (r : StepRun) (p : Prog) (i status : Nat) : State :=
  let w := p.descs.getD i []
  let dr := dRun r i
  let need := wbit (wAt w 0) 19 || wbit (wAt w 0) 15 || 1 < status || dr.faulted || r.trunc.isSome
  if need then s.pokeWords (complAddr j r i) (complWords s (wAt w 1) dr status r.no) else s

/-- The sticky flags of all descriptors of a step, and the chunks that they treated as dropped (R50, R78). -/
def StepRun.sticky (r : StepRun) : Sticky := r.runs.foldl (fun f (_, d) => f ||| d.sticky) 0#5
def StepRun.drops (r : StepRun) : Nat := r.runs.foldl (fun n (_, d) => n + d.drops) 0

/-- Step record (Table 03.20), the k-th of the job to entry k mod NSTEPREC (R78). -/
def State.stepRec (s : State) (lead : Nat) (j : Job) (r : StepRun) (status : Nat) : State :=
  let hdr := peekWords s r.bt 16
  let n := nAt hdr 3 % 2 ^ 14
  let ws : List Word := [lo32 r.no, hi32 r.no, r.prog, BitVec.ofNat 32 r.epoch,
    BitVec.ofNat 32 (r.sticky.toNat % 32 * 65536 + min r.attempt 15 * 256 + status), BitVec.ofNat 32 r.ndone, BitVec.ofNat 32 (min r.nfault 65535),
    BitVec.ofNat 32 (n + (nAt hdr 5 % 2 ^ 14) * 65536), BitVec.ofNat 32 (nAt hdr 4 % 2 ^ 17), BitVec.ofNat 32 (min r.drops 65535),
    lo32 r.tlaunch, hi32 r.tlaunch, lo32 s.time.now, hi32 s.time.now, 0#32, 0#32]
  let k := j.stepRecs
  let s := s.pokeWords (j.cfg.stepRing + 64 * (k % (max j.cfg.nStepRec 1))) ws
  let s := s.modJob lead (fun j => { j with stepRecs := k + 1 })
  let s := s.setReg .prt lead 0x118 (k + 1)
  j.parts.foldl (fun s p => s.msiPart p 1) s

/-! What a step that ends leaves in the engines (R97, R334). -/

/-- Descriptors of one step. -/
def ofRun (lead no : Nat) (d : DTag) : Bool := d.lead == lead && d.step == no

/-- A unit without the pieces of a step. -/
def CUnit.without (u : CUnit) (p : DTag → Bool) : CUnit :=
  { u with queue := u.queue.filter (fun x => !p x.d), waiting := u.waiting.filter (fun x => !p x.d) }

/-- An attention engine without the items, record slots and merges of a step. -/
def Att.without (a : Att) (p : DTag → Bool) : Att :=
  let gone := (a.merges.filter (fun m => p m.d)).map (·.id)
  { a with items := a.items.filter (fun x => !p x.piece.d), slots := a.slots.filter (fun x => !gone.contains x.2.1),
           merges := a.merges.filter (fun m => !p m.d) }

def Vec.without (v : Vec) (p : DTag → Bool) : Vec :=
  match v.ctx with
  | some c => if p c.d then { v with ctx := none } else v
  | none => v

/-- Engines, units and host reads forget the descriptors of a step. -/
def State.forget (s : State) (p : DTag → Bool) : State :=
  { s with
    units := s.units.map (fun (k, u) => (k, u.without p)),
    atts := s.atts.map (fun (k, a) => (k, a.without p)),
    vecs := s.vecs.map (fun (k, v) => (k, v.without p)),
    parts := s.parts.map (fun (k, q) => (k, match q.encoder with | some d => if p d then { q with encoder := none } else q | none => q)),
    pcie := { s.pcie with reads := s.pcie.reads.map (fun r => match r.d with | some d => if p d then { r with d := none } else r | none => r),
                          arrived := s.pcie.arrived.filter (fun x => !p x.1) } }

/-- Messages forget the descriptors of a step: their acknowledgements are without effect. -/
def State.forgetMsgs (s : State) (p : DTag → Bool) : State :=
  let msg (m : OutMsg) : OutMsg := match m.d with
    | some d => if p d then { m with d := none } else m
    | none => m
  { s with net := { s.net with qps := s.net.qps.map (fun (k, q) => (k, { q with unacked := q.unacked.map msg })) } }

/-- A step lets go of the engines, and write-combining entries that hold its writes are flushed (R226, R334). -/
def State.letGo (s : State) (lead no : Nat) : State :=
  let mine := ofRun lead no
  let s := (s.forget mine).flushWhere (fun e => e.descs.any mine)
  s.modJob lead (fun j => { j with prefetch := j.prefetch.filter (fun e => !mine e.2) })

/-- A truncated run ends (R97): every descriptor not complete gets NOT_RUN, with its record, the engines let go of it, and the step record says
TRUNCATED. -/
def State.endTrunc (s : State) (lead no : Nat) : State :=
  match job? s lead with
  | none => s
  | some j =>
    match runOf j no with
    | none => s
    | some r =>
      match progOf j r.prog with
      | none => s
      | some p =>
        let s := (List.range p.descs.length).foldl (fun s i =>
          let dr := dRun r i
          if dr.stat == .done || dr.stat == .notRun || dr.stat == .timedOut || dr.status == 3 then s else s.complRec j r p i 4) s
        let s := ((s.letGo lead no).forgetMsgs (ofRun lead no)).stepRec lead j r 3
        let s := s.modJob lead (fun j => { j with runs := j.runs.filter (·.no != no) })
        -- faults of the ended run are no longer pending; the partitions stay in debug hold
        j.parts.foldl (fun s q =>
          let s := s.modPart q (fun x => { x with faults := x.faults.filter (fun f => !(f.d.lead == lead && f.d.step == no)) })
          (s.setRegF .prt q 0x004 31 16 (part s q).faults.length).setPState q pDebug) s

/-- A fault of a running descriptor; in a truncated run it ends the run (R97), and later faults of the same turn are those of no run. -/
def State.descFault (s : State) (c : Cx) (cursor : Nat) (e : Flt) : State :=
  if ((job? s c.d.lead).bind (runOf · c.d.step)).isNone then s
  else
  let s := s.fault (c.at_ cursor) e
  if c.trunc.isSome && e.code != 0x3104 && e.code != 0x3105 then
    let s := s.modD c.d (fun x => { x with stat := .faulted, status := if e.code == 0x3101 then 2 else 3 })
    match (job? s c.d.lead).bind (fun j => (runOf j c.d.step).map (fun r => (j, r))) with
    | some (j, r) => (s.complRec j r c.prog c.d.idx (if e.code == 0x3101 then 2 else 3)).endTrunc c.d.lead c.d.step
    | none => s
  else s

/-! Instances. -/

/-- Run work units `k`, `k + 1`, … of an instance: stops at a fault with its cursor. -/
def runUnits (body : Nat → M PUnit) : Nat → Nat → X → Option (Nat × Flt) × X
  | 0, _, x => (none, x)
  | n + 1, k, x =>
    match (body k).run x with
    | (.ok _, x') => runUnits body n (k + 1) x'
    | (.error e, x') => (some (k, e), x')

/-- Result of one instance's turn. -/
structure Turn where
  inst : Nat
  cursor : Nat
  flt : Flt

/-- Run the instances in turn, each from its cursor. With `seq`, an instance waits while an earlier one has not ended (R189). -/
def runInsts (seq : Bool) (c : Cx) (count : Cx → Nat) (body : Cx → Nat → M PUnit) : List (Nat × Nat) → X → List Turn × X
  | [], x => ([], x)
  | (j, k) :: t, x =>
    let ci : Cx := { c with inst := j, core := c.cores.getD j 0 }
    match runUnits (body ci) (count ci - k) k x with
    | (none, x) => runInsts seq c count body t x
    | (some (k', e), x) =>
      if seq then (⟨j, k', e⟩ :: t.map (fun p => ⟨p.1, p.2, { code := 0 }⟩), x)
      else
        let (ts, x) := runInsts seq c count body t x
        (⟨j, k', e⟩ :: ts, x)

/-- Mark the start: START, DURATION's origin, trace (R70, R76, Table 19.4). -/
def State.noteStart (s : State) (c : Cx) : State :=
  let s := s.modD c.d (fun x => { x with start := s.time.now, startMono := s.time.mono, startClk := s.time.clk })
  (List.range c.cores.length).foldl (fun s j =>
    s.trace { cls := 0, kind := 0, part := c.part, core := c.cores.getD j 0, engine := c.engine, attempt := c.attempt, id := c.id, step := c.d.step,
              data := [c.opcode, j] }) s

/-- The last instance has finished (R71): the writes are performed everywhere (R226, R303), DONEFLAG is set, the record is formed (R76). -/
def State.descDone (s : State) (c : Cx) : State :=
  let s := s.flushWhere (fun e => e.descs.contains c.d)
  let s := { s with mem := { s.mem with dec := s.mem.dec.map (fun (k, l) => (k, l.filter (fun h => !(h.run == c.uid && h.idx == c.d.idx && h.block.isNone)))) } }
  match (job? s c.d.lead).bind (fun j => (runOf j c.d.step).map (fun r => (j, r))) with
  | none => s
  | some (j, r) =>
    let dr := dRun r c.d.idx
    let s := s.descFlag c.d c.part (wAt c.w 10) true
    let s := s.complRec j r c.prog c.d.idx dr.status
    let s := (List.range c.cores.length).foldl (fun s i =>
      s.trace { cls := 0, kind := 1, part := c.part, core := c.cores.getD i 0, engine := c.engine, attempt := c.attempt, id := c.id, step := c.d.step,
                data := [c.opcode, i, dr.status, dr.bytes] }) s
    s.modRun c.d.lead c.d.step (fun r =>
      { r with runs := modT r.runs c.d.idx {} (fun x => { x with stat := .done }), ndone := r.ndone + 1 })

end Sys2Proof.Machine
end

