-- ==== Sys2Proof/Machine/Layout.lean ====
section
/-! DEFINITION. Where a job's data lie: its pseudo-channels, frames, chunks and open buffers (R147 to R151), block-table entries and roots
(R157 to R162), a Crema unit by its number and its slot budget (R253). -/

namespace Sys2Proof.Machine

def cunit (s : State) (pc : Nat) : CUnit := (getT s.units pc).getD {}
def State.modUnit (s : State) (pc : Nat) (f : CUnit → CUnit) : State := { s with units := modT s.units pc {} f }

/-- Pseudo-channels of a job, ascending (R147). -/
def jobPcs (parts : List Nat) : List Nat := (List.range 1280).filter (fun pc => parts.contains (pc % 16))

/-! Geometry (R147 to R151). -/

def JobCfg.w (g : JobCfg) : Nat := fmtBits g.sFmt / 8
def JobCfg.pair (g : JobCfg) : Nat := 128 * g.hDim * g.w
def JobCfg.dpair (g : JobCfg) : Nat := 68 * g.hDim
def JobCfg.fsize (g : JobCfg) : Nat :=
  if g.demote == 0 then g.layers * g.kvHeads * 128 * g.hDim * g.w else g.layers * g.kvHeads * 136 * g.hDim
/-- Base of frame f of a pseudo-channel (R147). -/
def JobCfg.frame (g : JobCfg) (pc f : Nat) : Nat := bankBase + pc * 2 ^ 30 + g.kvOff + f * g.fsize
/-- Base of a chunk's bytes: a whole frame, or a half (R149). -/
def JobCfg.chunkBase (g : JobCfg) (pc f half : Nat) : Nat := g.frame pc f + (if half == 2 then g.fsize / 2 else 0)
def JobCfg.pairBytes (g : JobCfg) (half : Nat) : Nat := if half == 0 then g.pair else g.dpair
def JobCfg.oSize (g : JobCfg) : Nat := fmtBits g.oFmt / 8
/-- Bytes of an open-chunk buffer (R151). -/
def JobCfg.obuf (g : JobCfg) : Nat := g.layers * 64 * 2 * g.kvHeads * g.hDim * g.oSize
/-- Byte offset in an open-chunk buffer (R151). -/
def JobCfg.oOff (g : JobCfg) (layer t k h d : Nat) : Nat := (((layer * 64 + t) * 2 + k) * g.kvHeads * g.hDim + h * g.hDim + d) * g.oSize
/-- Rank of a pseudo-channel among the job's (R147). -/
def pcOrdinal (parts : List Nat) (pc : Nat) : Nat := (jobPcs parts).findIdx (· == pc)
/-- Digest record of frame f, half index x, of a pseudo-channel (R150). -/
def JobCfg.digest (g : JobCfg) (parts : List Nat) (pc f x : Nat) : Nat :=
  g.digestBase + ((pcOrdinal parts pc * g.nFrame + f) * (if g.demote == 1 then 2 else 1) + x) * g.layers * 32

/-! Block tables (R157 to R162). -/

structure BEnt where
  pc : Nat
  frame : Nat
  half : Nat
  fmt : Nat
  st : Nat
  epoch : Nat
  deriving DecidableEq, Repr

def bent (w : List Word) : BEnt :=
  { half := wfld (wAt w 0) 29 28, pc := wfld (wAt w 0) 26 16, frame := wfld (wAt w 0) 15 0, fmt := wfld (wAt w 1) 15 8, st := wfld (wAt w 1) 2 0,
    epoch := nAt w 2 }

/-- Entry j as read through a root's words: a directory word with VALID 0 is a dropped entry (R157). -/
def entAddr (root : List Word) (j : Nat) : Option Nat :=
  let lo := wAt root (16 + 2 * (j / 256))
  let hi := wAt root (17 + 2 * (j / 256))
  if wbit hi 31 then some (lo.toNat + wfld hi 15 0 * 2 ^ 32 + 16 * (j % 256)) else none

def rootLen (root : List Word) : Nat := wfld (wAt root 1) 20 0
def rootN (root : List Word) : Nat := wfld (wAt root 2) 14 0
def rootDrops (root : List Word) : List Nat := (List.range (min (wfld (wAt root 4) 7 0) 6)).map (fun i => wfld (wAt root (5 + i)) 13 0)

/-- Record a drop in a snapshot root (R162): whether DROP_N was incremented. -/
def State.recordDrop (s : State) (snap j : Nat) : Bool × State :=
  let root := peekWords s snap 16
  if (rootDrops root).contains j then (false, s)
  else
    let n := wfld (wAt root 4) 7 0
    let w4 := wset (wAt root 4) 7 0 (min (n + 1) 255)
    let s := if n < 6 then s.pokeWords (snap + 4 * (5 + n)) [BitVec.ofNat 32 j] else s
    let w4 := if n < 6 then w4 else wset w4 8 8 1
    (decide (n < 255), s.pokeWords (snap + 16) [w4])

/-! Slots of Crema units (R253): caps by band and ramp. -/

def bandOf (s : State) (die : Nat) : Nat := (getT s.thm.band die).getD 1

def bandCap (s : State) (st : Nat) : Nat :=
  match bandOf s (1 + st) with
  | 0 => regF s .crmc 0 4 7 0
  | 1 => regF s .crmc 0 4 15 8
  | 2 => regF s .crmc 0 4 23 16
  | 3 => regF s .crmc 0 4 31 24
  | _ => 0
def budgetCap (s : State) : Nat := min (max (regF s .crmc 0 0 6 0) 16) 64
/-- The ramp value never exceeds the other two; with RAMP 0 it is 64. -/
def rampMax (s : State) (st : Nat) : Nat := min (bandCap s st) (budgetCap s)
def rampVal (s : State) (st : Nat) : Nat := if regF s .crmc 0 0 15 15 == 1 then min (regF s .crm st 0x004 6 0) (rampMax s st) else 64
def State.setRamp (s : State) (st v : Nat) : State := s.setRegF .crm st 0x004 6 0 v
/-- The ramp values as a change of a stack's band, of CAP or of RAMP leaves them. -/
def State.clipRamps (s : State) : State := (List.range 20).foldl (fun s st => s.setRamp st (rampVal s st)) s
def budget (s : State) (st : Nat) : Nat := min (min (bandCap s st) (budgetCap s)) (rampVal s st)

end Sys2Proof.Machine
end

