-- ==== Sys2Proof/Machine/NetOps.lean ====
section
/-! DEFINITION. Shared operations of the transport (chapter 14): queue pairs, ports, sending a message, and what an acknowledgement
takes off the list of a queue pair (R321, R344, R351). -/

namespace Sys2Proof.Machine

def qpOf (s : State) (q : Nat) : Qp := (getT s.net.qps q).getD {}
def State.modQp (s : State) (q : Nat) (f : Qp → Qp) : State := { s with net := { s.net with qps := modT s.net.qps q {} f } }

/-- Port die * 4 + k is up (NET_LINK.UP). -/
def portIsUp (s : State) (port : Nat) : Bool := bitN (reg s .net (port / 4) 0x008) (port % 4)

/-- Ports of a die in its mode (Table 14.1); mode 3 is taken as 0. -/
def diePorts (s : State) (die : Nat) : Nat := match regF s .net die 0x004 1 0 with | 1 => 2 | 2 => 4 | _ => 1

/-- Line rate of a port in Mb/s (Table 14.1). -/
def lineRate (s : State) (port : Nat) : Nat :=
  let full := 1600000 / diePorts s (port / 4)
  if regF s .net (port / 4) 0x004 8 8 == 1 then full / 2 else full

/-- Some port that is up, lowest first. -/
def somePort (s : State) : Option Nat := (List.range 16).find? (portIsUp s)

/-- Packets of a message at the path MTU of 4,096 B (R344). -/
def pkts (n : Nat) : Nat := max 1 (ceilDiv n 4096)

def seqAdd (p n : Nat) : Nat := (p + n) % 2 ^ 24
/-- PSN distance a - b. -/
def seqSub (a b : Nat) : Nat := (a + 2 ^ 24 - b % 2 ^ 24) % 2 ^ 24

/-- Priorities of RoCEv2 traffic and of congestion notifications on a port (R342). -/
def rocePrio (s : State) (port : Nat) : Nat := regF s .net (port / 4) 0x010 2 0
def cnpPrio (s : State) (port : Nat) : Nat := regF s .net (port / 4) 0x010 5 3

/-- Number of a priority of a port: die * 32 + port * 8 + priority. -/
def prioKey (port prio : Nat) : Nat := port / 4 * 32 + port % 4 * 8 + prio

/-- A frame leaves its port and is counted. -/
def State.emit (s : State) (f : TxFrame) (n : Nat) : State :=
  ({ s with net := { s.net with tx := s.net.tx ++ [f] } } : State).addWide .net (f.port / 4) 0x048 (Config.wireBytes n)

/-- Send a frame with `n` bytes of payload by a port that is up; while the partner pauses its priority the frame waits (R342, R343). -/
def State.sendOn (s : State) (port prio n : Nat) (t : NetTx) : State :=
  if !portIsUp s port then s
  else
    let roce : Bool := match t with | .frame .. => false | _ => true
    let f : TxFrame := { port := port, prio := prio, mac := Config.portMac port, ip := (getT s.fw.ipAddr port).getD 0, vlan := (getT s.fw.vlan port).getD 0,
                         ecn := roce && regF s .net 0 0x1000 1 1 == 1, body := t }
    if (getT s.net.paused (prioKey port prio)).isSome then { s with net := { s.net with waiting := s.net.waiting ++ [(f, n)] } } else s.emit f n

/-- RoCEv2 traffic by a port. -/
def State.sendRoce (s : State) (port n : Nat) (t : NetTx) : State := s.sendOn port (rocePrio s port) n t

/-- Put a message of a queue pair on the wire, if its port is up. -/
def State.transmit (s : State) (q : Nat) (m : OutMsg) : State := s.sendRoce (qpOf s q).port (if m.kind == 2 then 0 else m.len) (.msg q m)

/-- Answers of a queue pair to READs that wait for the end of a pause: READs outstanding at the responder (R344). -/
def readsOwed (s : State) (q : Nat) : Nat := (s.net.waiting.filter (fun x => match x.1.body with | .readResp p _ _ => p == q | _ => false)).length

/-- Issue a new message on a queue pair: it takes the next PSNs (a READ as many as its response has packets). -/
def State.issue (s : State) (q : Nat) (m : OutMsg) : State :=
  let x := qpOf s q
  let n := pkts m.len
  let m := { m with psn := x.sndPsn, last := seqAdd x.sndPsn (n - 1) }
  let s := s.modQp q (fun x => { x with sndPsn := seqAdd x.sndPsn n, unacked := x.unacked ++ [m] })
  s.transmit q m

/-- Packets of a message that an acknowledgement of `psn` covers: none when it lies before the message. -/
def OutMsg.acked (m : OutMsg) (psn : Nat) : Nat :=
  let d := seqSub psn m.psn
  if d < 2 ^ 23 then min (d + 1) (seqSub m.last m.psn + 1) else 0

def OutMsg.whole (m : OutMsg) (psn : Nat) : Bool := m.acked psn == seqSub m.last m.psn + 1

/-- The rest of a message once its first `n` packets are acknowledged: a SEND stays whole for a resume (R352), so only its PSN moves. -/
def OutMsg.trim (m : OutMsg) (n : Nat) : OutMsg :=
  if n == 0 then m
  else { m with psn := seqAdd m.psn n, va := m.va + 4096 * n, len := m.len - 4096 * n, data := m.data.drop (4096 * n), off := m.off + 4096 * n }

/-- Messages of a queue pair that `psn` acknowledges whole, and what is left. -/
def ackSplit (ms : List OutMsg) (psn : Nat) : List OutMsg × List OutMsg :=
  (ms.filter (·.whole psn), (ms.filter (fun m => !m.whole psn)).map (fun m => m.trim (m.acked psn)))

/-- Unacknowledged messages of a partition's descriptors or of one descriptor. -/
def outMsgs (s : State) : List (Nat × OutMsg) := (s.net.qps.map (fun (q, x) => x.unacked.map (fun m => (q, m)))).flatten
def awaits (s : State) (d : DTag) : Bool := (outMsgs s).any (fun p => p.2.d == some d)

end Sys2Proof.Machine
end

