-- ==== Sys2Proof/Machine/Serving.lean ====
section
/-! DEFINITION. Barista's tables and pools: the request table and token logs (R266, R267), pools and frees (R161, R275 to R277), edits of
live block tables (R159, R280), response rings (R261 to R264), ends of sequences (R268, R289) and the delta under way (R384). -/

namespace Sys2Proof.Machine

def noJob : Job := { cfg := {}, parts := [] }
def jobD (s : State) (lead : Nat) : Job := (job? s lead).getD noJob

/-- The partitions of a job wake (R30, R410); those of a suspended job wake only for RESUME or DISSOLVE (R411). -/
def State.wakeJob (s : State) (lead : Nat) : State :=
  if (jobD s lead).saved.isSome then s
  else (partsOf s lead).foldl (fun s p => s.modPart p (fun q => { q with asleep := false, deep := false })) s

/-- Ranges that Barista reads: what the reads do to the stacks beside answering bytes (R210, R219, R220, R233). -/
def State.sees (s : State) (rs : List (Nat × Nat)) : State := rs.foldl (fun s r => s.seen r.1 r.2) s

/-! Request table (Table 11.7). -/

def reqAddr (j : Job) (n : Nat) : Nat := j.cfg.reqTab + 128 * n
def ent (s : State) (j : Job) (n : Nat) : List Word := peekWords s (reqAddr j n) 32
def State.entW (s : State) (lead n i : Nat) (w : Word) : State := s.pokeWords (reqAddr (jobD s lead) n + 4 * i) [w]
def State.entF (s : State) (lead n i hi lo v : Nat) : State := s.entW lead n i (wset (wAt (ent s (jobD s lead) n) i) hi lo v)

def entState (e : List Word) : Nat := wfld (wAt e 2) 2 0
def entActive (e : List Word) : Bool := decide (1 ≤ entState e) && decide (entState e ≤ 3)
def entRing (e : List Word) : Nat := wfld (wAt e 3) 7 0
def entNprompt (e : List Word) : Nat := wfld (wAt e 5) 20 0
def entMaxnew (e : List Word) : Nat := wfld (wAt e 6) 20 0
def entNgen (e : List Word) : Nat := wfld (wAt e 7) 20 0
def entLen (e : List Word) : Nat := wfld (wAt e 8) 20 0
def entNlog (e : List Word) : Nat := wfld (wAt e 9) 20 0
def entRoot (e : List Word) : Nat := addrAt e 10
def entTlog (e : List Word) : Nat := addrAt e 12
def entOpen (e : List Word) : Option Nat := if nAt e 14 == 0xFFFFFFFF then none else some (nAt e 14)
def entAdmit (e : List Word) : Nat := u64At e 16
def entRcount (e : List Word) : Nat := wfld (wAt e 2) 27 24
def entOpenlost (e : List Word) : Bool := wbit (wAt e 2) 12

/-- Request indices whose entry meets a test, lowest first. -/
def reqsWhere (s : State) (j : Job) (p : List Word → Bool) : List Nat := (List.range 65536).filter (fun n => p (ent s j n))

/-- In admission order. -/
def byAdmit (s : State) (j : Job) (ns : List Nat) : List Nat := ns.mergeSort (fun a b => decide (entAdmit (ent s j a) ≤ entAdmit (ent s j b)))

/-! Events and counts of Barista. -/

def State.baristaEv (s : State) (lead code : Nat) (limited : Bool := false) : State :=
  s.raise { code := code, part := some lead, die := 0, limit := if limited then some 0 else none }

/-- A record discarded or a value ignored (R265). -/
def State.badRec (s : State) (lead : Nat) : State := (s.bump .dbg lead 0x14C).baristaEv lead 0x3301 true

/-! Pools (R275 to R277). -/

def taken (j : Job) (r : Res) : Bool :=
  j.used.contains r || (match r with
    | .frame pc f => j.used.contains (.half pc f 1) || j.used.contains (.half pc f 2)
    | .half pc f _ => j.used.contains (.frame pc f)
    | _ => false)

def lowest (j : Job) (n : Nat) (mk : Nat → Res) : Option Nat := (List.range n).find? (fun i => !taken j (mk i))
def freeOf (j : Job) (n : Nat) (mk : Nat → Res) : Nat := ((List.range n).filter (fun i => !taken j (mk i))).length

def Job.take (j : Job) (r : Res) : Job := { j with used := j.used ++ [r] }
/-- An item that no snapshot has seen goes back at once. -/
def Job.untake (j : Job) (r : Res) : Job := { j with used := j.used.erase r }
/-- A free under R161: it returns once every step with an epoch no later than the newest has ended. -/
def Job.free (j : Job) (r : Res) : Job := if j.used.contains r then { j with deferred := j.deferred ++ [(r, j.epoch)] } else j

def noLater (a b : Nat) : Bool := decide ((b + 2 ^ 32 - a % 2 ^ 32) % 2 ^ 32 < 2 ^ 31)
/-- Every step with an epoch no later than `e` has ended (R161, R273). -/
def epochOver (j : Job) (e : Nat) : Bool :=
  (j.runs.filter (fun r => !r.withdrawn && r.trunc.isNone)).all (fun r => !noLater r.epoch e) &&
  (match j.formed with | some r => !noLater r.epoch e | none => true)

def rootAddr (j : Job) (i : Nat) : Nat := j.cfg.rootPool + 1024 * i
def rootIdx (j : Job) (a : Nat) : Nat := (a - j.cfg.rootPool) / 1024
def pageAddr (j : Job) (i : Nat) : Nat := j.cfg.pagePool + 4096 * i
def pageIdx (j : Job) (a : Nat) : Nat := (a - j.cfg.pagePool) / 4096
def tlAddr (j : Job) (i : Nat) : Nat := j.cfg.tlPool + 16384 * i
def tlIdx (j : Job) (a : Nat) : Nat := (a - j.cfg.tlPool) / 16384
def openAddr (j : Job) (i : Nat) : Nat := j.cfg.openPool + j.cfg.obuf * i
def packSize (j : Job) : Nat := roundUp (64 + 128 * j.cfg.layers) 64
def packAddr (j : Job) (i : Nat) : Nat := j.cfg.packPool + packSize j * i

def zeros (n : Nat) : List Byte := List.replicate n 0#8

/-- Pseudo-channels of the job, by ordinal. -/
def pcAt (j : Job) (o : Nat) : Nat := (jobPcs j.parts).getD o 0
def npc (j : Job) : Nat := 80 * j.parts.length

/-- Free frames of a pseudo-channel; a disabled unit's frames are off the lists (R374). -/
def frameFree (s : State) (j : Job) (pc : Nat) : Option Nat :=
  if (cunit s pc).disabled then none else lowest j j.cfg.nFrame (fun f => .frame pc f)
def framesFree (s : State) (j : Job) (pc : Nat) : Nat := if (cunit s pc).disabled then 0 else freeOf j j.cfg.nFrame (fun f => .frame pc f)
def freeFrames (s : State) (j : Job) : Nat := (jobPcs j.parts).foldl (fun n pc => n + framesFree s j pc) 0

/-- Home ordinals (R274). -/
def homeOrd (j : Job) (home i : Nat) : Nat := (home + i * (npc j / max j.cfg.spread 1)) % max (npc j) 1

/-- A frame for chunk `k` of a sequence (R275): its homes cyclically, then the fullest list. -/
def pickFrame (s : State) (j : Job) (home k : Nat) : Option (Nat × Nat) :=
  let sp := max j.cfg.spread 1
  let at_ (o : Nat) : Option (Nat × Nat) := (frameFree s j (pcAt j o)).map (fun f => (pcAt j o, f))
  match (List.range sp).findSome? (fun i => at_ (homeOrd j home ((k + i) % sp))) with
  | some x => some x
  | none =>
    let best := (List.range (npc j)).foldl (fun (b : Nat × Nat) o => let n := framesFree s j (pcAt j o); if b.2 < n then (o, n) else b) (0, 0)
    if best.2 == 0 then none else at_ best.1

/-- Runs of consecutive open buffers, first fit (R276). -/
def pickOpen (j : Job) (n : Nat) : Option Nat :=
  (List.range (j.cfg.nOpen + 1 - n)).find? (fun b => (List.range n).all (fun i => !taken j (.openBuf (b + i))))

def Job.takeOpen (j : Job) (b n : Nat) : Job := (List.range n).foldl (fun j i => j.take (.openBuf (b + i))) j
def Job.freeOpen (j : Job) (b n : Nat) : Job := (List.range n).foldl (fun j i => j.free (.openBuf (b + i))) j

/-! Token logs (R267). -/

def tlPage (s : State) (dir i : Nat) : Option Nat :=
  let lo := peekW s (dir + 8 * i)
  let hi := peekW s (dir + 8 * i + 4)
  if bitN hi 31 then some (lo + fld hi 15 0 * 2 ^ 32) else none

def tokenAt (s : State) (dir pos : Nat) : Word :=
  match tlPage s dir (pos / 4096) with
  | some a => BitVec.ofNat 32 (peekW s (a + 4 * (pos % 4096)))
  | none => 0#32

/-- Barista reads tokens `pos` to `pos + n - 1` of a log: directory words and log words. -/
def State.seesTokens (s : State) (dir pos n : Nat) : State :=
  s.sees (((List.range ((pos + n + 4095) / 4096 - pos / 4096)).map (fun i =>
    let g := pos / 4096 + i
    let lo := max pos (4096 * g)
    let hi := min (pos + n) (4096 * (g + 1))
    (dir + 8 * g, 8) :: (match tlPage s dir g with | some a => [(a + 4 * (lo % 4096), 4 * (hi - lo))] | none => []))).flatten)

def State.putTokens (s : State) (dir pos : Nat) (ts : List Word) : State :=
  ts.zipIdx.foldl (fun s (t, i) => match tlPage s dir ((pos + i) / 4096) with
    | some a => s.pokeWords (a + 4 * ((pos + i) % 4096)) [t]
    | none => s) s

def dirWord (a : Nat) : List Word := [lo32 a, BitVec.ofNat 32 (a / 2 ^ 32 % 65536 + 2 ^ 31)]

/-- Page `i` of a token log takes pool page `q`. -/
def State.addTlPage (s : State) (lead dir i q : Nat) : State := s.pokeWords (dir + 8 * i) (dirWord (tlAddr (jobD s lead) q))

/-! Live block tables (R157 to R159, R280). -/

def rootAt (s : State) (a : Nat) : List Word := peekWords s a 144
def entryAt (s : State) (root k : Nat) : Option BEnt := (entAddr (rootAt s root) k).map (fun a => bent (peekWords s a 4))

def resOf (e : BEnt) : Res := if e.half == 0 then .frame e.pc e.frame else .half e.pc e.frame e.half

/-- Pages that a root's directory names. -/
def rootPages (s : State) (root : Nat) : List Nat :=
  (List.range 64).filterMap (fun i => (entAddr (rootAt s root) (256 * i)))

/-- Slots of the steps formed or in flight. -/
def jobSlots (j : Job) : List Slot := (j.runs.map StepRun.slots).flatten ++ (match j.formed with | some r => r.slots | none => [])

/-- Does a live snapshot refer to the page? -/
def pageShared (s : State) (j : Job) (a : Nat) : Bool := (jobSlots j).any (fun x => (rootPages s (rootAddr j x.snap)).contains a)

def sealedWords (fmt pc f epoch : Nat) : List Word := [BitVec.ofNat 32 (pc * 65536 + f), BitVec.ofNat 32 (fmt * 256 + 1), BitVec.ofNat 32 epoch, 0#32]

/-- Write entry `k` of the block table at `root`. A page that a live snapshot shares, or that is missing, is replaced by pool page
`fresh`; answers whether that page was used, or none when one was needed and not given. -/
def State.editEntry (s : State) (lead root k : Nat) (ws : List Word) (fresh : Option Nat) : Option (Bool × State) :=
  let j := jobD s lead
  let into (s : State) (q : Nat) : Bool × State :=
    let s := s.pokeWords (root + 64 + 8 * (k / 256)) (dirWord (pageAddr j q))
    (true, s.pokeWords (pageAddr j q + 16 * (k % 256)) ws)
  match entAddr (rootAt s root) k with
  | none => fresh.map (fun q => into (s.poke (pageAddr j q) (zeros 4096)) q)
  | some a =>
    let old := a - 16 * (k % 256)
    if pageShared s j old then
      fresh.map (fun q =>
        let (b, s) := into (s.poke (pageAddr j q) (peek s old 4096)) q
        (b, s.modJob lead (·.free (.page (pageIdx j old)))))
    else some (false, s.pokeWords a ws)

/-- An edit outside a commit's own reservations takes its page, if it needs one, from the pool while more than `floor` are free. -/
def State.editPool (s : State) (lead root k : Nat) (ws : List Word) (floor : Nat) : Option State :=
  let j := jobD s lead
  let q := if floor < freeOf j j.cfg.nPage .page then lowest j j.cfg.nPage .page else none
  match s.editEntry lead root k ws q with
  | none => none
  | some (used, s) => some (if used then match q with | some q => s.modJob lead (·.take (.page q)) | none => s else s)

/-- Mark chunk `k` DROPPED in the live table and free its frame; none when no page is found for the edit. -/
def State.dropChunk (s : State) (lead n k : Nat) : Option State :=
  let j := jobD s lead
  let root := entRoot (ent s j n)
  match entryAt s root k with
  | none => some s
  | some e =>
    if e.st != 1 then some s
    else
      let a := (entAddr (rootAt s root) k).getD 0
      let ws := peekWords s a 4
      (s.editPool lead root k [wAt ws 0, wset (wAt ws 1) 2 0 2, wAt ws 2, wAt ws 3] 0).map (fun s =>
        s.modJob lead (fun j => let j := j.free (resOf e); { j with gens := modT j.gens (e.pc * 2 ^ 20 + e.frame * 4 + e.half) 0 (· + 1) }))

def State.dropChunks (s : State) (lead n : Nat) (ks : List Nat) : State := ks.foldl (fun s k => (s.dropChunk lead n k).getD s) s

/-- Chunks of a sequence with a DROPPED or missing entry. -/
def droppedOf (s : State) (e : List Word) : List Nat :=
  (List.range (entLen e / 64)).filter (fun k => match entryAt s (entRoot e) k with | some b => b.st != 1 | none => true)

/-! Delta of a paired job (R384, Table 15.9). -/

def pairLive (j : Job) : Bool := j.pair.st == .syncing || j.pair.st == .paired

def deltaRec (kind req : Nat) (ws : List Word) : List Byte :=
  let n := roundUp (8 + 4 * ws.length) 16
  padTo n (wordsBytes ([BitVec.ofNat 32 (kind + n / 16 * 256), BitVec.ofNat 32 req] ++ ws))

def Job.addDelta (j : Job) (b : List Byte) : Job := if pairLive j then { j with delta := j.delta ++ [b] } else j
def State.addDelta (s : State) (lead kind req : Nat) (ws : List Word) : State := s.modJob lead (·.addDelta (deltaRec kind req ws))

/-- STATE record of an entry as it stands. -/
def State.deltaState (s : State) (lead n : Nat) : State :=
  let e := ent s (jobD s lead) n
  s.addDelta lead 3 n [wAt e 2 &&& 0x0F000407#32, BitVec.ofNat 32 (entLen e)]

/-! Steps that hold a sequence's slot. -/

def hasSlot (rs : List StepRun) (n : Nat) : Bool := rs.any (fun r => !r.withdrawn && r.trunc.isNone && r.slots.any (fun x => x.req == n && !x.voided))

def StepRun.void (r : StepRun) (n : Nat) : StepRun := { r with slots := r.slots.map (fun x => if x.req == n then { x with voided := true } else x) }

/-- The sequence's slots in the steps formed or in flight are voided (R298). -/
def Job.void (j : Job) (n : Nat) : Job := { j with runs := j.runs.map (·.void n), formed := j.formed.map (·.void n) }

/-! Ends (R268, R276, R289). -/

/-- Every resource of a sequence goes back under R161. -/
def State.freeSeq (s : State) (lead n : Nat) : State :=
  let j := jobD s lead
  let e := ent s j n
  let root := entRoot e
  let frames := (List.range (entLen e / 64)).filterMap (fun k => match entryAt s root k with
    | some b => if b.st == 1 then some (resOf b) else none
    | none => none)
  let pages := (rootPages s root).map (fun a => Res.page (pageIdx j a))
  let tls := (List.range 256).filterMap (fun i => (tlPage s (entTlog e) i).map (fun a => Res.tlpage (tlIdx j a)))
  let opens := match entOpen e with | some b => [Res.openBuf b] | none => []
  let all := frames ++ pages ++ tls ++ opens ++ [.root (rootIdx j root), .tlpage (tlIdx j (entTlog e)), .request n]
  s.modJob lead (fun j => all.foldl Job.free j)

/-- The sequence is DONE with a status; no record yet. -/
def State.endCore (s : State) (lead n status : Nat) : State :=
  let s := (s.entF lead n 2 2 0 4).entF lead n 2 23 16 status
  let s := (s.freeSeq lead n).modJob lead (fun j => { j.void n with idleSince := s.time.mono })
  s.addDelta lead 4 n [BitVec.ofNat 32 status]

/-- A cancel: recorded while a step in flight holds a slot, otherwise at once; answers whether the sequence ended. -/
def State.cancelSeq (s : State) (lead n : Nat) : Bool × State :=
  if hasSlot (jobD s lead).runs n then (false, s.entF lead n 2 10 10 1) else (true, s.endCore lead n 3)

/-! Response rings (R261 to R264). -/

def ringEnt (s : State) (j : Job) (k : Nat) : List Word := peekWords s (j.cfg.respTab + 32 * k) 8
def ringType (e : List Word) : Nat := wfld (wAt e 0) 1 0
def ringSize (e : List Word) : Nat := 2 ^ wfld (wAt e 0) 12 8

/-- The consumer count of a ring: the credit word when it lies in range, else it is ignored and counted (R261, R265). -/
def readCredit (s : State) (lead k : Nat) : Nat × State :=
  let j := jobD s lead
  let e := ringEnt s j k
  let p := (getT j.ringP k).getD 0
  let c := leNat (peek s (addrAt e 5) 8)
  let s := s.sees [(j.cfg.respTab + 32 * k, 32), (addrAt e 5, 8)]
  if p ≤ c + ringSize e && c ≤ p then (c, s.modJob lead (fun j => { j with ringC := putT j.ringC k c }))
  else ((getT j.ringC k).getD 0, s.badRec lead)

/-- Can a ring's records be written: its queue pair is ready, or its aperture takes the write (R261, R263)? -/
def ringUp (s : State) (lead k : Nat) (e : List Word) : Bool :=
  match ringType e with
  | 1 => (qpOf s (wfld (wAt e 0) 29 16)).st == .rts && (qpOf s (wfld (wAt e 0) 29 16)).job == lead
  | 2 =>
    let a := aperture s lead (wfld (wAt e 1) 3 0)
    let off := u64At e 2 + 64 * ((getT (jobD s lead).ringP k).getD 0 % ringSize e)
    a.valid && a.wr && decide (off + 64 ≤ a.size * 4096)
  | _ => false

/-- A record no longer held: the sequence's HELD bit shows whether another one is (R262). -/
def State.unheld (s : State) (lead : Nat) (h : HeldRec) : State :=
  let s := s.modJob lead (fun j => { j with held := j.held.erase h })
  if 65536 ≤ h.req || (jobD s lead).held.any (·.req == h.req) then s else s.entF lead h.req 2 11 11 0

/-- A ring that cannot be reached (R263): `due` records and those held for it are discarded and counted, every sequence that names it is cancelled,
and event 0x3302 is raised. -/
def State.ringDead (s : State) (lead k due : Nat) : State :=
  let gone := (jobD s lead).held.filter (·.ring == k)
  let s := gone.foldl (fun s h => s.unheld lead h) s
  let s := s.bumpRC .dbg lead 0x14C 31 0 (due + gone.length)
  let ns := reqsWhere s (jobD s lead) (fun e => entActive e && entRing e == k && !wbit (wAt e 2) 10)
  ns.foldl (fun s n => let (ended, s) := s.cancelSeq lead n
                       if ended then s.bump .dbg lead 0x14C else s) (s.baristaEv lead 0x3302)

/-- Write a record at the producer count of a ring that is up, by RDMA WRITE or posted write. -/
def State.putResp (s : State) (lead k : Nat) (ws : List Word) : State :=
  let j := jobD s lead
  let e := ringEnt s j k
  let p := (getT j.ringP k).getD 0
  let off := u64At e 2 + 64 * (p % ringSize e)
  let next (s : State) : State :=
    (s.modJob lead (fun j => { j with ringP := putT j.ringP k (p + 1) })).trace
      { cls := 8, kind := 1, part := lead, data := [nAt ws 3 % 65536, wfld (wAt ws 2) 3 0, wfld (wAt ws 2) 15 8] }
  match ringType e with
  | 1 => next ((s.charge lead 1 1).issue (wfld (wAt e 0) 29 16) { psn := 0, last := 0, kind := 1, va := off, rkey := nAt e 4, imm := none, len := 64,
                                                                  data := wordsBytes ws, d := none, ring := some k, seqno := none })
  | _ =>
    let a := aperture s lead (wfld (wAt e 1) 3 0)
    let s := s.charge lead 2 1
    next { s with mem := { s.mem with host := putBs s.mem.host (a.base + off) (wordsBytes ws) } }

/-- No sequence: the number beyond the request indices. -/
def noReq : Nat := 65536

/-- A response record is due (R262): written, held when its ring is full or already holds records, discarded when the ring cannot be reached. A
record of a suspended job waits for its resume (R336). -/
def State.respond (s : State) (lead k req : Nat) (ws : List Word) : State :=
  let j := jobD s lead
  let e := ringEnt s j k
  if j.saved.isSome then s.modJob lead (fun j => { j with late := j.late ++ [⟨k, req, ws⟩] })
  else if !ringUp s lead k e then s.ringDead lead k 1
  else
    let (c, s) := readCredit s lead k
    let p := (getT j.ringP k).getD 0
    if j.held.any (·.ring == k) || ringSize e ≤ p - c then
      let s := s.modJob lead (fun j => { j with held := j.held ++ [⟨k, req, ws⟩] })
      if req < 65536 then s.entF lead req 2 11 11 1 else s
    else s.putResp lead k ws

/-- Fields of a response record (Table 11.6). -/
structure Resp where
  client : Nat
  kind : Nat
  status : Nat := 0
  detail : Nat := 0
  req : Nat := 0xFFFF
  pos : Nat := 0
  token : Word := 0xFFFFFFFF#32
  logprob : Word := 0#32
  ngen : Nat := 0
  step : Nat := 0
  deriving DecidableEq, Repr

def Resp.words (s : State) (r : Resp) : List Word :=
  [lo32 r.client, hi32 r.client, BitVec.ofNat 32 (r.kind + r.status * 256 + r.detail * 65536), BitVec.ofNat 32 r.req, BitVec.ofNat 32 (r.pos % 2 ^ 21), r.token,
   r.logprob, BitVec.ofNat 32 (r.ngen % 2 ^ 21), lo32 s.time.now, hi32 s.time.now, lo32 r.step, hi32 r.step, 0#32, 0#32, 0#32, 0#32]

/-- POS of a record that carries no token is not stated: a free value (log entry 1). -/
def noPos (s : State) (n : Nat) : Nat := (Config.freeWord s.free (2 ^ 40 + n)).toNat % 2 ^ 21

/-- Post a record, or keep it until the DELTA of its step is acknowledged (R385). -/
def State.post (s : State) (lead k req : Nat) (ws : List Word) (confirm : Option Nat) : State :=
  match confirm with
  | some q => s.modJob lead (fun j => { j with confirm := j.confirm ++ [(q, ⟨k, req, ws⟩)] })
  | none => s.respond lead k req ws

/-- FINAL record of a sequence that ended without a token. -/
def State.finalNoTok (s : State) (lead n status detail step : Nat) (confirm : Option Nat := none) : State :=
  let e := ent s (jobD s lead) n
  s.post lead (entRing e) n (Resp.words s { client := u64At e 0, kind := 2, status := status, detail := detail, req := n, pos := noPos s n,
                                            ngen := entNgen e, step := step }) confirm

/-- End a sequence and post its FINAL record. -/
def State.endSeq (s : State) (lead n status : Nat) (detail : Nat := 0) : State := (s.endCore lead n status).finalNoTok lead n status detail 0

/-- A sequence needs recompute (Table 11.9, R282); answers the status it ends with instead, if any. -/
def State.toRecompute (s : State) (lead n : Nat) : Option Nat × State :=
  let e := ent s (jobD s lead) n
  if entState e == 3 then (none, s)
  else if 8 ≤ entRcount e then (some 5, (s.endCore lead n 5).baristaEv lead 0x3306)
  else (none, ((s.entF lead n 2 27 24 (entRcount e + 1)).entF lead n 2 2 0 3).deltaState lead n)

/-! Returning (R161, R268, R284 to R286). -/

/-- Adapter-table entry `i`. -/
def adapAddr (j : Job) (i : Nat) : Nat := j.cfg.adapTab + 32 * i
def adap (s : State) (j : Job) (i : Nat) : List Word := peekWords s (adapAddr j i) 8
def adapState (w : List Word) : Nat := wfld (wAt w 2) 17 16
def adapGen (w : List Word) : Nat := wfld (wAt w 2) 15 0

/-- An adapter entry that no request binds any more leaves service once SUPERSEDED. -/
def State.adapSettle (s : State) (lead i : Nat) : State :=
  let j := jobD s lead
  let w := adap s j i
  if adapState w == 2 && wfld (wAt w 3) 16 0 == 0 then s.modJob lead (·.free (.adapter i)) else s

def State.adapRefs (s : State) (lead i : Nat) (f : Nat → Nat) : State :=
  let j := jobD s lead
  let w := adap s j i
  s.pokeWords (adapAddr j i + 12) [wset (wAt w 3) 16 0 (f (wfld (wAt w 3) 16 0))]

/-- A DONE sequence with its FINAL record written and all returned becomes FREE; its adapter reference is released (R268, R286). -/
def State.seqFree (s : State) (lead n : Nat) : State :=
  let j := jobD s lead
  let e := ent s j n
  let waits := j.deferred.any (fun p => p.1 == .request n) || j.held.any (·.req == n) || j.late.any (·.req == n) || j.confirm.any (fun p => p.2.req == n)
  if entState e == 4 && !waits then
    let s := (s.entF lead n 2 2 0 0).modJob lead (·.untake (.request n))
    let a := wfld (wAt e 3) 31 16
    if a == 0 then s else (s.adapRefs lead a (· - 1)).adapSettle lead a
  else s

/-- One freed item whose epoch is over returns. -/
def State.returnOne (s : State) (lead : Nat) (r : Res) : State :=
  let s := s.modJob lead (fun j => { j with used := j.used.erase r, deferred := j.deferred.filter (·.1 != r) })
  match r with
  | .request n => s.seqFree lead n
  | .adapter i =>
    let j := jobD s lead
    let w := adap s j i
    let g := (adapGen w + 1) % 65536
    let pk := (addrAt w 4 - j.cfg.packPool) / max (packSize j) 1
    (s.pokeWords (adapAddr j i) [0#32, 0#32, BitVec.ofNat 32 (if g == 0 then 1 else g), 0#32, 0#32, 0#32, 0#32, 0#32]).modJob lead (·.untake (.pack pk))
  | _ => s

def State.returnAll (s : State) (lead : Nat) : State :=
  let j := jobD s lead
  (j.deferred.filter (fun p => epochOver j p.2)).foldl (fun s p => s.returnOne lead p.1) s

/-- What Barista's commands change: memories, registers, job, partitions, network, host link, units, attention and vector engines,
stack bookkeeping, event suppression and the counter of R81. -/
def touchServ (s t : State) : State := touchDesc s t

/-- RESOURCE_RETURN: nothing is freed or allocated in debug hold (R98). -/
def execResourceReturn (lead : Nat) (s : State) : Host.Outcome State Fault Refusal :=
  .next (touchServ s (if (job? s lead).isNone || (jobD s lead).debugHold then s else s.returnAll lead))

end Sys2Proof.Machine
end

