-- ==== Sys2Proof/Machine/Barista.lean ====
section
/-! DEFINITION. Ring records (R258 to R265, R269, R283 to R286, R290) and held records (R262). -/

namespace Sys2Proof.Machine

/-! The request ring (R258). -/

def ringLen (j : Job) : Nat := 2 ^ j.cfg.ringLog
def ringCount (j : Job) : Nat := j.ringTail - j.ringHead
def ringFull (j : Job) : Bool := decide (ringLen j ≤ ringCount j)

/-- Place a record, zero-padded to 4 KiB, in the next entry (R345). -/
def State.ringPut (s : State) (lead : Nat) (bs : List Byte) : State :=
  let j := jobD s lead
  let s := s.poke (j.cfg.ring + 4096 * (j.ringTail % ringLen j)) (padTo 4096 bs)
  s.modJob lead (fun j => { j with ringTail := j.ringTail + 1, idleSince := s.time.mono })

def headAddr (j : Job) : Nat := j.cfg.ring + 4096 * (j.ringHead % ringLen j)
def headWords (s : State) (j : Job) : List Word := peekWords s (headAddr j) 32
def recKind (w : List Word) : Nat := wfld (wAt w 2) 3 0
def recRing (w : List Word) : Nat := wfld (wAt w 3) 7 0
def recClient (w : List Word) : Nat := u64At w 0

/-- Barista handles records: a job whose ring is open (R409), neither in debug hold, dissolving, suspended nor asleep (R30). -/
def handles (s : State) (lead : Nat) : Bool :=
  match job? s lead with
  | none => false
  | some j => j.open_ && !(part s lead).asleep && !j.debugHold && !j.dissolving && j.saved.isNone && !s.fatal && decide (0 < ringCount j) &&
    pState s lead != pSuspending && pState s lead != pResuming

/-- Words that are reserved for the record's KIND must be zero (R259); masks of the bits that are not reserved. -/
def recMask (kind : Nat) : List Nat :=
  let all := 0xFFFFFFFF
  let tail (l : List Nat) : List Nat := l ++ List.replicate (32 - l.length) 0
  match kind with
  | 1 => tail [all, all, 0x3070F, 0xFF, 0x1FFFFF, 0x1FFFFF, all, all, all, all, 0xFFFF, 0, all, 0xFFFF]
  | 2 => tail [all, all, 0xF, 0xFF]
  | 3 => tail [all, all, 0xF, 0xFF, all, all, all, all]
  | 4 => tail [all, all, 0xF, 0xFF, all, all]
  | _ => tail [all, all, 0xF, 0xFF, all, all, all, all, all, all, all, all]

def reservedOk (kind : Nat) (w : List Word) : Bool :=
  (w.zip (recMask kind)).all (fun p => Nat.land p.1.toNat p.2 == p.1.toNat)

/-- A response-ring entry that Table 11.5 allows. -/
def ringEntryOk (e : List Word) : Bool :=
  let w := wAt e 0
  decide (ringType e ≤ 2) && wfld w 31 30 == 0 && wfld w 7 2 == 0 && wfld w 15 13 == 0 && wfld (wAt e 1) 31 4 == 0 && wfld (wAt e 6) 31 16 == 0 &&
  wAt e 7 == 0#32 && (ringType e == 0 || (decide (4 ≤ wfld w 12 8) && decide (wfld w 12 8 ≤ 20)))

def ringBusy (s : State) (j : Job) (k : Nat) : Bool := !(reqsWhere s j (fun e => entActive e && entRing e == k)).isEmpty

/-- Free the head entry and note that the record was handled. -/
def State.popRec (s : State) (lead : Nat) (kind status req : Nat) : State :=
  (s.modJob lead (fun j => { j with ringHead := j.ringHead + 1, idleSince := s.time.mono })).trace { cls := 8, kind := 0, part := lead, data := [req, kind, status] }

/-- Is the record one to discard (R265)? -/
def discards (s : State) (j : Job) (w : List Word) : Bool :=
  let k := recKind w
  !(decide (1 ≤ k) && decide (k ≤ 5)) || !reservedOk k w || (k != 5 && (let t := ringType (ringEnt s j (recRing w)); t == 0 || t == 3))

/-- Handle the head record if it is of the given kind. Records of a reserved kind are handled, and discarded, by REQUEST. -/
def ringStep (s : State) (lead kind : Nat) (f : State → Job → List Word → State) : State :=
  if !handles s lead then s
  else
    let j := jobD s lead
    let w := headWords s j
    let mine := recKind w == kind || (kind == 1 && !(decide (1 ≤ recKind w) && decide (recKind w ≤ 5)))
    if !mine then s
    else
      let s1 := s.sees [(headAddr j, 4096)]
      if discards s j w then touchServ s ((s1.badRec lead).popRec lead (recKind w) 0 0xFFFF)
      else touchServ s (f s1 (jobD s1 lead) w)

/-! REQUEST (R260, R269, R277). -/

/-- Reject a request before it takes an entry. -/
def State.reject (s : State) (lead : Nat) (w : List Word) (status detail : Nat) : State :=
  let s := s.respond lead (recRing w) noReq
    (Resp.words s { client := recClient w, kind := 2, status := status, detail := detail, pos := noPos s 65536 })
  s.popRec lead 1 status 0xFFFF

/-- Prompt tokens: inline from byte 128 of the entry, or in the job's memory; none when they cannot be read. -/
def promptOf (s : State) (lead : Nat) (w : List Word) : Option (List Word) × State :=
  let j := jobD s lead
  let n := wfld (wAt w 4) 20 0
  let a := addrAt w 12
  if a == 0 then (some (peekWords s (headAddr j + 128) n), s)
  else if !(segRuns a (4 * n)).all (fun r => ratJob s 0 j.parts r.1) || spreadTop s < a + 4 * n then (none, s)
  else
    let (bs, bad, s) := readStack s a (4 * n)
    if bad then (none, s) else (some (bytesWords n bs), s)

/-- The LIVE entry of a pack. -/
def livePack (s : State) (j : Job) (id : Nat) : Option Nat :=
  (List.range 65536).find? (fun i => i != 0 && adapState (adap s j i) == 1 && u64At (adap s j i) 0 == id)

/-- The lowest FREE entry of the request table (R277). -/
def freeReq (s : State) (j : Job) : Option Nat := (List.range 65536).find? (fun n => entState (ent s j n) == 0)

/-- The lowest FREE entry of the adapter table (R277, R284). -/
def freeAdap (s : State) (j : Job) : Option Nat :=
  (List.range 65536).find? (fun i => i != 0 && adapState (adap s j i) == 0 && !taken j (.adapter i))

/-- Take and clear the items an admission needs: request index, root, directory, log pages (R277). -/
def admitItems (j : Job) (np : Nat) : Option (Nat × Nat × List Nat) :=
  let tls := ((List.range j.cfg.nTlPage).filter (fun i => !taken j (.tlpage i))).take (1 + ceilDiv np 4096)
  match lowest j j.cfg.nRoot .root, tls with
  | some r, d :: ps => if ps.length == ceilDiv np 4096 then some (r, d, ps) else none
  | _, _ => none

def State.takeReq (s : State) (lead : Nat) (w : List Word) (n : Nat) (toks : List Word) (items : Nat × Nat × List Nat) (ad : Nat) : State :=
  let j := jobD s lead
  let (r, d, ps) := items
  let s := s.modJob lead (fun j => (ps.foldl (fun j i => j.take (.tlpage i)) (((j.take (.request n)).take (.root r)).take (.tlpage d))))
  let s := (s.poke (rootAddr j r) (zeros 1024)).pokeWords (rootAddr j r) [BitVec.ofNat 32 n]
  let s := s.poke (tlAddr j d) (zeros 16384)
  let s := ps.zipIdx.foldl (fun s (q, i) => s.addTlPage lead (tlAddr j d) i q) s
  let s := s.putTokens (tlAddr j d) 0 toks
  let admNo := j.admits
  let w2 := 1 + wfld (wAt w 2) 10 8 * 16 + b2n (wbit (wAt w 2) 16) * 256 + b2n (wbit (wAt w 2) 17) * 512
  let gen := if ad == 0 then 0 else adapGen (adap s j ad)
  let e : List Word := [wAt w 0, wAt w 1, BitVec.ofNat 32 w2, BitVec.ofNat 32 (recRing w + ad * 65536), BitVec.ofNat 32 gen, wAt w 4, wAt w 5, 0#32, 0#32,
    wAt w 4, lo32 (rootAddr j r), hi32 (rootAddr j r), lo32 (tlAddr j d), hi32 (tlAddr j d), 0xFFFFFFFF#32, BitVec.ofNat 32 (admNo % max (npc j) 1),
    lo32 admNo, hi32 admNo, wAt w 8, wAt w 9, wAt w 10] ++ List.replicate 11 0#32
  let s := s.pokeWords (reqAddr j n) e
  let s := if ad == 0 then s else s.adapRefs lead ad (· + 1)
  let s := s.modJob lead (fun j => { j with admits := admNo + 1 })
  let s := s.addDelta lead 1 n [BitVec.ofNat 32 (wfld (wAt w 2) 10 8 + b2n (wbit (wAt w 2) 16) * 256 + b2n (wbit (wAt w 2) 17) * 512),
    BitVec.ofNat 32 (recRing w), wAt w 0, wAt w 1, wAt w 4, wAt w 5, wAt w 6, wAt w 7, wAt w 8, wAt w 9, wAt w 10, lo32 admNo, hi32 admNo, 0#32]
  let s := s.addDelta lead 2 n ([0#32, wAt w 4] ++ toks)
  s.popRec lead 1 0 n

/-- The admission of a request whose prompt could be read: its pack's entry, a request entry and the pools' items, in the order of R269. -/
def State.admitReq (s : State) (lead : Nat) (w toks : List Word) (ad n : Option Nat) (items : Option (Nat × Nat × List Nat)) : State :=
  match ad, n, items with
  | none, _, _ => s.reject lead w 6 5
  | some _, none, _ => s.reject lead w 8 8
  | some _, some _, none => s.reject lead w 8 9
  | some ad, some n, some items => s.takeReq lead w n toks items ad

def withPrompt (lead : Nat) (j : Job) (w : List Word) (p : Option (List Word) × State) : State :=
  match p with
  | (none, s) => s.reject lead w 7 4
  | (some toks, s) =>
    s.admitReq lead w toks (if u64At w 6 == 0 then some 0 else livePack s j (u64At w 6)) (freeReq s j) (admitItems j (wfld (wAt w 4) 20 0))

def requestRec (lead : Nat) (s : State) (j : Job) (w : List Word) : State :=
  let np := wfld (wAt w 4) 20 0
  let mn := wfld (wAt w 5) 20 0
  if np == 0 || mn == 0 then s.reject lead w 7 1
  else if j.cfg.maxLen < np + mn then s.reject lead w 7 2
  else if addrAt w 12 == 0 && 992 < np then s.reject lead w 7 3
  else withPrompt lead j w (promptOf s lead w)

def execRequest (lead : Nat) (s : State) : Host.Outcome State Fault Refusal := .next (ringStep s lead 1 (requestRec lead))

/-! CANCEL (R290). -/

/-- Of several active requests with one CLIENT and RING the earliest admitted is meant, one not yet cancelled before the others (DESIGN CHOICE,
log entry 135). -/
def cancelRec (lead : Nat) (s : State) (j : Job) (w : List Word) : State :=
  let ns := byAdmit s j (reqsWhere s j (fun e => entActive e && u64At e 0 == recClient w && entRing e == recRing w))
  match ns.filter (fun n => !wbit (wAt (ent s j n) 2) 10) ++ ns with
  | [] =>
    let s := s.respond lead (recRing w) noReq (Resp.words s { client := recClient w, kind := 4, status := 4, pos := noPos s 65536 })
    s.popRec lead 2 4 0xFFFF
  | n :: _ =>
    let (ended, s) := s.cancelSeq lead n
    let s := if ended then s.finalNoTok lead n 3 0 0 else s.deltaState lead n
    s.popRec lead 2 0 n

def execCancel (lead : Nat) (s : State) : Host.Outcome State Fault Refusal := .next (ringStep s lead 2 (cancelRec lead))

/-! ADAPTER_LOAD, ADAPTER_RETIRE (R283 to R286). -/

def State.adapReply (s : State) (lead : Nat) (w : List Word) (status detail : Nat) : State :=
  let s := s.respond lead (recRing w) noReq (Resp.words s { client := recClient w, kind := 3, status := status, detail := detail, pos := noPos s 65536 })
  s.popRec lead (recKind w) status 0xFFFF

def packOk (j : Job) (id : Nat) (h : List Word) : Bool :=
  wAt h 0 == 0x4B574150#32 && wfld (wAt h 1) 7 0 == j.cfg.layers && wfld (wAt h 1) 15 8 == 3 && wfld (wAt h 1) 31 16 == 0 && u64At h 2 == id && id != 0 &&
  (List.range 12).all (fun i => wAt h (4 + i) == 0#32)

def adapterLoadRec (lead : Nat) (s : State) (j : Job) (w : List Word) : State :=
  let id := u64At w 4
  let src := u64At w 6
  let n := 64 + 128 * j.cfg.layers
  match lowest j j.cfg.nPack .pack, freeAdap s j with
  | some pk, some i =>
    if !(segRuns src n).all (fun r => ratJob s 0 j.parts r.1) || spreadTop s < src + n then s.adapReply lead w 6 6
    else
      let (bs, bad, s) := readStack s src n
      if bad || !packOk j id (bytesWords 16 bs) then s.adapReply lead w 6 6
      else
        let s := s.poke (packAddr j pk) bs
        let old := livePack s j id
        let g := adapGen (adap s j i)
        let s := s.pokeWords (adapAddr j i) [lo32 id, hi32 id, BitVec.ofNat 32 (g + 65536), 0#32, lo32 (packAddr j pk), hi32 (packAddr j pk),
          BitVec.ofNat 32 j.cfg.layers, 0#32]
        let s := s.modJob lead (fun j => (j.take (.pack pk)).take (.adapter i))
        let s := match old with
          | some o => (s.pokeWords (adapAddr j o + 8) [wset (wAt (adap s j o) 2) 17 16 2]).adapSettle lead o
          | none => s
        s.adapReply lead w 0 0
  | _, _ => s.adapReply lead w 8 7

def execAdapterLoad (lead : Nat) (s : State) : Host.Outcome State Fault Refusal := .next (ringStep s lead 3 (adapterLoadRec lead))

def adapterRetireRec (lead : Nat) (s : State) (j : Job) (w : List Word) : State :=
  match livePack s j (u64At w 4) with
  | none => s.adapReply lead w 6 5
  | some o => ((s.pokeWords (adapAddr j o + 8) [wset (wAt (adap s j o) 2) 17 16 2]).adapSettle lead o).adapReply lead w 0 0

def execAdapterRetire (lead : Nat) (s : State) : Host.Outcome State Fault Refusal := .next (ringStep s lead 4 (adapterRetireRec lead))

/-! RING_SET (R261). -/

/-- The frontend's address in a RING record: of the ring's queue pair, low word first. -/
def frontWords (s : State) (e : List Word) : List Word :=
  let a := if ringType e == 1 then (qpOf s (wfld (wAt e 0) 29 16)).addr else 0
  (List.range 4).map (fun i => a.extractLsb' (32 * i) 32)

/-- Write a response-ring entry; its counts start at 0 (log entry 43). -/
def State.setRing (s : State) (lead k : Nat) (e : List Word) : State :=
  let j := jobD s lead
  let s := s.pokeWords (j.cfg.respTab + 32 * k) e
  let s := s.modJob lead (fun j => { j with ringP := delT j.ringP k, ringC := delT j.ringC k })
  s.addDelta lead 5 0 ([BitVec.ofNat 32 k, 0#32] ++ e ++ frontWords s e)

def ringSetRec (lead : Nat) (s : State) (j : Job) (w : List Word) : State :=
  let e := (w.drop 4).take 8
  let k := recRing w
  if !ringEntryOk e || ringBusy s j k then (s.badRec lead).popRec lead 5 0 0xFFFF
  else (s.setRing lead k e).popRec lead 5 0 0xFFFF

def execRingSet (lead : Nat) (s : State) : Host.Outcome State Fault Refusal := .next (ringStep s lead 5 (ringSetRec lead))

/-! Held records (R262). -/

/-- A held record is written or given up; its sequence may now be free. -/
def State.heldDone (s : State) (lead : Nat) (h : HeldRec) : State :=
  let s := s.unheld lead h
  if 65536 ≤ h.req then s else s.seqFree lead h.req

/-- The first record held for a ring is written when the ring has room, and all of them are discarded when it cannot be reached (R262, R263). -/
def heldWrite (s : State) (lead k : Nat) : State :=
  let j := jobD s lead
  match j.held.find? (·.ring == k) with
  | none => s
  | some h =>
    let e := ringEnt s j k
    if !ringUp s lead k e then (j.held.filter (·.ring == k)).foldl (fun s h => if 65536 ≤ h.req then s else s.seqFree lead h.req) (s.ringDead lead k 0)
    else
      let (c, s) := readCredit s lead k
      if ringSize e ≤ (getT j.ringP k).getD 0 - c then s
      else (s.putResp lead k h.words).heldDone lead h

end Sys2Proof.Machine
end

