-- ==== Sys2Proof/Machine/Forming.lean ====
section
/-! DEFINITION. Step formation (R257, R271 to R278, R297), snapshots (R159), the batch table (R74, R272), pressure relief (R278) and launch
(R294, R295). -/

namespace Sys2Proof.Machine

/-! Runtime settings of the job (R256): the lead partition's registers. -/

def tokBudget (s : State) (lead : Nat) : Nat := let x := reg s .prt lead 0x050; if x == 0 then 8192 else x
def pChunk (s : State) (lead : Nat) : Nat := reg s .prt lead 0x054
def lowWater (s : State) (lead : Nat) : Nat := reg s .prt lead 0x058
def demoteEn (s : State) (lead : Nat) : Bool := regF s .prt lead 0x05C 1 1 == 1
def retryMax (s : State) (lead : Nat) : Nat := regF s .prt lead 0x05C 11 8

/-! A sequence as formation sees it: as its entry stands, or as the step in flight will leave it (R297). -/

structure SeqV where
  n : Nat
  st : Nat
  len : Nat
  np : Nat
  admNo : Nat
  home : Nat
  root : Nat
  tlog : Nat
  openB : Option Nat
  dropped : List Nat
  openlost : Bool
  cont : Bool := false
  /-- chunks that the step in flight seals for it, and that step's epoch -/
  seals : List (Nat × Nat × Nat) := []
  sepoch : Nat := 0
  deriving DecidableEq, Repr

def viewOf (s : State) (j : Job) (n : Nat) : SeqV :=
  let e := ent s j n
  { n := n, st := entState e, len := entLen e, np := entNprompt e, admNo := entAdmit e, home := nAt e 15, root := entRoot e, tlog := entTlog e,
    openB := entOpen e, dropped := if entState e == 3 then droppedOf s e else [], openlost := entOpenlost e }

/-- Kinds of slots (Table 03.17). -/
def recomputeDone (v : SeqV) : Nat := if !v.dropped.isEmpty || v.openlost then 3 else if v.len + 1 < v.np then 1 else 2

/-- The sequence once its slot of the step in flight has committed as a continuation (R297). -/
def SeqV.after (v : SeqV) (x : Slot) (epoch : Nat) : SeqV :=
  let p := x.pos + x.ntok
  let last := some (x.openBuf + x.nbuf - 1)
  let v := { v with cont := true, seals := x.seals, sepoch := epoch }
  if x.kind == 3 then
    let v := { v with dropped := v.dropped.filter (fun k => !(x.seals.any (·.1 == k))), openlost := v.openlost && p != v.len,
                      openB := if p == v.len && p % 64 != 0 then last else v.openB }
    { v with st := recomputeDone v }
  else
    { v with len := p, openB := if p % 64 == 0 then none else last,
             st := if v.st == 3 then 3 else if x.kind == 0 || p == v.np then 2 else 1 }

/-- The step in flight that a new step continues from. -/
def inFlight (j : Job) : Option StepRun := (j.runs.filter (fun r => !r.withdrawn && r.trunc.isNone)).getLast?

/-- Sequences that may get a slot (R271), in admission order: none whose slot of the step in flight is voided (R298), since that step still holds it
(DESIGN CHOICE, log entry 137). -/
def readySeqs (s : State) (j : Job) : List SeqV :=
  let ns := byAdmit s j (reqsWhere s j (fun e => entActive e && !wbit (wAt e 2) 11))
  ns.filterMap (fun n =>
    let v := viewOf s j n
    match inFlight j with
    | none => some v
    | some r => match r.slots.find? (fun x => x.req == n) with
      | some x => if x.voided then none else some (v.after x r.epoch)
      | none => some v)

/-! Building the slots. -/

structure Form where
  j : Job
  /-- false: the counting pass of R278 -/
  alloc : Bool
  slots : List Slot := []
  budget : Nat
  ndec : Nat := 0
  need : Nat := 0
  /-- sequences left out for lack of root, page or token-log space -/
  short : Nat := 0

/-- Chunks that a slot fills. -/
def fillsChunks (kind pos n : Nat) : List Nat :=
  if kind == 0 then (if pos % 64 == 63 then [pos / 64] else [])
  else (List.range ((pos + n) / 64 - pos / 64)).map (fun i => pos / 64 + i)

/-- Frames for chunks in turn (R275). -/
def pickFrames (s : State) (home : Nat) : List Nat → Job → Option (List (Nat × Nat × Nat) × Job)
  | [], j => some ([], j)
  | k :: t, j =>
    match pickFrame s j home k with
    | none => none
    | some (pc, f) => (pickFrames s home t (j.take (.frame pc f))).map (fun (l, j) => ((k, pc, f) :: l, j))

def takeMany (n : Nat) (mk : Nat → Res) (tot : Nat) : Job → Option (List Nat × Job) :=
  fun j =>
    let l := ((List.range tot).filter (fun i => !taken j (mk i))).take n
    if l.length == n then some (l, l.foldl (fun j i => j.take (mk i)) j) else none

/-- The reservations of R277: snapshot root, pages for the seals and for the private pages of R297, a token-log page. Formation leaves
256 pages of the pool. -/
def reserve (f : Form) (v : SeqV) (kind pos n : Nat) (chunks : List Nat) : Option (Nat × List Nat × List Nat × Option Nat × Job) :=
  let npg := (chunks.map (· / 256)).dedup.length
  let npr := (v.seals.map (fun x => x.1 / 256)).dedup.length
  let commits := kind == 0 || (kind ≤ 2 && pos + n == v.np)
  let tl := if commits && (pos + n) % 4096 == 0 then 1 else 0
  match lowest f.j f.j.cfg.nRoot .root with
  | none => none
  | some r =>
    if npg + npr != 0 && freeOf f.j f.j.cfg.nPage .page < 256 + npg + npr then none
    else match takeMany (npg + npr) .page f.j.cfg.nPage (f.j.take (.root r)) with
      | none => none
      | some (pg, j) => (takeMany tl .tlpage j.cfg.nTlPage j).map (fun (t, j) => (r, pg.take npg, pg.drop npg, t.head?, j))

/-- Add a slot if its open buffers, frames and reservations can be had. -/
def tryAdd (s : State) (f : Form) (v : SeqV) (kind pos n : Nat) : Bool × Form :=
  let nb := (pos + n - 1) / 64 - pos / 64 + 1
  let chunks := fillsChunks kind pos n
  let base : Slot := { req := v.n, kind := kind, pos := pos, ntok := n, row := 0, snap := 0, openBuf := 0, nbuf := nb, fresh := true, seals := [],
                       pages := [], tlpage := none, continuing := v.cont }
  if !f.alloc then (true, { f with slots := f.slots ++ [base], need := f.need + chunks.length })
  else
    let old := kind == 0 && pos % 64 != 0
    let buf := if old then v.openB else pickOpen f.j nb
    match buf with
    | none => (false, f)
    | some b =>
      let j1 := if old then f.j else f.j.takeOpen b nb
      match pickFrames s v.home chunks j1 with
      | none => (false, f)
      | some (seals, j2) =>
        match reserve { f with j := j2 } v kind pos n chunks with
        | none => (false, { f with short := f.short + 1 })
        | some (r, pg, pr, tl, j3) =>
          (true, { f with j := j3, slots := f.slots ++ [{ base with snap := r, openBuf := b, fresh := !old, seals := seals, pages := pg, priv := pr, tlpage := tl }] })

def decodePass (s : State) (f : Form) (vs : List SeqV) : Form :=
  vs.foldl (fun f v =>
    if f.ndec == 4096 || f.slots.length == 8192 || f.budget == 0 then f
    else
      let (ok, f) := tryAdd s f v 0 v.len 1
      if ok then { f with budget := f.budget - 1, ndec := f.ndec + 1 } else f) f

/-- Length of the run of dropped chunks from `k`. -/
def runFrom (ds : List Nat) : Nat → Nat → Nat
  | 0, _ => 0
  | n + 1, k => if ds.contains k then 1 + runFrom ds n (k + 1) else 0

def recomputePass (s : State) (pchunk : Nat) (f : Form) (vs : List SeqV) : Form :=
  vs.foldl (fun f v =>
    let k := v.dropped.foldl min (v.len / 64)
    let e := 64 * (k + runFrom v.dropped (v.dropped.length + 1) k)
    let e := if e == 64 * (v.len / 64) && v.openlost then v.len else e
    let n := min (min (e - 64 * k) pchunk) (64 * (f.budget / 64))
    if n == 0 || f.slots.length == 8192 then f
    else
      let (ok, f) := tryAdd s f v 3 (64 * k) n
      if ok then { f with budget := f.budget - 64 * ceilDiv n 64 } else f) f

def prefillPass (s : State) (pchunk : Nat) (f : Form) (vs : List SeqV) : Form :=
  (vs.filter (fun v => 0 < v.len) ++ vs.filter (fun v => v.len == 0)).foldl (fun f v =>
    let rest := v.np - v.len
    let n := min rest pchunk
    let n := if n < rest then 64 * (n / 64) else n
    let n := if f.budget < n then 64 * (f.budget / 64) else n
    if n == 0 || f.slots.length == 8192 then f
    else
      let (ok, f) := tryAdd s f v (if 0 < v.len then 2 else 1) v.len n
      if ok then { f with budget := f.budget - n } else f) f

/-- The procedure of R271: decode slots from after the last sequence served, then recomputes, then prefills. -/
def buildSlots (s : State) (lead : Nat) (j : Job) (alloc : Bool) (vs : List SeqV) : Form :=
  let dec := vs.filter (·.st == 2)
  let dec := match j.lastServed with
    | some a => dec.filter (fun v => decide (a < v.admNo)) ++ dec.filter (fun v => decide (v.admNo ≤ a))
    | none => dec
  let f : Form := { j := j, alloc := alloc, budget := tokBudget s lead }
  let f := decodePass s f dec
  let f := recomputePass s (pChunk s lead) f (vs.filter (·.st == 3))
  prefillPass s (pChunk s lead) f (vs.filter (·.st == 1))

/-- Batch order (R74, R271): decode, continuations, starts, recomputes. -/
def batchOrder (xs : List Slot) : List Slot := xs.filter (·.kind == 0) ++ xs.filter (·.kind == 2) ++ xs.filter (·.kind == 1) ++ xs.filter (·.kind == 3)

def sumTok (xs : List Slot) : Nat := xs.foldl (fun n x => n + x.ntok) 0
def bindOf (xs : List Slot) : Nat → Nat
  | 1 => xs.length
  | 2 => sumTok xs
  | 3 => (xs.filter (·.kind == 0)).length
  | 4 => sumTok (xs.filter (·.kind != 0))
  | 5 => xs.foldl (fun n x => n + x.seals.length) 0
  | _ => 0

/-- R257: the program chosen and its PROG entry. -/
def progFor (j : Job) (xs : List Slot) : Option (Nat × Prog) :=
  j.cfg.progs.zipIdx.findSome? (fun ((id, lo, hi, _), i) =>
    if id == 0#32 then none
    else match progOf j id with
      | none => none
      | some p =>
        let t := sumTok xs
        if !p.closing && decide (lo ≤ t) && decide (t ≤ hi) && decide (t ≤ p.tokmax) && decide (xs.length ≤ p.slotmax) && p.caps.all (fun c => decide (bindOf xs c.1 ≤ c.2))
        then some (i, p) else none)

/-- Items of a slot that nothing uses go back at once. -/
def unreserve (j : Job) (x : Slot) : Job :=
  let j := if x.fresh then (List.range x.nbuf).foldl (fun j i => j.untake (.openBuf (x.openBuf + i))) j else j
  let j := x.seals.foldl (fun j q => j.untake (.frame q.2.1 q.2.2)) j
  let j := (x.pages ++ x.priv).foldl (fun j i => j.untake (.page i)) (j.untake (.root x.snap))
  match x.tlpage with | some i => j.untake (.tlpage i) | none => j

/-- Choose a program, removing last slots until one fits. -/
def fitProg : Nat → Job → List Slot → Option ((Nat × Prog) × List Slot × Job)
  | 0, _, _ => none
  | n + 1, j, xs =>
    if xs.isEmpty then none
    else match progFor j xs with
      | some p => some (p, xs, j)
      | none => match xs.getLast? with
        | none => none
        | some x => fitProg n (unreserve j x) xs.dropLast

/-! Pressure relief (R278). -/

/-- Victim chunks in order: shadows, then by PRIO, latest ADMIT first, highest chunk first; with their block-table entries. -/
def victims (s : State) (j : Job) : List (Nat × Nat × BEnt) :=
  let ns := reqsWhere s j (fun e => entActive e || entState e == 5)
  let key (n : Nat) : Nat × Nat := let e := ent s j n; (if entState e == 5 then 0 else 1 + wfld (wAt e 2) 6 4, entAdmit e)
  let ns := ns.mergeSort (fun a b => decide ((key a).1 < (key b).1) || ((key a).1 == (key b).1 && decide ((key b).2 ≤ (key a).2)))
  (ns.map (fun n =>
    let e := ent s j n
    (List.range (entLen e / 64)).reverse.filterMap (fun k => match entryAt s (entRoot e) k with
      | some b => if b.st == 1 then some (n, k, b) else none
      | none => none))).flatten

/-- Drop one chunk under pressure: the sequence goes to RECOMPUTE, or ends FAILED_RECOMPUTE; none when the edit finds no page. -/
def State.pressDrop (s : State) (lead n k : Nat) : Option State :=
  (s.dropChunk lead n k).map (fun s =>
    let s := s.baristaEv lead 0x3307 true
    if entState (ent s (jobD s lead) n) == 5 then s
    else match s.toRecompute lead n with
      | (some st, s) => s.finalNoTok lead n st 0 0
      | (none, s) => s)

/-- Drop victims until `half` half frames are covered. -/
def dropUntil (lead : Nat) : List (Nat × Nat × BEnt) → Nat → State → State
  | [], _, s => s
  | (n, k, b) :: t, half, s =>
    if half == 0 then s
    else
      let e := ent s (jobD s lead) n
      if !(entActive e || entState e == 5) then dropUntil lead t half s
      else match s.pressDrop lead n k with
        | none => dropUntil lead t half s
        | some s => dropUntil lead t (half - (if b.half == 0 then 2 else 1)) s

/-- Frames that pending frees make whole (R161, R279): a frame, or a half whose other half is free or pending too. -/
def pendFrames (j : Job) : Nat :=
  let gone := j.deferred.map Prod.fst
  let stays (r : Res) : Bool := j.used.contains r && !gone.contains r
  let frames := (gone.filterMap (fun r => match r with | .frame pc f => some (pc, f) | .half pc f _ => some (pc, f) | _ => none)).dedup
  (frames.filter (fun p => !stays (.frame p.1 p.2) && !stays (.half p.1 p.2 1) && !stays (.half p.1 p.2 2))).length

/-- Pressure relief (R278). A queued demotion counts as the frame that it frees (DESIGN CHOICE, log entry 136). -/
def State.relieve (s : State) (lead need : Nat) : State :=
  let j := jobD s lead
  let pend := pendFrames j + j.demoteQ.length
  let delta := lowWater s lead + need - freeFrames s j - pend
  if delta == 0 then s
  else
    let vs := victims s j
    let cand := if demoteEn s lead then
        (vs.filter (fun v => v.2.2.half == 0 && (v.2.2.fmt == 3 || v.2.2.fmt == 4) && !j.demoteQ.contains (v.1, v.2.1))).take (2 * delta) else []
    let s := s.modJob lead (fun j => { j with demoteQ := j.demoteQ ++ cand.map (fun v => (v.1, v.2.1)) })
    if cand.length == 2 * delta then s
    else dropUntil lead (vs.filter (fun v => !cand.contains v && !j.demoteQ.contains (v.1, v.2.1))) (2 * delta - cand.length) s

/-! Snapshots and the batch table (R159, R272, R273, R297). -/

/-- A snapshot root: a copy of the live root at the step's epoch; chunks of the step in flight are shown in private pages. -/
def State.snapshot (s : State) (lead : Nat) (v : SeqV) (x : Slot) (epoch : Nat) : State :=
  let j := jobD s lead
  let a := rootAddr j x.snap
  let s := s.poke a (peek s v.root 576)
  let s := s.pokeWords (a + 4) [BitVec.ofNat 32 v.len, BitVec.ofNat 32 (v.len / 64), BitVec.ofNat 32 epoch]
  let s := s.poke (a + 16) (zeros 28)
  let pgs := (v.seals.map (fun q => q.1 / 256)).dedup
  let s := pgs.zipIdx.foldl (fun s (g, i) =>
    let q := pageAddr j (x.priv.getD i 0)
    let old := match entAddr (rootAt s v.root) (256 * g) with | some b => peek s b 4096 | none => zeros 4096
    (s.poke q old).pokeWords (a + 64 + 8 * g) (dirWord q)) s
  v.seals.foldl (fun s (k, pc, f) => match entAddr (rootAt s a) k with
    | some b => s.pokeWords b (sealedWords j.cfg.sFmt pc f v.sepoch)
    | none => s) s

def slotWords (s : State) (j : Job) (x : Slot) : List Word :=
  let e := ent s j x.req
  let o := openAddr j x.openBuf
  let r := rootAddr j x.snap
  [BitVec.ofNat 32 x.req, BitVec.ofNat 32 (x.kind + x.row * 65536), BitVec.ofNat 32 x.pos, BitVec.ofNat 32 x.ntok, lo32 r, hi32 r, lo32 o, hi32 o,
   BitVec.ofNat 32 (wfld (wAt e 3) 31 16 + wfld (wAt e 4) 15 0 * 65536), wAt e 18, wAt e 19, BitVec.ofNat 32 (wfld (wAt e 20) 15 0), wAt e 12, wAt e 13, 0#32, 0#32]

def btBufAddr (j : Job) (buf : Nat) : Nat := j.cfg.btBuf + buf * 0x100000

/-- The first word from `w` on that a list lacks. -/
def freshWord (l : List Word) (w : Word) : Word := (((List.range (l.length + 1)).map (fun i => w + BitVec.ofNat 32 i)).find? (fun x => !l.contains x)).getD w

/-- The first `n` seeds of a job's generator: free values of which none repeats (R272). -/
def seedList (formedAt : Nat) : Nat → List Word
  | 0 => []
  | n + 1 => seedList formedAt n ++ [freshWord (seedList formedAt n) (Config.seed n formedAt)]

/-- The seed of the job's formation `n`. -/
def seedOf (formedAt n : Nat) : Word := freshWord (seedList formedAt n) (Config.seed n formedAt)

def State.writeBatch (s : State) (lead : Nat) (r : StepRun) : State :=
  let j := jobD s lead
  let a := btBufAddr j r.buf
  let sl := a + 0x80040
  let seed := seedOf j.formedAt r.seedNo
  let h : List Word := [lo32 r.no, hi32 r.no, BitVec.ofNat 32 r.epoch, BitVec.ofNat 32 (bindOf r.slots 1), BitVec.ofNat 32 (bindOf r.slots 2),
    BitVec.ofNat 32 (bindOf r.slots 3), BitVec.ofNat 32 (bindOf r.slots 4), BitVec.ofNat 32 (bindOf r.slots 5), lo32 sl, hi32 sl, seed, 0#32, 0#32, 0#32, 0#32, 0#32]
  let s := s.pokeWords a h
  let s := r.slots.zipIdx.foldl (fun s (x, i) => s.pokeWords (a + 64 + 64 * i) (slotWords s j x)) s
  let seals := (r.slots.map (fun x => x.seals.map (fun q => (x, q)))).flatten
  seals.zipIdx.foldl (fun s ((x, k, pc, f), i) =>
    let src := openAddr j (x.openBuf + (k - x.pos / 64))
    s.pokeWords (sl + 32 * i) [BitVec.ofNat 32 x.req, BitVec.ofNat 32 k, lo32 src, hi32 src, BitVec.ofNat 32 (pc * 65536 + f), 0#32, 0#32, 0#32]) s

def withRows (xs : List Slot) : List Slot := (xs.foldl (fun (a : List Slot × Nat) x => (a.1 ++ [{ x with row := a.2 }], a.2 + x.ntok)) ([], 0)).1

/-! Losses found outside a step (R372), dealt with at the next formation. -/

/-- What a loss of kind 0 open chunk, 1 block table, 2 token log, 3 request entry, 4 adapter does to a sequence; `m` posts its record. -/
def State.applyLoss (s : State) (lead n kind : Nat) (confirm : Option Nat := none) : State :=
  let e := ent s (jobD s lead) n
  if kind == 3 then
    -- the entry is gone: freed without a response
    (((s.freeSeq lead n).modJob lead (·.void n)).entF lead n 2 2 0 0).baristaEv lead 0x100E
  else if !entActive e then s
  else match kind with
    | 0 =>
      let s := if entLen e % 64 != 0 then s.entF lead n 2 12 12 1 else s
      match s.toRecompute lead n with
      | (some st, s) => s.finalNoTok lead n st 0 0 confirm
      | (none, s) => s.modJob lead (·.void n)
    | 1 =>
      let s := s.dropChunks lead n (List.range (entLen e / 64))
      match s.toRecompute lead n with
      | (some st, s) => s.finalNoTok lead n st 0 0 confirm
      | (none, s) => s.modJob lead (·.void n)
    | 2 => ((s.endCore lead n 5).baristaEv lead 0x3306).finalNoTok lead n 5 0 0 confirm
    | _ => (s.endCore lead n 6).finalNoTok lead n 6 0 0 confirm

def State.applyStruck (s : State) (lead : Nat) : State :=
  let j := jobD s lead
  (j.struck.filter (fun p => !hasSlot j.runs p.1)).foldl (fun s p => s.applyLoss lead p.1 p.2)
    (s.modJob lead (fun j => { j with struck := j.struck.filter (fun p => hasSlot j.runs p.1) }))

/-! STEP_FORMATION. -/

/-- May Barista form a step now: none formed yet, at most one in flight, no withdrawn step still ending, not held; after a withdrawal only once
the older step has ended (R299). -/
def mayForm (s : State) (lead : Nat) : Bool :=
  match job? s lead with
  | none => false
  | some j => j.formed.isNone && decide (j.runs.length ≤ 1) && j.runs.all (fun r => !r.withdrawn && r.trunc.isNone && j.formAfter != some r.no) &&
    !j.debugHold && !j.heldFw && !j.dissolving &&
    j.saved.isNone && !s.fatal && (List.range 16).all (fun p => !j.parts.contains p || pState s p != pSuspending)

/-- Before a step is formed: what was struck is dealt with, and frames are freed for its need (R278, R372). -/
def formRelieved (s : State) (lead : Nat) : State :=
  let s := s.applyStruck lead
  s.relieve lead (buildSlots s lead (jobD s lead) false (readySeqs s (jobD s lead))).need

/-- The slots chosen, and the state with the event of a shortage. -/
def formSlots (s : State) (lead : Nat) : Form × State :=
  let f := buildSlots s lead (jobD s lead) true (readySeqs s (jobD s lead))
  (f, if f.short == 0 then s else s.baristaEv lead 0x3308 true)

/-- The step is formed with program `p` of PROG entry `entry` and slots `xs` (R272, R273). -/
def formWith (s : State) (lead : Nat) (j : Job) (vs : List SeqV) (entry : Nat) (p : Prog) (xs : List Slot) (jt : Job) : State :=
  let xs := withRows xs
  let epoch := (j.epoch + 1) % 2 ^ 32
  let no := j.stepNo
  let r : StepRun := { no := no, epoch := epoch, prog := p.id, entry := entry, buf := no % 2, bt := btBufAddr j (no % 2), slots := xs, ntok := sumTok xs, seedNo := j.seeds, rmax := retryMax s lead }
  let served := (xs.filter (·.kind == 0)).getLast?.map (fun x => entAdmit (ent s j x.req))
  let s := s.modJob lead (fun j => { j with used := jt.used, epoch := epoch, stepNo := no + 1, formAfter := none,
                                            lastServed := served.orElse (fun _ => j.lastServed) })
  let s := xs.foldl (fun s x => match vs.find? (·.n == x.req) with
    | some v => s.snapshot lead v x epoch
    | none => s) s
  let s := s.modJob lead (fun j => { j with formed := some r, seeds := j.seeds + 1 })
  s.writeBatch lead r

/-- No step can be launched for lack of pool space: the ready sequence with the latest ADMIT ends REJECTED_FULL (R277). -/
def State.exhausted (s : State) (lead : Nat) (vs : List SeqV) : State :=
  match vs.getLast? with
  | none => s
  | some v => s.endSeq lead v.n 8 9

/-- What Barista reads of its tables to form a step: the entries and live roots of the job's requests. -/
def State.seesReqs (s : State) (lead : Nat) : State :=
  let j := jobD s lead
  let ns := reqsWhere s j (fun e => entActive e || entState e == 5)
  s.sees ((ns.map (fun n => [(reqAddr j n, 128), (entRoot (ent s j n), 576)])).flatten)

def formStep (s : State) (lead : Nat) : State :=
  let s := s.seesReqs lead
  let s := formRelieved s lead
  let j := jobD s lead
  let vs := readySeqs s j
  let (f, s) := formSlots s lead
  let xs := batchOrder f.slots
  match fitProg (xs.length + 1) f.j xs with
  | none => if xs.isEmpty && j.runs.isEmpty && !vs.isEmpty && f.short == vs.length then s.exhausted lead vs else s
  | some ((entry, p), xs, jt) => formWith s lead j vs entry p xs jt

def execStepFormation (lead : Nat) (s : State) : Host.Outcome State Fault Refusal :=
  .next (if mayForm s lead then touchServ s (formStep s lead) else s)

/-! STEP_LAUNCH (R272, R294, R295). -/

/-- Input tokens of a slot: tokens POS to POS + NTOK - 1 of its log, or 0 when voided (R298). -/
def State.writeInTok (s : State) (lead : Nat) (x : Slot) : State :=
  let j := jobD s lead
  let e := ent s j x.req
  let ts := (List.range x.ntok).map (fun i => if x.voided then 0#32 else tokenAt s (entTlog e) (x.pos + i))
  let s := if x.voided then s else s.seesTokens (entTlog e) x.pos x.ntok
  s.pokeWords (j.cfg.inTok + 4 * x.row) ts

/-- The slots whose input waits for the commit of the step before (R297): continuing decode slots. -/
def Slot.late (x : Slot) : Bool := x.continuing && x.kind == 0

/-- The inputs of a step's slots at launch (R272); at a retry those of the late slots too, once the step before has committed. -/
def State.rewriteInTok (s : State) (lead : Nat) (r : StepRun) : State :=
  let alone := (jobD s lead).runs.all (fun q => q.no == r.no || r.no < q.no)
  (r.slots.filter (fun x => alone || !x.late)).foldl (fun s x => s.writeInTok lead x) s

/-- COMMITFLAG is cleared in the clock of the launch (R295); a set at launch follows one clock later. -/
def Job.clearCommit (j : Job) (clk : Nat) (p : Nat) : Job :=
  { j with changes := insChange ⟨clk, j.cfg.commitFlag, false, some p, false⟩ j.changes }

/-- The TRIGGER of a PROG entry. -/
def trigger (j : Job) (entry : Nat) : Option Word :=
  match j.cfg.progs[entry]? with
  | some q => if q.2.2.2 == 0xFFFFFFFF then none else some (BitVec.ofNat 32 q.2.2.2)
  | none => none

/-- R295: with no step in flight, or with OVERLAP 1 when the TRIGGER of the step in flight has completed. -/
def launchOk (j : Job) : Bool :=
  match j.runs with
  | [] => true
  | [r] => bitN j.cfg.flags 0 && !r.withdrawn && r.trunc.isNone && (match trigger j r.entry, progOf j r.prog with
      | some t, some p => (dRun r (descIdx p t)).stat == .done
      | _, _ => false)
  | _ => false

def mayLaunch (s : State) (lead : Nat) : Bool :=
  match job? s lead with
  | none => false
  | some j => j.formed.isSome && launchOk j && !j.debugHold && !j.heldFw && !j.stopped && j.saved.isNone && !s.fatal && j.parts.all (fun p => pState s p != pSuspending)

def launchStep (s : State) (lead : Nat) : State :=
  let j := jobD s lead
  match j.formed with
  | none => s
  | some r =>
    let alone := j.runs.isEmpty
    let s := r.slots.foldl (fun s x => if x.late then s else s.writeInTok lead x) s
    let clk := s.time.clk
    let s := s.modJob lead (fun j => (j.settle (j.floor (clk - 1))).clearCommit clk lead)
    let s := if alone then s.flagChange lead j.cfg.commitFlag true (some lead) else s
    let s := { s with launches := s.launches + 1 }
    let r := { r with uid := s.launches, launched := true, tlaunch := s.time.now }
    let s := s.modJob lead (fun j => { j with formed := none, runs := j.runs ++ [r] })
    let s := j.parts.foldl (fun s p => if pState s p == pIdle then s.setPState p pRunning else s) s
    s.trace { cls := 1, kind := 0, part := lead, attempt := r.attempt, step := r.no, data := [r.prog.toNat, r.epoch, r.slots.length, r.ntok] }

def execStepLaunch (lead : Nat) (s : State) : Host.Outcome State Fault Refusal :=
  .next (if mayLaunch s lead then touchServ s (launchStep s lead) else s)

end Sys2Proof.Machine
end

