-- ==== Sys2Proof/Machine/Commit.lean ====
section
/-! DEFINITION. The step commit (R287 to R289, R268, R276, R281) with its response records (R264) and Decant messages (R384, R385). -/

namespace Sys2Proof.Machine

/-! Sending Decant messages (R384, R387). -/

def pairRec (j : Job) (o n : Nat) : Nat := leAt j.pair.record o n
def pairConfirm (j : Job) : Bool := bitN (pairRec j 5 1) 0

/-- The header of Table 15.8 with words W8 to W11. -/
def decHeader (s : State) (lead : Nat) (type w8 w9 w10 w11 : Nat) : List Word :=
  let j := jobD s lead
  [0x4B574443#32, BitVec.ofNat 32 (type + 256), BitVec.ofNat 32 ((s.fw.sysIndex.getD 0) % 65536 + lead * 65536), BitVec.ofNat 32 j.pair.seqOut,
   lo32 j.lastEnd, hi32 j.lastEnd, lo32 s.time.now, hi32 s.time.now, BitVec.ofNat 32 w8, BitVec.ofNat 32 w9, BitVec.ofNat 32 w10, BitVec.ofNat 32 w11,
   0#32, 0#32, 0#32, 0#32]

/-- Send bytes of a kept message on the active queue pair of the pair; those of a suspended job wait for its resume (R336). -/
def State.decantOut (s : State) (lead : Nat) (m : DecantOut) : State :=
  let j := jobD s lead
  let q := j.pair.qps.getD j.pair.active 0
  if j.pair.qps.isEmpty || j.saved.isSome || (qpOf s q).st != .rts then s
  else (s.charge lead 1 (ceilDiv m.bytes.length 64)).issue q
    { psn := 0, last := 0, kind := 0, va := 0, rkey := 0, imm := none, len := m.bytes.length, data := m.bytes, d := none, ring := none, seqno := some m.seqno }

/-- Send a message of the pair: it takes the next SEQNO and is kept until acknowledged. -/
def State.decant (s : State) (lead type w8 w9 w10 w11 : Nat) (body : List Byte) (step : Nat) (frame : Option (Nat × Nat)) : State :=
  let m : DecantOut := { seqno := (jobD s lead).pair.seqOut, step := step, frame := frame,
                         bytes := wordsBytes (decHeader s lead type w8 w9 w10 w11) ++ body }
  let s := s.modJob lead (fun j => { j with pair := { j.pair with seqOut := j.pair.seqOut + 1, unacked := j.pair.unacked ++ [m] } })
  s.decantOut lead m

/-- Bytes of a sealed chunk. -/
def chunkBytes (j : Job) : Nat := j.cfg.layers * j.cfg.kvHeads * j.cfg.pair

/-- A published chunk as its CHUNK message carries it: the compressed copy of its staging slot, or the sealed image (R385). -/
def chunkPayload (s : State) (j : Job) (i pc f : Nat) : Bool × List Byte :=
  let st := pairRec j 0x20 8 + i * pairRec j 0x28 4
  let h := peekWords s st 16
  let good := decide (i < pairRec j 0x1C 4) && wAt h 0 == 0x4B574358#32 && nAt h 1 + wfld (wAt h 2) 15 0 * 2 ^ 32 == chunkBytes j
  if good then (false, peek s st (codecDstart (nAt h 3) + nAt h 4)) else (true, peek s (j.cfg.frame pc f) (chunkBytes j))

def State.sendChunk (s : State) (lead req i k pc f step : Nat) : State :=
  let j := jobD s lead
  let (raw, bs) := chunkPayload s j i pc f
  let dig := peek s (j.cfg.digest j.parts pc f 0) (32 * j.cfg.layers)
  s.decant lead 2 req k (j.cfg.sFmt + b2n raw * 256) bs.length (dig ++ bs) step (some (pc, f))

/-- Steps with unacknowledged messages. -/
def unackedSteps (j : Job) : Nat := (j.pair.unacked.map (·.step)).dedup.length

/-- A SYNC message for one sequence: the records that create it, and the ring it names, from nothing (R384). -/
def syncRecs (s : State) (j : Job) (n : Nat) : List Byte :=
  let e := ent s j n
  let toks := (List.range (entNlog e)).map (fun i => tokenAt s (entTlog e) i)
  let pack := u64At (adap s j (wfld (wAt e 3) 31 16)) 0
  let k := entRing e
  let r := ringEnt s j k
  deltaRec 5 0 ([BitVec.ofNat 32 k, lo32 ((getT j.ringC k).getD 0)] ++ r ++ frontWords s r) ++
  deltaRec 1 n [BitVec.ofNat 32 (wfld (wAt e 2) 6 4 + b2n (wbit (wAt e 2) 8) * 256 + b2n (wbit (wAt e 2) 9) * 512), BitVec.ofNat 32 (entRing e), wAt e 0, wAt e 1,
    wAt e 5, wAt e 6, lo32 pack, hi32 pack, wAt e 18, wAt e 19, wAt e 20, wAt e 16, wAt e 17, 0#32] ++
  deltaRec 2 n ([0#32, BitVec.ofNat 32 toks.length] ++ toks) ++ deltaRec 3 n [wAt e 2 &&& 0x0F000407#32, BitVec.ofNat 32 (entLen e)]

/-- SYNC every live sequence, then its sealed chunks (Table 15.7). -/
def State.sendSync (s : State) (lead : Nat) : State :=
  let j := jobD s lead
  let ns := byAdmit s j (reqsWhere s j entActive)
  let s := ns.foldl (fun s n => s.decant lead 4 4 0 0 0 (syncRecs s (jobD s lead) n) j.lastEnd none) s
  let s := ns.foldl (fun s n =>
    let e := ent s j n
    (List.range (entLen e / 64)).foldl (fun s k => match entryAt s (entRoot e) k with
      | some b => if b.st == 1 && b.half == 0 then s.sendChunk lead n (2 ^ 32) k b.pc b.frame j.lastEnd else s
      | none => s) s) s
  s.modJob lead (fun j => { j with pair := { j.pair with synced := true } })

def State.setPair (s : State) (lead : Nat) (st : PairSt) : State :=
  let j := jobD s lead
  if j.pair.st == st then s
  else (s.modJob lead (fun j => { j with pair := { j.pair with st := st } })).raise { code := 0x4022, part := some lead }

/-- The DELTA of a commit and its CHUNK messages (R384); a backlog above 64 steps takes the pair back to SYNCING (R387). -/
def State.sendDelta (s : State) (lead step : Nat) (chunks : List (Nat × Nat × Nat × Nat × Nat)) : State :=
  let j := jobD s lead
  if !pairLive j then s
  else
    let s := s.decant lead 1 j.delta.length chunks.length 0 0 j.delta.flatten step none
    let s := s.modJob lead (fun j => { j with delta := [] })
    let s := chunks.foldl (fun s (req, i, k, pc, f) => s.sendChunk lead req i k pc f step) s
    if 64 < unackedSteps (jobD s lead) then
      let s := s.modJob lead (fun j => { j with pair := { j.pair with unacked := [], synced := false, peerSynced := false } })
      (s.setPair lead .syncing).sendSync lead
    else s

/-! Outcomes (R289). -/

inductive Outc where
  | void
  | cancelled
  | adapter
  | drops (ks : List Nat) (ovf : Bool)
  | nan
  | token (t lp : Word)
  | plain
  deriving DecidableEq, Repr

def samples (e : List Word) (x : Slot) : Bool := x.kind == 0 || ((x.kind == 1 || x.kind == 2) && x.pos + x.ntok == entNprompt e)

def outcome (s : State) (j : Job) (x : Slot) (i : Nat) : Outc :=
  let e := ent s j x.req
  let root := rootAt s (rootAddr j x.snap)
  let t : Word := BitVec.ofNat 32 (peekW s (j.cfg.outTok + 4 * i))
  if x.voided then .void
  else if wbit (wAt e 2) 10 then .cancelled
  else if x.fault3105 then .adapter
  else if wfld (wAt root 4) 7 0 != 0 || wbit (wAt root 4) 8 then .drops (rootDrops root) (wbit (wAt root 4) 8)
  else if samples e x && t == 0xFFFFFFFF#32 then .nan
  else if samples e x then .token t (BitVec.ofNat 32 (peekW s (j.cfg.outTok + 0x8000 + 4 * i)))
  else .plain

/-- The status with which a committed token ends the sequence, if it does: EOS is looked at first. -/
def endsWith (j : Job) (e : List Word) (t : Word) : Option Nat :=
  if !wbit (wAt e 2) 8 && t != 0xFFFFFFFF#32 && j.cfg.eos.contains t then some 1
  else if entNgen e + 1 == entMaxnew e then some 2 else none

def Outc.continues (j : Job) (e : List Word) : Outc → Bool
  | .token t _ => (endsWith j e t).isNone
  | .plain => true
  | _ => false

/-- Publish a slot's seals (R288): entries SEALED with the step's epoch, in pages of the slot's reservation where one is needed. -/
def State.publish (s : State) (lead : Nat) (x : Slot) (epoch : Nat) : State × List Nat :=
  let root := entRoot (ent s (jobD s lead) x.req)
  x.seals.foldl (fun (a : State × List Nat) (k, pc, f) =>
    let (s, pages) := a
    let fmt := (jobD s lead).cfg.sFmt
    match s.editEntry lead root k (sealedWords fmt pc f epoch) pages.head? with
    | some (true, s) => (s.modJob lead (fun j => { j with gens := modT j.gens (pc * 2 ^ 20 + f * 4) 0 (· + 1) }), pages.tail)
    | some (false, s) => (s.modJob lead (fun j => { j with gens := modT j.gens (pc * 2 ^ 20 + f * 4) 0 (· + 1) }), pages)
    | none => (s, pages)) (s, x.pages)

/-- LEN and NCHUNK in the entry and the live root. -/
def State.setLen (s : State) (lead n len : Nat) : State :=
  let root := entRoot (ent s (jobD s lead) n)
  (s.entW lead n 8 (BitVec.ofNat 32 len)).pokeWords (root + 4) [BitVec.ofNat 32 len, BitVec.ofNat 32 (len / 64)]

/-- Buffers of a slot that are full at its end. -/
def fullBufs (x : Slot) : Nat := (x.pos + x.ntok) / 64 - x.pos / 64

/-- What a slot that commits nothing gives back: its frames and fresh buffers under R161. -/
def Job.giveUp (j : Job) (x : Slot) : Job :=
  let j := x.seals.foldl (fun j q => j.free (.frame q.2.1 q.2.2)) j
  if x.fresh then j.freeOpen x.openBuf x.nbuf else j

/-- A record due at the commit. -/
abbrev Due := Nat × Nat × List Word

def tokenResp (s : State) (e : List Word) (n kind status pos : Nat) (t lp : Word) (step : Nat) : Due :=
  (entRing e, n, Resp.words s { client := u64At e 0, kind := kind, status := status, req := n, pos := pos, token := t,
                                logprob := if wbit (wAt e 2) 9 then lp else 0#32, ngen := entNgen e + 1, step := step })

def finalResp (s : State) (lead n status step : Nat) : Due :=
  let e := ent s (jobD s lead) n
  (entRing e, n, Resp.words s { client := u64At e 0, kind := 2, status := status, req := n, pos := noPos s n, ngen := entNgen e, step := step })

/-- A sequence goes to RECOMPUTE at a commit, or ends. -/
def State.commitRecompute (s : State) (lead n : Nat) : State × List Due :=
  match s.toRecompute lead n with
  | (some st, s) => (s, [finalResp s lead n st 0])
  | (none, s) => (s.modJob lead (·.void n), [])

/-- Steps 3 and 4 of R288 for a slot whose outcome is rule 6 or 7. -/
def State.commitSlot (s : State) (lead : Nat) (x : Slot) (epoch : Nat) : State :=
  let p := x.pos + x.ntok
  let n := x.req
  let (s, pages) := s.publish lead x epoch
  let s := s.modJob lead (fun j => pages.foldl (fun j i => j.untake (.page i)) j)
  let e := ent s (jobD s lead) n
  let last := BitVec.ofNat 32 (x.openBuf + x.nbuf - 1)
  let s := s.modJob lead (fun j => (List.range (fullBufs x)).foldl (fun j i => j.free (.openBuf (x.openBuf + i))) j)
  if x.kind == 3 then
    let reach := p == entLen e
    let s := if reach && p % 64 != 0 then
        let s := match entOpen e with | some b => s.modJob lead (·.free (.openBuf b)) | none => s
        s.entW lead n 14 last
      else s
    let s := if reach then s.entF lead n 2 12 12 0 else s
    let e := ent s (jobD s lead) n
    let v := viewOf s (jobD s lead) n
    let st := recomputeDone { v with dropped := droppedOf s e }
    (s.entF lead n 2 2 0 st).deltaState lead n
  else
    let s := (s.setLen lead n p).entW lead n 14 (if p % 64 == 0 then 0xFFFFFFFF#32 else last)
    if x.kind == 0 then s else s.deltaState lead n

def State.commitToken (s : State) (lead : Nat) (x : Slot) (epoch step : Nat) (t lp : Word) : State × List Due :=
  let n := x.req
  let p := x.pos + x.ntok
  let e0 := ent s (jobD s lead) n
  let s := match x.tlpage with
    | some q => if p % 4096 == 0 then s.addTlPage lead (entTlog e0) (p / 4096) q else s.modJob lead (·.untake (.tlpage q))
    | none => s
  let s := s.putTokens (entTlog e0) p [t]
  let s := (s.entW lead n 7 (BitVec.ofNat 32 (entNgen e0 + 1))).entW lead n 9 (BitVec.ofNat 32 (p + 1))
  let s := s.commitSlot lead x epoch
  let s := s.addDelta lead 2 n [BitVec.ofNat 32 p, 1#32, t]
  let s := s.modJob lead (fun j => { j with tokens100 := j.tokens100 + 1 })
  match endsWith (jobD s lead) e0 t with
  | some st =>
    let due := tokenResp s e0 n 2 st p t lp step
    (s.endCore lead n st, [due])
  | none =>
    let s := if entState e0 == 1 then (s.entF lead n 2 2 0 2).deltaState lead n else s
    (s, [tokenResp s e0 n 1 0 p t lp step])

/-- One slot at the commit. -/
def State.settleSlot (s : State) (lead : Nat) (r : StepRun) (x : Slot) (o : Outc) : State × List Due :=
  let n := x.req
  let e := ent s (jobD s lead) n
  let idle (s : State) : State := s.modJob lead (fun j =>
    let j := x.pages.foldl (fun j i => j.untake (.page i)) (j.giveUp x)
    match x.tlpage with | some q => j.untake (.tlpage q) | none => j)
  match o with
  | .void => let s := idle s
             (match x.lost with | some k => s.applyLoss lead n k | none => s, [])
  | .cancelled => let s := (idle s).endCore lead n 3
                  (s, [finalResp s lead n 3 0])
  | .adapter => let s := (idle s).endCore lead n 6
                (s, [finalResp s lead n 6 0])
  | .drops ks ovf =>
    let ks := if ovf then ks ++ (List.range (entLen e / 64)).filter (fun k => decide (ks.foldl min (ks.headD 0) ≤ k)) else ks
    ((idle s).dropChunks lead n ks).commitRecompute lead n
  | .nan =>
    let s := (idle s).dropChunks lead n (List.range (entLen e / 64))
    let s := if entLen e % 64 != 0 then s.entF lead n 2 12 12 1 else s
    s.commitRecompute lead n
  | .token t lp => s.commitToken lead x r.epoch r.no t lp
  | .plain =>
    let s := match x.tlpage with | some q => s.modJob lead (·.untake (.tlpage q)) | none => s
    (s.commitSlot lead x r.epoch, [])

/-- Snapshot root and private pages of a slot go back under R161. -/
def Job.freeSnap (j : Job) (x : Slot) : Job := x.priv.foldl (fun j i => j.free (.page i)) (j.free (.root x.snap))

/-- Does step N commit the sequence's slot as the continuation that step N + 1 assumed (R297, R298)? -/
def goesOn (s : State) (j : Job) (outs : List (Slot × Outc)) (x : Slot) : Bool :=
  !x.voided && outs.all (fun o => o.1.req != x.req || o.2.continues j (ent s j x.req))

/-- INTOK at the commit of step N: the inputs of step N + 1's continuing decode slots, and token 0 in every row of a slot that N's commit voids
once its inputs have been written (R295, R297, R298). -/
def State.nextInTok (s : State) (lead : Nat) (r : StepRun) (outs : List (Slot × Outc)) : State :=
  let j := jobD s lead
  let next := (j.runs.filter (fun q => q.no == r.no + 1 && !q.withdrawn)).head?.orElse (fun _ => j.formed)
  match next with
  | none => s
  | some q => q.slots.foldl (fun s x =>
      if !goesOn s j outs x then
        if x.late || q.launched then s.pokeWords (j.cfg.inTok + 4 * x.row) (List.replicate x.ntok 0#32) else s
      else if x.late then
        let e := ent s j x.req
        let t := match outs.find? (fun o => o.1.req == x.req) with
          | some (_, .token t _) => t
          -- a recompute slot continues with a token that its log already holds
          | _ => tokenAt s (entTlog e) x.pos
        s.pokeWords (j.cfg.inTok + 4 * x.row) [t]
      else s) s

/-- A job with no step in flight is IDLE again, or in the debug hold that was asked for (R95). -/
def State.idleIfDone (s : State) (lead : Nat) : State :=
  let j := jobD s lead
  if !j.runs.isEmpty then s
  else if j.debugHold then
    j.parts.foldl (fun s p => if pState s p == pRunning || pState s p == pIdle then s.setPState p pDebug else s) (s.setRegF .prt lead 0x008 11 8 0)
  else j.parts.foldl (fun s p => if pState s p == pRunning then s.setPState p pIdle else s) s

/-- Is step N at its commit point (R287)? -/
def commitReady (s : State) (lead : Nat) : Option StepRun :=
  match job? s lead with
  | none => none
  | some j =>
    match j.runs.head? with
    | none => none
    | some r =>
      let done := match progOf j r.prog with
        | some p => (dRun r (p.descs.length - 1)).stat == .done
        | none => false
      let clear := j.parts.all (fun p => pState s p != pPaused && !(part s p).faults.any (fun f => f.d.lead == lead && f.d.step == r.no))
      if done && clear && r.launched && !r.withdrawn && r.trunc.isNone && j.saved.isNone && !s.fatal &&
         j.parts.all (fun p => pState s p != pSuspending) then some r else none

/-- What Barista reads to decide the outcomes of a step's slots (R289): entries, snapshot roots, OUTTOK and the log-probabilities. -/
def State.seesSlots (s : State) (lead : Nat) (r : StepRun) : State :=
  let j := jobD s lead
  s.sees ((r.slots.zipIdx.map (fun (x, i) => [(reqAddr j x.req, 128), (rootAddr j x.snap, 64)] ++
    (if samples (ent s j x.req) x then [(j.cfg.outTok + 4 * i, 4)] ++ (if wbit (wAt (ent s j x.req) 2) 9 then [(j.cfg.outTok + 0x8000 + 4 * i, 4)] else [])
     else []))).flatten)

def commitStep (s : State) (lead : Nat) (r : StepRun) : State :=
  let s := s.seesSlots lead r
  let j := jobD s lead
  let outs := r.slots.zipIdx.map (fun (x, i) => (x, outcome s j x i))
  -- 1
  let s := s.nextInTok lead r outs
  let s := s.flagChange lead j.cfg.commitFlag true (some lead)
  -- 2 to 4
  let (s, due) := outs.foldl (fun (a : State × List Due) (x, o) => let (s, d) := a.1.settleSlot lead r x o; (s, a.2 ++ d)) (s, [])
  -- 5
  let s := s.modJob lead (fun j => { r.slots.foldl Job.freeSnap j with
    runs := j.runs.filter (·.no != r.no), failRun := 0, lastEnd := r.no })
  let s := s.applyStruck lead
  -- 6
  let s := s.stepRec lead (jobD s lead) r 1
  let s := s.idleIfDone lead
  let s := s.trace { cls := 1, kind := 1, part := lead, attempt := r.attempt, step := r.no, data := [r.prog.toNat, r.epoch, r.slots.length, r.ntok] }
  -- 7
  let jn := jobD s lead
  let confirm := if pairLive jn && pairConfirm jn then some jn.pair.seqOut else none
  let s := due.foldl (fun s d => s.post lead d.1 d.2.1 d.2.2 confirm) s
  -- 8
  let seals := ((outs.map (fun (x, o) => x.seals.map (fun q => (x, o, q)))).flatten).zipIdx
  let chunks := seals.filterMap (fun ((x, o, k, pc, f), i) => match o with
    | .token _ _ => some (x.req, i, k, pc, f)
    | .plain => some (x.req, i, k, pc, f)
    | _ => none)
  s.sendDelta lead r.no chunks

/-! Demotion (R279). -/

/-- A half frame for a demoted chunk: the lowest on the list, else the lower half of a free frame of the chunk's homes. -/
def pickHalf (s : State) (j : Job) (home k : Nat) : Option (Nat × Nat × Nat) :=
  let lone := (List.range j.cfg.nFrame).findSome? (fun f => (jobPcs j.parts).findSome? (fun pc =>
    let a := taken j (.half pc f 1)
    let b := taken j (.half pc f 2)
    if (cunit s pc).disabled || a == b then none else some (pc, f, if a then 2 else 1)))
  match lone with
  | some x => some x
  | none => (pickFrame s j home k).map (fun (pc, f) => (pc, f, 1))

/-- The 64 lanes of a row converted to MXFP4 in two blocks of 32 under R46: row bytes and its two scales. -/
def demoteRow (bs : List Byte) (fmt : Nat) : List Byte × List Byte :=
  let w := fmtBits fmt / 8
  let vs := (List.range 64).map (fun l => decodeElem fmt (leAt bs (w * l) w))
  let (s0, e0, _) := mxBlock 8 0 (fun _ => 0) (vs.take 32)
  let (s1, e1, _) := mxBlock 8 0 (fun _ => 0) (vs.drop 32)
  let es := e0 ++ e1
  ((List.range 32).map (fun i => BitVec.ofNat 8 (es.getD (2 * i) 0 + 16 * es.getD (2 * i + 1) 0)), [BitVec.ofNat 8 s0, BitVec.ofNat 8 s1])

/-- A head-tile pair in the demoted layout (Table 07.3). -/
def demotePair (j : Job) (bs : List Byte) (fmt : Nat) : List Byte :=
  let w := fmtBits fmt / 8
  let rows := (List.range (2 * j.cfg.hDim)).map (fun r => demoteRow ((bs.drop (64 * w * r)).take (64 * w)) fmt)
  (rows.map Prod.fst).flatten ++ (rows.map Prod.snd).flatten

/-- The demoted tiles of a chunk and their digest record (R150, R279). -/
def demoteTiles (s : State) (lead : Nat) (b : BEnt) (pc f h : Nat) : State :=
  let j := jobD s lead
  let src := j.cfg.frame b.pc b.frame
  let dst := j.cfg.chunkBase pc f h
  let x := if h == 2 then 1 else 0
  (List.range j.cfg.layers).foldl (fun s l =>
    let lay := ((List.range j.cfg.kvHeads).map (fun q => demotePair j (peek s (src + (l * j.cfg.kvHeads + q) * j.cfg.pair) j.cfg.pair) b.fmt)).flatten
    let s := s.poke (dst + l * j.cfg.kvHeads * j.cfg.dpair) lay
    s.poke (j.cfg.digest j.parts pc f x + 32 * l) (sha3 lay)) s

/-- The live entry of a demoted chunk. -/
def demoteEnt (s : State) (e : List Word) (k pc f h : Nat) : List Word :=
  let a := (entAddr (rootAt s (entRoot e)) k).getD 0
  let old := peekWords s a 4
  [BitVec.ofNat 32 (h * 2 ^ 28 + pc * 65536 + f), BitVec.ofNat 32 (8 * 256 + 1), wAt old 2, wAt old 3]

/-- Demote the first queued chunk: tiles, digest record, live entry, old frame freed. -/
def demoteStep (s : State) (lead : Nat) : State :=
  let j := jobD s lead
  match j.demoteQ with
  | [] => s
  | (n, k) :: rest =>
    let drop (s : State) : State := s.modJob lead (fun j => { j with demoteQ := rest })
    let e := ent s j n
    match entryAt s (entRoot e) k with
    | none => drop s
    | some b =>
      if b.st != 1 || b.half != 0 || !(entActive e || entState e == 5) || entLen e / 64 ≤ k then drop s
      -- fewer than 16 of the kept pages: it waits (R277)
      else if freeOf j j.cfg.nPage .page < 16 then s
      else match pickHalf s j (nAt e 15) k with
        | none => s
        | some (pc, f, h) =>
          match (demoteTiles s lead b pc f h).editPool lead (entRoot e) k (demoteEnt s e k pc f h) 0 with
          | none => s
          | some s => drop (s.modJob lead (fun j =>
              let j := (j.take (.half pc f h)).free (.frame b.pc b.frame)
              { j with gens := modT (modT j.gens (pc * 2 ^ 20 + f * 4 + h) 0 (· + 1)) (b.pc * 2 ^ 20 + b.frame * 4) 0 (· + 1) }))

def execDemotion (lead : Nat) (s : State) : Host.Outcome State Fault Refusal :=
  .next (match job? s lead with
    | none => s
    | some j => if j.debugHold || j.saved.isSome || s.fatal then s else touchServ s (demoteStep s lead))

end Sys2Proof.Machine
end

