-- ==== Sys2Proof/Machine/Steps.lean ====
section
/-! DEFINITION. Steps that do not commit: the stop (R334), withdrawal (R299), retry (R291) and failure (R292, R293), the resolution of faults
(R332, R333, Table 13.3), what follows the end of a step in a job that is held or dissolving (R95, R325), and the completion of
descriptors and steps. -/

namespace Sys2Proof.Machine

/-! The stop (R334). -/

/-- Pending faults of a partition that meet a test are resolved: they leave the list, with a trace record each. -/
def State.clearFaults (s : State) (p action : Nat) (f : PFault → Bool) : State :=
  let gone := (part s p).faults.filter f
  if gone.isEmpty then s
  else
    let s := s.modPart p (fun q => { q with faults := q.faults.filter (fun x => !f x) })
    let s := s.setRegF .prt p 0x004 31 16 (min (part s p).faults.length 65535)
    let rec_ (s : State) (x : PFault) : TraceRec :=
      { cls := 5, kind := 1, part := p, core := wfld (wAt x.words 2) 15 12, engine := wfld (wAt x.words 2) 11 8, attempt := attemptOf s x.d,
        id := wAt x.words 1, step := nAt x.words 3, data := [x.code, action, x.pos.getD 0xFFFF] }
    gone.foldl (fun s x => s.trace (rec_ s x)) s

/-- A partition with no pending fault leaves PAUSED (R332), unless its job is stopped by a digest fault (R378). -/
def State.unpause (s : State) (p : Nat) : State :=
  match jobOf s p with
  | none => s
  | some j =>
    if pState s p == pPaused && (part s p).faults.isEmpty && !j.stopped then
      s.setPState p (if j.runs.isEmpty then (if j.debugHold then pDebug else pIdle) else pRunning)
    else s

/-- R334: nothing is saved; entries holding the step's writes are flushed; its faults are no longer pending. A descriptor whose fault was
pending ends with STATUS FAULT (R76). The step starts nothing more; the stop ends once every packet sent is acknowledged or has timed out. -/
def State.stopStep (s : State) (lead no action : Nat) : State :=
  let mine := ofRun lead no
  match (job? s lead).bind (fun j => (runOf j no).bind (fun r => (progOf j r.prog).map (fun p => (j, r, p)))) with
  | none => s
  | some (j, r, p) =>
    let pending (i : Nat) : Bool := j.parts.any (fun q => (part s q).faults.any (fun f => f.d == ⟨lead, no, i⟩))
    let s := (List.range p.descs.length).foldl (fun s i =>
      if pending i && (dRun r i).stat != .timedOut then s.complRec j r p i 3 else s) s
    let s := (s.letGo lead no).modRun lead no (fun r => { r with stopping := some (max action (r.stopping.getD 0)) })
    let s := j.parts.foldl (fun s q => s.clearFaults q action (fun f => mine f.d)) s
    j.parts.foldl (fun s q => s.unpause q) s

/-- Packets of a step's descriptors that are sent and not acknowledged. -/
def runAwaits (s : State) (lead no : Nat) : Bool := (outMsgs s).any (fun p => match p.2.d with | some d => ofRun lead no d | none => false)

/-! Withdrawal (R299). -/

/-- What a formed or withdrawn step leaves of a slot's reservations that nothing ever saw. -/
def Job.dropPages (j : Job) (x : Slot) : Job :=
  let j := x.pages.foldl (fun j i => j.untake (.page i)) j
  match x.tlpage with | some q => j.untake (.tlpage q) | none => j

/-- A withdrawn step ends: nothing committed, no step record; its resources return under R161. -/
def State.endWithdrawn (s : State) (lead no : Nat) : State :=
  match (job? s lead).bind (runOf · no) with
  | none => s
  | some r => (s.modJob lead (fun j =>
      let j := r.slots.foldl (fun j x => ((j.giveUp x).freeSnap x).dropPages x) j
      { j with runs := j.runs.filter (·.no != no) })).idleIfDone lead

def inProgress (r : StepRun) : Bool := r.runs.any (fun (_, d) => d.stat.executing || d.stat == .timedOut)

/-- A step formed but not launched is withdrawn: its number is given to the next step formed, once the older step has committed or failed. -/
def State.withdrawFormed (s : State) (lead : Nat) : State :=
  match (jobD s lead).formed with
  | some r =>
    let s := s.modJob lead (fun j => { r.slots.foldl unreserve j with
      formed := none, stepNo := r.no, formAfter := (j.runs.find? (fun q => !q.withdrawn)).map (·.no) })
    s.trace { cls := 1, kind := 4, part := lead, step := r.no, data := [r.prog.toNat, r.epoch, r.slots.length, r.ntok] }
  | none => s

/-- The step after `no`, formed or in flight, is withdrawn. -/
def State.withdrawNext (s : State) (lead no : Nat) : State :=
  let j := jobD s lead
  let s := match j.formed with
    | some r => if no < r.no then s.withdrawFormed lead else s
    | none => s
  (j.runs.filter (fun r => no < r.no && !r.withdrawn && r.trunc.isNone)).foldl (fun s r =>
    let s := s.modJob lead (fun j => { j.modRun r.no (fun r => { r with withdrawn := true }) with stepNo := r.no, formAfter := some no })
    let s := s.trace { cls := 1, kind := 4, part := lead, attempt := r.attempt, step := r.no, data := [r.prog.toNat, r.epoch, r.slots.length, r.ntok] }
    if inProgress r then s else s.endWithdrawn lead r.no) s

/-! Failure (R292, R293). -/

/-- Batch values to cap: those above a declared extent in the descriptors whose 0x3102 is pending, each at the smallest extent bound to it (R293). -/
def capsOf (s : State) (j : Job) (r : StepRun) (p : Prog) (lead : Nat) : List (Nat × Nat) :=
  let hit := (j.parts.map (fun q => (part s q).faults.filter (fun f => f.code == 0x3102 && ofRun lead r.no f.d))).flatten
  let srcs := (hit.map (·.bound)).flatten.dedup
  srcs.map (fun b =>
    let ms := (p.tens.filter (fun w => TV.bsrc w == b)).map (fun w => (TV.dims w).getD (TV.bdim w) 0)
    (b, ms.foldl min (ms.headD 0)))

def Prog.cap (p : Prog) (cs : List (Nat × Nat)) : Prog := { p with caps := p.caps ++ cs.filter (fun c => !p.caps.contains c) }

/-- A held job that is paired: DEPART HELD is sent, and its sequences end with no record (R391). -/
def State.departHeld (s : State) (lead : Nat) : State :=
  if !pairLive (jobD s lead) then s
  else
    let s := s.decant lead 5 4 0 0 0 [] (jobD s lead).lastEnd none
    (reqsWhere s (jobD s lead) entActive).foldl (fun s n => s.endCore lead n 3) s

/-- The job is held until device firmware releases it (R292). -/
def State.holdJob (s : State) (lead : Nat) : State :=
  if (jobD s lead).heldFw then s
  else ((s.modJob lead (fun j => { j with heldFw := true })).baristaEv lead 0x3305).departHeld lead

/-- Sequences whose cancel was recorded and that no step holds any more end CANCELLED. -/
def State.endCancelled (s : State) (lead : Nat) : State :=
  let j := jobD s lead
  (byAdmit s j (reqsWhere s j (fun e => entActive e && wbit (wAt e 2) 10))).foldl (fun s n =>
    if hasSlot (jobD s lead).runs n then s else s.endSeq lead n 3) s

/-- Losses of voided slots take effect without their step's commit. -/
def lossesOf (r : StepRun) : List (Nat × Nat) := r.slots.filterMap (fun x => if x.voided then x.lost.map (fun k => (x.req, k)) else none)

/-- The failure once the stop is complete (R292): caps of R293, the step record, resources returned, event 0x3304, the hold after four. -/
def State.failEnd (s : State) (lead no : Nat) : State :=
  match (job? s lead).bind (fun j => (runOf j no).map (fun r => (j, r))) with
  | none => s
  | some (j, r) =>
    let s := s.modJob lead (fun j =>
      let j := r.slots.foldl (fun j x => ((j.giveUp x).freeSnap x).dropPages x) j
      { j with runs := j.runs.filter (·.no != no), failRun := j.failRun + 1, struck := j.struck ++ lossesOf r,
               formAfter := if j.formAfter == some no then none else j.formAfter })
    let s := s.stepRec lead (jobD s lead) r 2
    let s := s.baristaEv lead 0x3304
    let s := s.trace { cls := 1, kind := 2, part := lead, attempt := r.attempt, step := r.no, data := [r.prog.toNat, r.epoch, r.slots.length, r.ntok] }
    let s := s.endCancelled lead
    let s := s.applyStruck lead
    let s := if 4 ≤ (jobD s lead).failRun then s.holdJob lead else s
    let s := s.idleIfDone lead
    j.parts.foldl (fun s q => s.unpause q) s

/-! Retry (R291). -/

/-- W4 to W10 of a snapshot root are cleared. -/
def State.clearDrops (s : State) (lead : Nat) (x : Slot) : State := s.poke (rootAddr (jobD s lead) x.snap + 16) (zeros 28)

/-- The relaunch once the stop is complete (R291): the same batch table, epoch and step number, event 0x3303. -/
def State.relaunch (s : State) (lead no : Nat) : State :=
  match (job? s lead).bind (fun j => (runOf j no).map (fun r => (j, r))) with
  | none => s
  | some (j, r) =>
    let s := r.slots.foldl (fun s x => s.clearDrops lead x) s
    let alone := j.runs.all (fun q => q.no == no || no < q.no)
    let clk := s.time.clk
    let s := s.modJob lead (fun j => (j.settle (j.floor (clk - 1))).clearCommit clk lead)
    let s := if alone then s.flagChange lead j.cfg.commitFlag true (some lead) else s
    let s := s.rewriteInTok lead r
    let s := { s with launches := s.launches + 1 }
    let s := s.modRun lead no (fun r =>
      { r with uid := s.launches, attempt := r.attempt + 1, stopping := none, runs := [], flags := [], changes := [], ndone := 0, tlaunch := s.time.now,
               slots := r.slots.map (fun x => { x with fault3105 := false }) })
    let s := s.baristaEv lead 0x3303
    let s := s.trace { cls := 1, kind := 3, part := lead, attempt := r.attempt + 1, step := r.no, data := [r.prog.toNat, r.epoch, r.slots.length, r.ntok] }
    j.parts.foldl (fun s q => s.unpause q) s

/-- Barista goes on with a step whose stop is complete: it is relaunched, failed, or, withdrawn, ends (R334). -/
def State.stopDone (s : State) (lead no : Nat) : State :=
  match (job? s lead).bind (runOf · no) with
  | none => s
  | some r => match r.stopping with
    | none => s
    | some a =>
      if runAwaits s lead no then s
      else if r.withdrawn then s.endWithdrawn lead no
      else if a == 1 then s.relaunch lead no else s.failEnd lead no

/-- Step `no` fails (R292, R293). -/
def State.failStep (s : State) (lead no : Nat) : State :=
  match (job? s lead).bind (fun j => (runOf j no).bind (fun r => (progOf j r.prog).map (fun p => (j, r, p)))) with
  | none => s
  | some (j, r, p) =>
    let caps := capsOf s j r p lead
    let s := if r.withdrawn then s else s.withdrawNext lead no
    let s := s.modJob lead (fun j => { j with progs := j.progs.map (fun q => if q.id == p.id then q.cap caps else q) })
    (s.stopStep lead no 2).stopDone lead no

/-- Step `no` is retried, at most RETRYMAX times (R291). -/
def State.retryStep (s : State) (lead no : Nat) : State :=
  match (job? s lead).bind (runOf · no) with
  | none => s
  | some r =>
    if r.withdrawn then (s.stopStep lead no 1).stopDone lead no
    else if r.rmax ≤ r.attempt then s.failStep lead no
    else ((s.withdrawNext lead no).stopStep lead no 1).stopDone lead no

/-! The end of a step in a job that dissolves (R325). -/

/-- Records that waited for a partner's acknowledgement go to the wire: the partner is gone (R385). -/
def State.releaseConfirm (s : State) (lead : Nat) : State :=
  let due := (jobD s lead).confirm
  due.foldl (fun s (_, h) => s.respond lead h.ring h.req h.words) (s.modJob lead (fun j => { j with confirm := [] }))

/-- The pair of a job ends: DEPART with a reason, shadows freed, UNPAIRED (Table 15.7). -/
def State.unpairJob (s : State) (lead reason : Nat) : State :=
  let j := jobD s lead
  if j.pair.st == .unpaired then s
  else
    let s := s.decant lead 5 reason 0 0 0 [] j.lastEnd none
    let sh := reqsWhere s j (fun e => entState e == 5)
    let s := sh.foldl (fun s n => (s.freeSeq lead n).entF lead n 2 2 0 4) s
    let s := s.releaseConfirm lead
    let s := s.setPair lead .unpaired
    s.modJob lead (fun j => { j with delta := [], pair := { j.pair with unacked := [], rings := [], map := [], shadow := [], synced := false, peerSynced := false } })

/-- Programs unloaded, partitions FREE and asleep, the job gone. -/
def State.dissolved (s : State) (lead : Nat) : State :=
  let j := jobD s lead
  let s := (s.releaseConfirm lead).unpairJob lead 2
  let s := { s with jobs := delT s.jobs lead }
  let s := j.parts.foldl (fun s p =>
    let s := s.clearFaults p 2 (fun _ => true)
    let s := s.modPart p (fun q => { q with lead := none, asleep := true, freeSince := s.time.mono, encoder := none })
    (s.setRegF .prt p 0x000 20 16 0).setPState p pFree) s
  s.setRegF .prt lead 0x008 11 8 0

/-- Step 3 of R325 once no step is in flight: requests end CANCELLED with their records; with no record held, the job is dissolved. -/
def State.dissolveGo (s : State) (lead : Nat) : State :=
  match job? s lead with
  | none => s
  | some j =>
    if !j.dissolving || !j.runs.isEmpty then s
    else
      let s := (byAdmit s j (reqsWhere s j entActive)).foldl (fun s n => s.endSeq lead n 3) s
      let s := if j.dissolveAt == 0 then s.modJob lead (fun j => { j with dissolveAt := s.time.mono + 1 }) else s
      if (jobD s lead).held.isEmpty then s.dissolved lead else s

/-! Suspension waits for the acknowledgements of packets already sent (R335). -/

/-- A message of a descriptor, a response ring, a delta or a refetch: any but a heartbeat, which a suspension does not stop (R336). -/
def OutMsg.transfer (m : OutMsg) : Bool := m.d.isSome || m.ring.isSome || m.seqno.isSome || m.fetch.isSome || m.kind != 0

/-- Does the job wait for acknowledgements of packets already sent, or for the stop of a step (R338)? -/
def jobAwaits (s : State) (lead : Nat) : Bool :=
  s.net.qps.any (fun (_, x) => x.job == lead && x.unacked.any OutMsg.transfer) || (jobD s lead).runs.any (·.stopping.isSome)

/-! COMMIT, HELD_RECORD_WRITE, DESCRIPTOR_COMPLETE, TRACE_DRAIN. -/

def execCommit (lead : Nat) (s : State) : Host.Outcome State Fault Refusal :=
  .next (match commitReady s lead with
    | none => s
    | some r => touchServ s ((commitStep s lead r).dissolveGo lead))

/-- Nothing is sent while the job is suspended (R336). -/
def execHeldRecordWrite (lead ring : Nat) (s : State) : Host.Outcome State Fault Refusal :=
  .next (match job? s lead with
    | none => s
    | some j => if j.saved.isSome || s.fatal then s else touchServ s ((heldWrite s lead ring).dissolveGo lead))

/-- A record still held after PRT_CFG.HOLD µs is discarded and counted (R263, R325). -/
def dropHeld (s : State) (lead : Nat) : State :=
  let j := jobD s lead
  j.held.foldl (fun s h => (s.modJob lead (fun j => { j with held := j.held.erase h })).bump .dbg lead 0x14C) s

/-- PRT_CFG.HOLD of a partition in ns. -/
def holdNs (s : State) (p : Nat) : Nat := 1000 * regF s .prt p 0x060 31 16

def execDissolveHoldExpiry (lead : Nat) (s : State) : Host.Outcome State Fault Refusal :=
  .next (match job? s lead with
    | none => s
    | some j =>
      if j.dissolving && j.dissolveAt != 0 && j.dissolveAt - 1 + holdNs s lead ≤ s.time.mono then touchServ s ((dropHeld s lead).dissolveGo lead) else s)

/-- The last instance of a descriptor has finished; a withdrawn step ends with the last descriptor it had started (R299). -/
def completeStep (s : State) (d : DescRef) : State :=
  match named s d with
  | none => s
  | some (_, r, c) =>
    if (dRun r d.idx).stat == .ran && r.stopping.isNone && mayGoOn s c.part r d.idx then
      let s1 := s.descDone c
      let s1 := if c.trunc.isSome && c.opcode == 0x3F then s1.endTrunc c.d.lead c.d.step else s1
      touchDesc s (match (job? s1 d.lead).bind (runOf · r.no) with
        | some q => if q.withdrawn && !inProgress q then (s1.endWithdrawn d.lead r.no).dissolveGo d.lead else s1
        | none => s1)
    else s

def execDescriptorComplete (d : DescRef) (s : State) : Host.Outcome State Fault Refusal := .next (completeStep s d)

/-! Resolution of faults (R332, R333, R338). -/

def pendingFault (s : State) (p slot : Nat) (last : Bool) : Option PFault :=
  if last then (part s p).faults.find? (·.inLast) else (part s p).faults.find? (fun f => f.pos == some slot)

/-- The instance continues from its cursor. -/
def State.resumeFault (s : State) (p : Nat) (f : PFault) : State :=
  let s := s.clearFaults p 0 (· == f)
  let s := s.modD f.d (fun x => { x with stat := .resumed,
                                         left := some (((x.left.getD []) ++ [(f.inst, f.cursor)]).mergeSort (fun a b => decide (a.1 ≤ b.1))) })
  s.unpause p

/-- The digest fault of R378 has the step number of no step. -/
def digestTag (lead : Nat) : DTag := ⟨lead, 2 ^ 64, 0⟩

/-- Resolution of a digest fault: RETRY when the block agrees again (the oldest step in flight is retried, or the pause ends), FAIL when it does
not: the job is held and event 0x100E raised. A truncated run is no step of the job here (R98): the fault has ended it. -/
def State.digestResolve (s : State) (p lead : Nat) (f : PFault) (retry : Bool) : State :=
  let s := s.clearFaults p (if retry then 1 else 2) (· == f)
  let j := jobD s lead
  let s := if j.parts.any (fun q => (part s q).faults.any (fun g => g.d == digestTag lead)) then s
    else s.modJob lead (fun j => { j with stopped := false })
  let s := match (jobD s lead).runs.find? (fun r => !r.withdrawn && r.trunc.isNone) with
    | some r => if retry then s.retryStep lead r.no else s.failStep lead r.no
    | none => s
  let s := if retry then s else (s.holdJob lead).raise { code := 0x100E, part := some lead, detail := [f.addr % 2 ^ 32, f.addr / 2 ^ 32] }
  (jobD s lead).parts.foldl (fun s q => s.unpause q) s

/-- Apply an action (0 RESUME, 1 RETRY, 2 FAIL) to a pending fault: a RESUME of a record that is not resumable is a FAIL. -/
def State.resolve (s : State) (p : Nat) (f : PFault) (action : Nat) : State :=
  if f.code == 0x1003 && f.d == digestTag f.d.lead then s.digestResolve p f.d.lead f (action == 1)
  else
    let s := match action with
      | 0 => if f.resumable then s.resumeFault p f else s.failStep f.d.lead f.d.step
      | 1 => s.retryStep f.d.lead f.d.step
      | _ => s.failStep f.d.lead f.d.step
    s.dissolveGo f.d.lead

/-- The actions that resolve a fault: FAIL for 0x1001 and 0x3102, RETRY for 0x3101 (R293, R313, Table 13.3), RESUME or FAIL for 0x3103, 0x5001 and
0x4001 (R352), RETRY or FAIL for the others (Table 15.3, R374, R378; log entry 148). -/
def actionsFor (code : Nat) : List Nat :=
  if code == 0x1001 || code == 0x3102 then [2]
  else if code == 0x3101 then [1]
  else if code == 0x3103 || code == 0x5001 || code == 0x4001 then [0, 2]
  else [1, 2]

/-- May a class write an action for a fault (R332, Table 13.3)? Host software resolves 0x3103 and 0x5001, device firmware the others too. A RESUME
of a record that is not resumable is a FAIL. -/
def mayResolve (c : RClass) (f : PFault) (action : Nat) : Bool :=
  (actionsFor f.code).contains (if action == 0 && !f.resumable then 2 else action) &&
  match c with
  | .fw => true
  | .jtag => true
  | _ => f.code == 0x3103 || f.code == 0x5001

def suspending (s : State) (p : Nat) : Bool := pState s p == pSuspending || pState s p == pSuspended

/-- A write of PRT_FAULTCTL with GO. -/
def faultCtl (s : State) (c : RClass) (p slot action : Nat) (last : Bool) : State :=
  let s := s.setRegF .prt p 0x0D4 18 0 (b2n last * 2 ^ 18 + action * 2 ^ 16 + slot % 65536)
  match pendingFault s p slot last with
  | none => s.markRC .prt p 0x0D4 19
  | some f =>
    if !mayResolve c f action then s
    else if suspending s p then
      s.modJob f.d.lead (fun j => { j with pendingRes := j.pendingRes ++ [(p, f, action)] })
    else s.resolve p f action

/-- PRT_FAULTCTL is reached by every class but the unauthenticated BMC, and by VF p + 1 for its own partition only; not in recovery (R400). -/
def reaches (s : State) (c : RClass) (p : Nat) : Bool :=
  !s.pin.stopped && !inRecovery s &&
  match c with
  | .bmcU => false
  | .vf q => q == p && vfUp s p
  | .pf => decide (p < 16) && !s.pcie.perstLow
  | _ => decide (p < 16)

def execFaultResume (cls : RClass) (p slot : Nat) (last : Bool) (s : State) : Host.Outcome State Fault Refusal :=
  .next (if reaches s cls p then touchServ s (faultCtl s cls p slot 0 last) else s)
def execRetry (cls : RClass) (p slot : Nat) (last : Bool) (s : State) : Host.Outcome State Fault Refusal :=
  .next (if reaches s cls p then touchServ s (faultCtl s cls p slot 1 last) else s)
def execFail (cls : RClass) (p slot : Nat) (last : Bool) (s : State) : Host.Outcome State Fault Refusal :=
  .next (if reaches s cls p then touchServ s (faultCtl s cls p slot 2 last) else s)

/-- A fault that host software may resolve, or a queue pair's (R352), still pending after HOLD µs is resolved FAIL (R332). -/
def execFaultHoldExpiry (p k : Nat) (s : State) : Host.Outcome State Fault Refusal :=
  .next (match (part s p).faults[k]? with
    | none => s
    | some f =>
      if (f.code == 0x3103 || f.code == 0x5001 || f.code == 0x4001) && decide (f.since + holdNs s p ≤ s.time.mono) && !suspending s p
      then touchServ s (s.resolve p f 2) else s)

end Sys2Proof.Machine
end

