-- ==== Sys2Proof/Machine/Issue.lean ====
section
/-! DEFINITION. Issuing a descriptor: its instances run to their ends, to faults or to waits (R64, R70, R72, R75), and fault 0x3102 fails the
step (R293). -/

namespace Sys2Proof.Machine

/-- Fault 0x3102 of a descriptor fails its step, without retry and without a command (R293); a truncated run has ended already (R97). -/
def State.failBound (s : State) (c : Cx) : State := if c.trunc.isNone then (s.failStep c.d.lead c.d.step).dissolveGo c.d.lead else s

/-- Start or continue a descriptor: tensor slots whose bound extents matter, work units per instance, the work of one unit. -/
def runOp (s : State) (c : Cx) (slots : List Nat) (count : Cx → Nat) (body : Cx → Nat → M PUnit) (seq : Bool := false) : State :=
  let dr := dRunOf s c.d
  let first := dr.stat == .waiting
  let s := if first then s.noteStart c else s
  let above := c.tooBig slots
  if !above.isEmpty then
    ((s.modD c.d (fun x => { x with stat := .faulted })).descFault c 0 { code := 0x3102, resumable := false, bound := above }).failBound c
  else if c.skipped slots then s.modD c.d (fun x => { x with stat := .ran, status := 1 })
  else
    let todo := dr.left.getD ((List.range c.cores.length).map (fun j => (j, 0)))
    let (turns, x) := runInsts seq c count body todo { s := s }
    let waits := turns.filter (·.flt.code == 0)
    let flts := turns.filter (·.flt.code != 0)
    let s := x.s
    let stat : DStat := if !flts.isEmpty then .faulted else if !waits.isEmpty then .running else .ran
    let s := s.modD c.d (fun y => { y with stat := stat, sticky := y.sticky ||| x.fl, bytes := y.bytes + x.bytes, drops := y.drops + x.drops,
                                           left := some (waits.map (fun t => (t.inst, t.cursor))) })
    let s := if stat == .ran then
        { s with pcie := { s.pcie with arrived := s.pcie.arrived.filter (fun q => q.1 != c.d) } } else s
    flts.foldl (fun s t => s.descFault { c with inst := t.inst, core := c.cores.getD t.inst 0 } t.cursor t.flt) s

/-- Work of a running descriptor outside its instances' units: what it gathers counts, a fault stops the descriptor. -/
def postRun (s : State) (c : Cx) (cursor : Nat) (m : M PUnit) : State :=
  let add (x : X) (y : DRun) : DRun := { y with sticky := y.sticky ||| x.fl, bytes := y.bytes + x.bytes, drops := y.drops + x.drops }
  match m.run { s := s } with
  | (.ok _, x) => x.s.modD c.d (add x)
  | (.error e, x) => (x.s.modD c.d (fun y => { add x y with stat := .faulted })).descFault c cursor e

/-- Is a descriptor of an engine at work on one of these cores of a partition? -/
def engineBusy (s : State) (c : Cx) (eng op : Nat) : Bool :=
  match job? s c.d.lead with
  | none => false
  | some j => j.runs.any (fun r => match progOf j r.prog with
    | none => false
    | some p => (List.range p.descs.length).any (fun k =>
        let w := p.descs.getD k []
        (match (dRun r k).stat with | .running => true | .faulted => true | .resumed => true | _ => false) &&
        descEngine w == eng && (op == 0 || descOp w == op) && descPart w == c.part && (descCores w).any c.cores.contains))

/-- A descriptor command: the named descriptor starts or continues when it may, and otherwise nothing happens (R10). -/
def descStep (s : State) (d : DescRef) (op : Nat) (f : State → Cx → State) : State :=
  match startable s d op with
  | none => s
  | some c => touchDesc s (f s c)

end Sys2Proof.Machine
end

