-- ==== Sys2Proof/Machine/Tensor.lean ====
section
/-! DEFINITION. Tensor engine: MATMUL, the B-tile prefetch, STEER (chapter 05). -/

namespace Sys2Proof.Machine

/-- A fresh draw number for a sum whose order is free (R40). -/
def drawM : M Nat := do return (← getS).free * 2 ^ 64 + (← fresh)

/-! The accumulator store (R107, R110). -/

def accKey (dcore row lane : Nat) : Nat := (dcore * 2048 + row) * 128 + lane

/-- A lane of the accumulator store; a lane that this launch of the step has not written reads an unspecified value (R110). -/
def Cx.accLane (c : Cx) (row lane : Nat) : M Word := do
  let s ← getS
  match getT s.mem.acc (accKey c.dcore row lane) with
  | some a => if a.run == c.uid then return a.val else return Config.freeWord s.free (← fresh)
  | none => return Config.freeWord s.free (← fresh)

def Cx.setAcc (c : Cx) (row lane : Nat) (v : Word) : M PUnit :=
  modS (fun s => { s with mem := { s.mem with acc := putT s.mem.acc (accKey c.dcore row lane) ⟨c.uid, v⟩ } })

/-! Operands (R101, Table 05.2). -/

/-- Index of a logical element: `inner` in dimension 0, `outer` folded over the rest. -/
def foldIdx (t : TView) (inner outer : Nat) : List Nat := inner :: unlinear (t.dims.drop 1) outer
def outerSize (t : TView) : Nat := prodL (t.dims.drop 1)

/-- A tensor of which a step binds only the dimensions that `free` names; the program fixes the others (R102). -/
def TView.fixed (t : TView) (free : Nat → Bool) : TView := if free (TV.bdim t.w) then t else { t with dims := TV.dims t.w }

structure MM where
  a : TView
  b : TView
  c : TView
  t3 : TView
  ta : Bool
  tb : Bool
  accin : Bool
  keep : Bool
  epi : Nat
  accRow : Nat
  scale : Word
  splitM : Bool
  m : Nat
  n : Nat
  k : Nat
  ints : Bool

/-- At run time M takes the bound value, of A or of C; K and N are fixed by the program (R102). -/
def Cx.mm (c : Cx) : MM :=
  let w := wAt c.w 12
  let ta := wbit w 0
  let tb := wbit w 1
  let keep := wbit w 3
  let epi := wfld w 11 8
  let a := (c.t 0).fixed (fun i => if ta then i == 0 else i != 0)
  let b := (c.t 1).fixed (fun _ => false)
  let cc := (c.t 2).fixed (· != 0)
  let am := if ta then a.dim 0 else outerSize a
  { a := a, b := b, c := cc, t3 := (c.t 3).fixed (fun i => if epi == 8 then true else i != 0), ta := ta, tb := tb, accin := wbit w 2, keep := keep,
    epi := epi, accRow := wfld w 26 16, scale := wAt c.w 13, splitM := wbit (wAt c.w 14) 0, m := if keep then am else min am (outerSize cc),
    n := if tb then outerSize b else b.dim 0, k := if ta then outerSize a else a.dim 0, ints := fmtIsInt a.fmt }

def MM.nb (q : MM) : Nat := ceilDiv q.n 128
def MM.step (q : MM) : Nat := if q.epi == 4 then 2 else 1
/-- Rows and column-block groups (pairs under EPI 4) of an instance (R115). -/
def Cx.mmRows (c : Cx) (q : MM) : Nat × Nat := if q.splitM then c.mine q.m else (0, q.m)
def Cx.mmBlocks (c : Cx) (q : MM) : Nat × Nat := if q.splitM then (0, q.nb / q.step) else c.mine (ceilDiv q.nb q.step)
/-- Row-group size G (R108). -/
def MM.group (q : MM) (rows : Nat) : Nat := if q.keep || q.accin then max rows 1 else max (min rows ((2048 - q.accRow) / q.step)) 1

/-- Work units of an instance: row group by block, blocks fastest (R105). -/
def mmCount (c : Cx) : Nat :=
  let q := c.mm
  let rows := (c.mmRows q).2
  ceilDiv rows (q.group rows) * (c.mmBlocks q).2

/-- An element of A or B; B reads zero past K or N. -/
def Cx.mmA (c : Cx) (q : MM) (m k : Nat) : M Num := if q.ta then c.elem q.a (foldIdx q.a m k) else c.elem q.a (foldIdx q.a k m)
def Cx.mmB (c : Cx) (q : MM) (k n : Nat) : M Num :=
  if n < q.n then (if q.tb then c.elem q.b (foldIdx q.b k n) else c.elem q.b (foldIdx q.b n k)) else return .fin false 0 0

/-- Integer value of an exact number. -/
def numInt : Num → Int
  | .fin n m e => let v : Int := if e ≥ 0 then (m * 2 ^ e.toNat : Nat) else (m / 2 ^ (-e).toNat : Nat); if n then -v else v
  | _ => 0

def sumInt (init : Word) (xs : List Num) : Word := xs.foldl (fun a x => a + BitVec.ofInt 32 (numInt x)) init

/-- The sum of one accumulator lane (R39 to R42). -/
def Cx.mmSum (ints : Bool) (init : Word) (ps : List Num) : M Word := do
  if ints then return sumInt init ps else return accumulate (← drawM) init ps

/-- Accumulator rows of block b for rows m0.. of a group: list of (row, lane values). -/
def Cx.mmBlock (c : Cx) (q : MM) (b m0 rows accBase : Nat) : M (List (List Word)) := do
  let cols ← (List.range 128).mapM (fun j => (List.range q.k).mapM (fun k => c.mmB q k (128 * b + j)))
  (List.range rows).mapM (fun r => do
    let arow ← (List.range q.k).mapM (fun k => c.mmA q (m0 + r) k)
    cols.zipIdx.mapM (fun (col, j) => do
      let init ← if q.accin then c.accLane (accBase + r) j else pure 0#32
      Cx.mmSum q.ints init ((arow.zip col).map (fun (x, y) => (mulNum x y).1))))

def Cx.putRows (c : Cx) (accBase : Nat) (vs : List (List Word)) : M PUnit :=
  vs.zipIdx.forM (fun (row, r) => row.zipIdx.forM (fun (v, j) => c.setAcc (accBase + r) j v))

/-! Epilogue sequences (R113), with the flags of R50. -/

abbrev WF := Word × Sticky

def WF.bind (a : WF) (f : Word → WF) : WF := let b := f a.1; (b.1, a.2 ||| b.2)

def cF (x : Nat) : Word := BitVec.ofNat 32 x
def c0p044715 : Word := cF 0x3D372713
def c0p7978846 : Word := cF 0x3F4C422A
def cTwo : Word := cF 0x40000000
def cMinus2 : Word := cF 0xC0000000
def cHalf : Word := cF 0x3F000000

def siluW (dr : Nat) (x : Word) : WF :=
  WF.bind (fexp dr (fnegW x)) fun e => WF.bind (fadd one32 e) fun d => WF.bind (frcp d) fun r => fmul x r

def geluW (dr : Nat) (x : Word) : WF :=
  WF.bind (fmul x x) fun c => WF.bind (fmul c x) fun c => WF.bind (ffma c0p044715 c x) fun u => WF.bind (fmul c0p7978846 u) fun u =>
  WF.bind (fmul cTwo u) fun u2 => WF.bind (fexp dr u2) fun e => WF.bind (fadd one32 e) fun d => WF.bind (frcp d) fun r =>
  WF.bind (ffma cMinus2 r one32) fun th => WF.bind (fmul cHalf x) fun h => ffma h th h

/-- T3 operand of element (m, n) (Table 05.4). -/
def Cx.mmT3 (c : Cx) (q : MM) (m n : Nat) : M Word := do
  let v ← match q.epi with
    | 2 => c.elem q.t3 (foldIdx q.t3 n m)
    | 3 => c.elem q.t3 (foldIdx q.t3 n m)
    | 8 => c.elem q.t3 [m, 0, 0, 0, 0]
    | _ => c.elem q.t3 [n, 0, 0, 0, 0]
  return (rnd32 v).1

def needsT3 (epi : Nat) : Bool := [1, 2, 3, 8, 9, 10].contains epi

/-- The epilogue operation on x (Table 05.4); `up` is the up value under EPI 4. -/
def epiW (epi : Nat) (dr : Nat) (x t up : Word) : WF :=
  match epi with
  | 1 => fadd x t
  | 2 => fadd x t
  | 3 => fmul x t
  | 4 => WF.bind (siluW dr x) fun y => fmul y up
  | 5 => (fmaxW x 0#32, 0#5)
  | 6 => siluW dr x
  | 7 => geluW dr x
  | 8 => fmul x t
  | 9 => fmul x t
  | 10 => WF.bind (fadd x t) fun y => (fmaxW y 0#32, 0#5)
  | _ => (x, 0#5)

/-- Stages 1 and 2 of R113. -/
def stage12 (q : MM) (v : Word) : WF :=
  let a : WF := if q.ints then rnd32 (.ofInt v.toInt) else (v, 0#5)
  WF.bind a fun x => fmul x q.scale

/-- The integer bypass of R113. -/
def MM.bypass (q : MM) : Bool := q.ints && q.c.fmt == 11 && q.epi == 0 && q.scale == one32

/-- One output element after stages 1 to 3 of R113. -/
def Cx.mmVal (c : Cx) (q : MM) (m n : Nat) (v up : Word) : M Word := do
  if q.bypass then return v
  else
    let (x, f1) := stage12 q v
    let (u, f2) := if q.epi == 4 then stage12 q up else (0#32, 0#5)
    let t ← if needsT3 q.epi then c.mmT3 q m n else pure 0#32
    let (y, f3) := epiW q.epi (← drawM) x t u
    sticky (f1 ||| f2 ||| f3)
    return y

/-- Stage 4: the element is written. -/
def Cx.mmPut (c : Cx) (q : MM) (m n : Nat) (y : Word) : M PUnit :=
  if q.bypass then c.wrBits q.c (foldIdx q.c n m) y.toNat else c.put q.c (foldIdx q.c n m) c.cvt 0 (num32 y)

/-- Accumulator row of row 0 of block `b`, the `i`-th of its unit, under the two layouts (R108). -/
def MM.accBase (q : MM) (g b i : Nat) : Nat := if q.keep || q.accin then q.accRow + b * q.m else q.accRow + i * g

/-- One row group of one block, or pair of blocks (R105). Everything is read before C and the accumulator rows are written, so that a unit that
faults can run again from its start. -/
def mmUnit (c : Cx) (u : Nat) : M PUnit := do
  let q := c.mm
  let (r0, rows) := c.mmRows q
  let (b0, blocks) := c.mmBlocks q
  let g := q.group rows
  let gi := u / max blocks 1
  let bi := b0 + u % max blocks 1
  let m0 := r0 + gi * g
  let rn := min g (rows - gi * g)
  let bs := (List.range q.step).map (fun i => (q.step * bi + i, i))
  let sums ← bs.mapM (fun (b, i) => c.mmBlock q b m0 rn (q.accBase g b i))
  let cols := if q.keep then 0 else if q.epi == 4 then 128 else min 128 (q.n - 128 * bi)
  let at_ (i r j : Nat) : Word := ((sums.getD i []).getD r []).getD j 0#32
  let outs ← (List.range rn).mapM (fun r => (List.range cols).mapM (fun j => c.mmVal q (m0 + r) (128 * bi + j) (at_ 0 r j) (at_ 1 r j)))
  outs.zipIdx.forM (fun (row, r) => row.zipIdx.forM (fun (y, j) => c.mmPut q (m0 + r) (128 * bi + j) y))
  (bs.zip sums).forM (fun ((b, i), vs) => c.putRows (q.accBase g b i) vs)

/-- Tensor slots of MATMUL whose bound extents count. -/
def mmSlots (c : Cx) : List Nat :=
  let q := c.mm
  [0, 1] ++ (if q.keep then [] else [2]) ++ (if needsT3 q.epi then [3] else [])

/-- The prefetched tile of the core is used up (R106). -/
def State.clearPrefetch (s : State) (c : Cx) : State :=
  s.modJob c.d.lead (fun j => { j with prefetch := j.prefetch.filter (fun e => e.2 != c.d) })

/-- The tensor engine starts nothing while an ATTN_PREFILL holds its core's array (R177). -/
def tensorOp (s : State) (c : Cx) (f : State → State) : State := if engineBusy s c 2 0x02 then s else f s

/-- MATMUL (R99 to R115). -/
def execMatmul (d : DescRef) (s : State) : Host.Outcome State Fault Refusal :=
  .next (descStep s d 0x01 (fun s c => tensorOp s c (fun s => (runOp s c (mmSlots c) mmCount mmUnit).clearPrefetch c)))

/-- May the tile of the next descriptor be read now: a MATMUL runs on the core's tensor engine, `d` is the next of that queue, a MATMUL
whose predecessors have all completed (R106)? -/
def prefetchable (s : State) (d : DescRef) : Option Cx :=
  match named s d with
  | none => none
  | some (_, r, c) =>
    let p := c.prog
    let running := (List.range c.d.idx).any (fun k => let v := p.descs.getD k []
                     sameQueue v c.w && descOp v == 0x01 && (dRun r k).stat.executing)
    let next := (List.range c.d.idx).all (fun k => !sameQueue (p.descs.getD k []) c.w || (dRun r k).stat.begun)
    if c.engine == 0 && c.opcode == 0x01 && r.launched && !r.withdrawn && (dRun r c.d.idx).stat == .waiting && running && next &&
       predsDone p r c.d.idx c.w then some c else none

/-- B_TILE_PREFETCH (R106): the tile is read ahead on each core of the next descriptor; its values are those the descriptor then reads. -/
def execBTilePrefetch (d : DescRef) (s : State) : Host.Outcome State Fault Refusal :=
  .next (match prefetchable s d with
    | none => s
    | some c => s.modJob d.lead (fun j => { j with prefetch := c.cores.foldl (fun t k => putT t (16 * c.part + k) c.d) j.prefetch }))

/-! STEER. -/

/-- A control structure that Barista placed (batch table, block tables, adapter table, packs): an engine reads it as any stack memory (R25, R216),
each time that the work of one unit needs it (DESIGN CHOICE, log entry 138). -/
def Cx.ctl (c : Cx) (a n : Nat) : M (List Byte) := c.rd 0 0 a n

def Cx.ctlWords (c : Cx) (a n : Nat) : M (List Word) := do return bytesWords n (← c.ctl a (4 * n))

/-- Slot entry i of the batch table (Table 03.17). -/
def Cx.slotEnt (c : Cx) (i : Nat) : M (List Word) := c.ctlWords (c.bt + 64 + 64 * i) 16

namespace SL
def req (w : List Word) : Nat := wfld (wAt w 0) 15 0
def kind (w : List Word) : Nat := wfld (wAt w 1) 1 0
def row (w : List Word) : Nat := wfld (wAt w 1) 31 16
def pos (w : List Word) : Nat := wfld (wAt w 2) 19 0
def ntok (w : List Word) : Nat := wfld (wAt w 3) 16 0
def snap (w : List Word) : Nat := addrAt w 4
def open_ (w : List Word) : Nat := addrAt w 6
def adapter (w : List Word) : Nat := wfld (wAt w 8) 15 0
def gen (w : List Word) : Nat := wfld (wAt w 8) 31 16
def temp (w : List Word) : Word := wAt w 9
def topp (w : List Word) : Word := wAt w 10
def topk (w : List Word) : Nat := wfld (wAt w 11) 15 0
def tlog (w : List Word) : Nat := addrAt w 12
end SL

/-- The slot whose rows include a token row: index and entry. -/
def Cx.slotOfRow (c : Cx) (row : Nat) : M (Option (Nat × List Word)) :=
  (List.range (c.bind 1)).foldlM (fun acc i => match acc with
    | some x => return some x
    | none => do
      let w ← c.slotEnt i
      if SL.row w ≤ row && row < SL.row w + SL.ntok w then return some (i, w) else return none) none

/-- Fault 0x3105 for a slot: recorded without a pause, and the sequence is then rejected (R117, R289). -/
def Cx.badAdapter (c : Cx) (slot cursor : Nat) : M PUnit :=
  modS (fun s =>
    let s := s.descFault c cursor { code := 0x3105, detail := slot }
    s.modRun c.d.lead c.d.step (fun r => { r with slots := r.slots.zipIdx.map (fun (x, i) => if i == slot then { x with fault3105 := true } else x) }))

/-- Coefficients of a row: steering and scale, NBASIS of each; none when the adapter is 0 (R117). -/
def Cx.coeffs (c : Cx) (slot : Nat) (w : List Word) (layer nb cursor : Nat) : M (List Num × List Num) := do
  let zero := List.replicate nb (Num.fin false 0 0)
  if SL.adapter w == 0 then return (zero, zero)
  else
    let t3 := c.t 3
    let e ← c.ctlWords (t3.base + 32 * SL.adapter w) 8
    let st := wfld (wAt e 2) 17 16
    if !(st == 1 || st == 2) || wfld (wAt e 2) 15 0 != SL.gen w || wfld (wAt e 6) 7 0 ≤ layer then
      c.badAdapter slot cursor
      return (zero, zero)
    else
      let bs ← c.ctl (addrAt e 4 + 64 + 128 * layer) 128
      let f (i : Nat) : Num := decodeElem 3 (byteAt bs i)
      return ((List.range nb).map f, (List.range nb).map (fun i => f (64 + i)))

/-- Rows per group of a STEER run (R118). -/
def Cx.steerG (c : Cx) : Nat := max (min (c.mine ((c.t 0).dim 1)).2 ((2048 - wfld (wAt c.w 13) 10 0) / 2)) 1

/-- One row of STEER: both products through the accumulator store, lanes past W of the last block zero, then one fma per element (R118).
Everything is read before the row and the accumulator rows are written, as in `mmUnit`. -/
def steerUnit (c : Cx) (u : Nat) : M PUnit := do
  let t0 := c.t 0
  let layer := wfld (wAt c.w 12) 7 0
  let nb := wfld (wAt c.w 12) 15 8
  let acc := wfld (wAt c.w 13) 10 0
  let row := (c.mine (t0.dim 1)).1 + u
  let g := c.steerG
  match ← c.slotOfRow row with
  | none => pure ()
  | some (si, w) =>
    let (cs, cc) ← c.coeffs si w layer nb u
    let outs ← (List.range (t0.dim 0)).mapM (fun n => do
      let sb ← (List.range nb).mapM (fun j => c.elem (c.t 2) [n, j, 0, 0, 0])
      let db ← (List.range nb).mapM (fun j => c.elem (c.t 1) [n, j, 0, 0, 0])
      let sv := accumulate (← drawM) 0#32 ((cc.zip sb).map (fun (x, y) => (mulNum x y).1))
      let dv := accumulate (← drawM) 0#32 ((cs.zip db).map (fun (x, y) => (mulNum x y).1))
      let x ← c.elem t0 [n, row, 0, 0, 0]
      -- one fma with one rounding: residual * (1 + s) + d
      let (y, f) := fin32 (ffmaNum x (addNum (num32 one32) (num32 sv)).1 (num32 dv))
      sticky f
      return (sv, dv, y))
    outs.zipIdx.forM (fun ((_, _, y), n) => c.put t0 [n, row, 0, 0, 0] c.cvt 0 (num32 y))
    (List.range (roundUp (t0.dim 0) 128)).forM (fun n => do
      let (sv, dv, _) := outs.getD n (0#32, 0#32, 0#32)
      c.setAcc (acc + u % g) (n % 128) sv
      c.setAcc (acc + g + u % g) (n % 128) dv)

/-- STEER (R116 to R118). -/
def execSteer (d : DescRef) (s : State) : Host.Outcome State Fault Refusal :=
  .next (descStep s d 0x0A (fun s c => tensorOp s c (fun s => runOp s c [0, 1, 2, 3] (fun c => (c.mine ((c.t 0).dim 1)).2) steerUnit)))

end Sys2Proof.Machine
end

