-- ==== Sys2Proof/Machine/Vector.lean ====
section
/-! DEFINITION. Vector engine: lane operations with their landing times, VLANE, SAMPLE (chapter 06). -/

namespace Sys2Proof.Machine

/-! Registers, masks and results in flight (R119, R130, R137, R138). -/

def vec (s : State) (core : Nat) : Vec := (getT s.vecs core).getD {}
def State.setVec (s : State) (core : Nat) (v : Vec) : State := { s with vecs := putT s.vecs core v }

def Vec.lane (v : Vec) (r i : Nat) : Word := (v.v.getD r 0#2048).extractLsb' (32 * i) 32
def Vec.mask (v : Vec) (m : Nat) : BitVec 64 := v.masks.getD m 0#64

/-- One result lands: the bits it covers of its register or mask. -/
def Vec.apply (v : Vec) (l : Land) : Vec :=
  if l.dst < 32 then
    { v with v := v.v.set l.dst ((v.v.getD l.dst 0#2048 &&& ~~~ l.bits) ||| (l.val &&& l.bits)) }
  else
    let b := l.bits.setWidth 64
    { v with masks := v.masks.set (l.dst - 32) ((v.mask (l.dst - 32) &&& ~~~ b) ||| (l.val.setWidth 64 &&& b)) }

/-- Results in flight by landing clock, and within a clock by issue (R138). -/
def insLand (l : Land) : List Land → List Land
  | [] => [l]
  | d :: t => if d.lands < l.lands || (d.lands == l.lands && d.issue ≤ l.issue) then d :: insLand l t else l :: d :: t

/-- Everything due by the engine's clock has landed. -/
def Vec.settle (v : Vec) : Vec :=
  { ((v.fly.filter (·.lands ≤ v.clk)).foldl Vec.apply v) with fly := v.fly.filter (v.clk < ·.lands) }

/-! Operands (R121, R129). -/

/-- What an operation sees at its issue. -/
structure LEnv where
  c : Cx
  x : VCtx
  o : LaneOp
  v : Vec

/-- Lanes that MSEL and MINV select, whatever MK0 holds. -/
def LEnv.sel (e : LEnv) : BitVec 64 :=
  if e.o.msel == 0 then BitVec.allOnes 64 else if e.o.minv == 1 then ~~~ e.v.mask e.o.msel else e.v.mask e.o.msel
/-- Active lanes (R121). -/
def LEnv.act (e : LEnv) : BitVec 64 := e.v.mask 0 &&& e.sel
def lanesOf (m : BitVec 64) : List Nat := (List.range 64).filter m.getLsbD
def LEnv.lanes (e : LEnv) : List Nat := lanesOf e.act
def LEnv.isInt (e : LEnv) : Bool := e.o.ty == 1

/-- Table 06.3: the 32 bits that a selector reads in a lane. -/
def LEnv.src (e : LEnv) (sel i : Nat) : Word :=
  if sel < 32 then e.v.lane sel i
  else if 36 ≤ sel && sel < 44 then wAt e.x.scal (sel - 36)
  else match e.isInt, sel with
    | false, 45 => one32
    | false, 46 => 0xBF800000#32
    | false, 47 => cHalf
    | false, 48 => pinf32
    | false, 49 => ninf32
    | true, 45 => 1#32
    | true, 46 => 0xFFFFFFFF#32
    | true, 48 => 0x7FFFFFFF#32
    | true, 49 => 0x80000000#32
    | true, 50 => BitVec.ofNat 32 i
    | true, 51 => BitVec.ofNat 32 (64 * e.x.tile + i)
    | true, 52 => BitVec.ofNat 32 e.x.row
    | _, _ => 0#32
def LEnv.a (e : LEnv) (i : Nat) : Word := e.src e.o.a i
def LEnv.b (e : LEnv) (i : Nat) : Word := e.src e.o.b i
def LEnv.cc (e : LEnv) (i : Nat) : Word := e.src e.o.c i
/-- A lane word as a value, by TYPE. -/
def LEnv.num (e : LEnv) (w : Word) : Num := if e.isInt then .ofInt w.toInt else num32 w

/-! Results. -/

/-- What an operation leaves: a result to land after its latency (latency, destination, bits, value), flags by lane, append cursors, stores. -/
structure LRes where
  land : Option (Nat × Nat × BitVec 2048 × BitVec 2048) := none
  fl : List (Nat × Sticky) := []
  cursors : Option (List Nat) := none
  stores : List Recent := []

def orBits (l : List (BitVec 2048)) : BitVec 2048 := l.foldl (· ||| ·) 0#2048
/-- A field of `w` bits at bit `p`. -/
def atBit (p w : Nat) (x : Nat) : BitVec 2048 := BitVec.ofNat 2048 (x % 2 ^ w) <<< p

/-- Lane words as a result for register D, with the flags that the lanes raise. -/
def toLanes (lat d : Nat) (l : List (Nat × WF)) : LRes :=
  { land := some (lat, d, orBits (l.map (fun p => atBit (32 * p.1) 32 (2 ^ 32 - 1))), orBits (l.map (fun p => atBit (32 * p.1) 32 p.2.1.toNat))),
    fl := l.map (fun p => (p.1, p.2.2)) }

/-- An operation lane by lane over the active lanes. -/
def LEnv.each (e : LEnv) (lat : Nat) (f : Nat → WF) : M LRes :=
  return toLanes lat e.o.d (e.lanes.map (fun i => (i, f i)))

/-- Mask bits as a result for a mask register: which bits, their values. -/
def toMask (lat d : Nat) (bits val : BitVec 64) : LRes := { land := some (lat, d, bits.setWidth 2048, val.setWidth 2048) }

def noFl (w : Word) : WF := (w, 0#5)
/-- FP32 or INT32 by TYPE. -/
def LEnv.by (e : LEnv) (f : WF) (i : Word) : WF := if e.isInt then noFl i else f

/-! Lane operations (Table 06.4, R130 to R135). -/

def opNop (_ : LEnv) : M LRes := return {}
def opAdd (e : LEnv) : M LRes := e.each 3 fun i => e.by (fadd (e.a i) (e.b i)) (e.a i + e.b i)
def opSub (e : LEnv) : M LRes := e.each 3 fun i => e.by (fsub (e.a i) (e.b i)) (e.a i - e.b i)
def opMul (e : LEnv) : M LRes := e.each 4 fun i => e.by (fmul (e.a i) (e.b i)) (e.a i * e.b i)
def opFma (e : LEnv) : M LRes := e.each 4 fun i => e.by (ffma (e.a i) (e.b i) (e.cc i)) (e.a i * e.b i + e.cc i)
def imax (a b : Word) : Word := if a.slt b then b else a
def imin (a b : Word) : Word := if b.slt a then b else a
def opMax (e : LEnv) : M LRes := e.each 3 fun i => noFl (if e.isInt then imax (e.a i) (e.b i) else fmaxW (e.a i) (e.b i))
def opMin (e : LEnv) : M LRes := e.each 3 fun i => noFl (if e.isInt then imin (e.a i) (e.b i) else fminW (e.a i) (e.b i))
def opAbs (e : LEnv) : M LRes := e.each 3 fun i => noFl (if e.isInt then (if (e.a i).msb then - e.a i else e.a i) else fabsW (e.a i))
def opNeg (e : LEnv) : M LRes := e.each 3 fun i => noFl (if e.isInt then - e.a i else fnegW (e.a i))
def opMov (e : LEnv) : M LRes := e.each 3 fun i => noFl (e.a i)
def opSel (e : LEnv) : M LRes := e.each 3 fun i => noFl (if (e.v.mask (e.o.c - 32)).getLsbD i then e.a i else e.b i)
def opAnd (e : LEnv) : M LRes := e.each 3 fun i => noFl (e.a i &&& e.b i)
def opOr (e : LEnv) : M LRes := e.each 3 fun i => noFl (e.a i ||| e.b i)
def opXor (e : LEnv) : M LRes := e.each 3 fun i => noFl (e.a i ^^^ e.b i)
def shAmt (w : Word) : Nat := w.toNat % 32
def opShl (e : LEnv) : M LRes := e.each 3 fun i => noFl (e.a i <<< shAmt (e.b i))
def opShr (e : LEnv) : M LRes := e.each 3 fun i => noFl (e.a i >>> shAmt (e.b i))
def opSra (e : LEnv) : M LRes := e.each 3 fun i => noFl ((e.a i).sshiftRight (shAmt (e.b i)))

/-- CMP predicates (Table 06.4): a comparison with a NaN is false, NE and UNORD true. -/
def predF (p : Nat) (a b : Word) : Bool :=
  let x := num32 a
  let y := num32 b
  let un := x == .nan || y == .nan
  match p with
  | 0 => x.eqv y
  | 1 => !x.eqv y
  | 2 => x.lt y
  | 3 => x.lt y || x.eqv y
  | 4 => y.lt x
  | 5 => y.lt x || x.eqv y
  | 6 => un
  | 7 => !un
  | _ => false
def predI (p : Nat) (a b : Word) : Bool :=
  match p with
  | 0 => a == b | 1 => a != b | 2 => a.slt b | 3 => a.sle b | 4 => b.slt a | 5 => b.sle a | 7 => true | _ => false

def bitsFrom (l : List Nat) : BitVec 64 := BitVec.ofNat 64 (l.foldl (fun a i => a + 2 ^ i) 0)

def opCmp (e : LEnv) : M LRes :=
  return toMask 3 e.o.d e.act (bitsFrom (e.lanes.filter (fun i =>
    if e.isInt then predI e.o.imm8 (e.a i) (e.b i) else predF e.o.imm8 (e.a i) (e.b i))))

def opMlog (e : LEnv) : M LRes :=
  let a := e.v.mask (e.o.a - 32)
  let b := e.v.mask (e.o.b - 32)
  return toMask 3 e.o.d (BitVec.allOnes 64) (match e.o.imm8 with
    | 0 => a &&& b | 1 => a ||| b | 2 => a &&& ~~~ b | 3 => a ^^^ b | 4 => ~~~ a | 5 => BitVec.allOnes 64 | _ => 0#64)

def opMcount (e : LEnv) : M LRes := e.each 3 fun _ => noFl (BitVec.ofNat 32 e.lanes.length)
def opExp (e : LEnv) : M LRes := do let d ← drawM; e.each 8 fun i => fexp d (e.a i)
def opLog (e : LEnv) : M LRes := e.each 8 fun i => flog (e.a i)
def opRcp (e : LEnv) : M LRes := e.each 8 fun i => frcp (e.a i)
def opRsqrt (e : LEnv) : M LRes := e.each 8 fun i => frsqrt (e.a i)

/-- Place of element `i` of part `q` of a packed register of 8 or 16-bit elements (R119). -/
def packPos (bits q i : Nat) : Nat := if bits == 16 then 1024 * q + 16 * i else 512 * q + 8 * i
/-- Element `i` of part `q` of an operand read as packed elements: a scalar or constant has its value in every lane (R129). -/
def LEnv.packed (e : LEnv) (sel bits q i : Nat) : Nat :=
  (e.src sel (packPos bits q i / 32)).toNat / 2 ^ (packPos bits q i % 32) % 2 ^ bits

/-- The 32 bits of a lane that holds a widened value. -/
def numWord (fmt : Nat) (v : Num) : Word := if fmtIsInt fmt then BitVec.ofInt 32 (numInt v) else (rnd32 v).1

/-- Packed elements as a result for part `q` of D. -/
def toPacked (lat d bits q : Nat) (l : List (Nat × Nat)) (fl : List (Nat × Sticky)) : LRes :=
  { land := some (lat, d, orBits (l.map (fun p => atBit (packPos bits q p.1) bits (2 ^ bits - 1))),
                  orBits (l.map (fun p => atBit (packPos bits q p.1) bits p.2))), fl := fl }

/-- R134. -/
def opCvt (e : LEnv) : M LRes := do
  let f := e.o.fmt
  match e.o.imm8 % 8 with
  | 0 =>
    let rs ← e.lanes.mapM (fun i => do
      let (x, fl) := toIntFmt 11 (cvtMode e.o.cvt (← srDraw)) (num32 (e.a i))
      return (i, BitVec.ofInt 32 x, fl))
    return toLanes 3 e.o.d rs
  | 1 =>
    let rs ← e.lanes.mapM (fun i => do
      let (x, fl) := fp32.narrow (cvtMode e.o.cvt (← srDraw)) (cvtNosat e.o.cvt) (.ofInt (e.a i).toInt)
      return (i, BitVec.ofNat 32 x, fl))
    return toLanes 3 e.o.d rs
  | 2 =>
    let rs ← e.lanes.mapM (fun i => do
      let (x, fl) := encodeElem f e.o.cvt (← srDraw) (num32 (e.a i))
      return (i, (rnd32 (decodeElem f x)).1, fl))
    return toLanes 3 e.o.d rs
  | 3 => return toLanes 3 e.o.d (e.lanes.map (fun i => (i, noFl (numWord f (decodeElem f (e.packed e.o.a (fmtBits f) e.o.part i))))))
  | _ =>
    let rs ← e.lanes.mapM (fun i => do
      let (x, fl) := encodeElem f e.o.cvt (← srDraw) (e.num (e.a i))
      return (i, x, fl))
    return toPacked 3 e.o.d (fmtBits f) e.o.part (rs.map (fun r => (r.1, r.2.1))) (rs.map (fun r => (r.1, r.2.2)))

/-- Identity of a scan operator (R131): 0 add, 1 max, 2 min. -/
def scanId (int : Bool) : Nat → Word
  | 1 => if int then 0x80000000#32 else ninf32
  | 2 => if int then 0x7FFFFFFF#32 else pinf32
  | _ => 0#32

def canonW (w : Word) : Word := if isNan32 w then qnan32 else w

/-- Combine terms with a scan operator: the order of an FP32 addition is free (R131). -/
def scanFold (int : Bool) (op dr : Nat) (ts : List Word) : WF :=
  if int then noFl (match ts with
    | [] => scanId true op
    | h :: t => t.foldl (fun a x => match op with | 1 => imax a x | 2 => imin a x | _ => a + x) h)
  else match op with
    | 1 => noFl (ts.foldl fmaxW ninf32)
    | 2 => noFl (ts.foldl fminW pinf32)
    | _ => match shuffle dr ts with
      | [] => noFl 0#32
      | h :: t => let (w, f) := t.foldl (fun (p : WF) x => let (y, g) := fadd p.1 x; (y, p.2 ||| g)) (canonW h, 0#5); (w, f)

/-- Terms of lane `i`'s prefix: lanes `lo` to `i` (to `i - 1` when exclusive), inactive ones giving the identity, and the carry. -/
def LEnv.prefixOf (e : LEnv) (op lo hi : Nat) (carry : Bool) : List Word :=
  (if carry then [e.b 0] else []) ++
  ((List.range 64).filter (fun i => lo ≤ i && i < hi)).map (fun i => if e.act.getLsbD i then e.a i else scanId e.isInt op)

/-- Results of a scan given each active lane's terms. -/
def LEnv.scanRes (e : LEnv) (lat op : Nat) (terms : Nat → List Word) : M LRes := do
  let rs ← e.lanes.mapM (fun i => do
    let ts := terms i
    let dr ← drawM
    let (w, f) := if ts.isEmpty then noFl (scanId e.isInt op) else scanFold e.isInt op dr ts
    return (i, w, f))
  return toLanes lat e.o.d rs

def opScan (e : LEnv) : M LRes :=
  let op := e.o.imm8 % 4
  let excl := bitN e.o.imm8 2
  if bitN e.o.imm8 3 then do
    let w := scanFold e.isInt op (← drawM) (e.prefixOf op 0 64 true)
    return toLanes 6 e.o.d (e.lanes.map (fun i => (i, w)))
  else e.scanRes 6 op (fun i => e.prefixOf op 0 (if excl then i else i + 1) true)

def opSegscan (e : LEnv) : M LRes :=
  let op := e.o.imm8 % 4
  let excl := bitN e.o.imm8 2
  let heads := e.act &&& e.v.mask (fld e.o.imm8 5 4)
  e.scanRes 7 op (fun i =>
    match ((List.range (i + 1)).filter heads.getLsbD).getLast? with
    | some h => e.prefixOf op h (if excl then i else i + 1) false
    | none => e.prefixOf op 0 (if excl then i else i + 1) true)

/-- R132: the active lanes of a, packed downward; the lanes above are zero; all of D is written. -/
def opCompress (e : LEnv) : M LRes :=
  let vs := e.lanes.map e.a
  return toLanes 5 e.o.d ((List.range 64).map (fun i => (i, noFl (wAt vs i))))

def opExpand (e : LEnv) : M LRes :=
  return toLanes 5 e.o.d (e.lanes.zipIdx.map (fun (i, k) => (i, noFl (e.a k))))

/-! Streams (R123, R124, R133). -/

def LEnv.stream (e : LEnv) : Option TView := e.x.streams.getD e.o.stream none
def streamIdx (x : VCtx) (t : TView) (col : Nat) : List Nat := foldIdx t col (if outerSize t == 1 then 0 else x.row)

/-- A value read with no effect of the read: for what an element held before a store. -/
def quiet (m : M Nat) : M Nat := do
  let x ← get
  match m.run x with
  | (.ok v, _) => return v
  | (.error _, _) => return 0

/-- Bits that a load of an element may see instead of the stored ones (R133): the value before a store less than 24 clocks old, or before
a store of another instance. -/
def oldBits (s : State) (e : LEnv) (t : TView) (idx : List Nat) : Option Nat :=
  let (a, sh) := t.bitAddr idx
  let hit (r : Recent) : Bool := r.space == t.space && r.part == TV.part t.w && r.addr == a * 8 + sh
  match e.v.recent.find? (fun r => hit r && decide (e.v.clk < r.clk + 24)) with
  | some r => some r.old
  | none => (s.vecs.findSome? (fun (k, v) =>
      if k != e.c.dcore && (v.ctx.map (·.d)) == some e.x.d then v.recent.find? hit else none)).map (·.old)

/-- Bits of an element that LD or LDS reads; a compressed stream, which nothing stores to (R124), is decoded (R203). -/
def LEnv.load (e : LEnv) (t : TView) (idx : List Nat) : M Nat := do
  if TV.comp t.w then return (← e.c.rdBitsC t idx).1
  else
    let b ← e.c.rdBits t idx
    match oldBits (← getS) e t idx with
    | none => return b
    | some o => if Config.newValue (← getS).free (← fresh) then return b else return o

/-- An element widened to a lane word: FP32 and INT32 elements keep their bits. -/
def LEnv.loadW (e : LEnv) (t : TView) (idx : List Nat) : M Word := do
  if fmtIsMx t.fmt then return numWord t.fmt (← e.c.elem t idx)
  else
    let b ← e.load t idx
    if t.fmt == 0 || t.fmt == 11 then return BitVec.ofNat 32 b else return numWord t.fmt (decodeElem t.fmt b)

/-- Store an element's bits, remembering what it held (R133). -/
def LEnv.storeBits (e : LEnv) (t : TView) (idx : List Nat) (b : Nat) : M Recent := do
  let old ← quiet (e.c.rdBits t idx)
  let (a, sh) := t.bitAddr idx
  e.c.wrBits t idx b
  return ⟨e.v.clk, t.space, TV.part t.w, a * 8 + sh, old⟩

/-- Narrow a lane word to a stream's format and store it. -/
def LEnv.storeW (e : LEnv) (t : TView) (idx : List Nat) (w : Word) : M (Recent × Sticky) := do
  let (b, f) := cvtElem t.fmt e.o.cvt (if e.isInt then 11 else 0) (← srDraw) (e.num w)
  return (← e.storeBits t idx b, f)

/-- PAD_VALUE of a stream converted to its format, as bits (R62). -/
def padBits (w : List Word) : Nat := (encodeElem (TV.fmt w) 0 0 (if fmtIsInt (TV.fmt w) then Num.ofInt (TV.padValue w).toInt else num32 (TV.padValue w))).1

def opLd (e : LEnv) : M LRes := do
  match e.stream with
  | none => return {}
  | some t =>
    let raw := bitN e.o.imm8 0
    let inside := e.v.mask 0
    let ls := lanesOf e.sel
    if raw then
      let rs ← ls.mapM (fun i => do
        if inside.getLsbD i then return (i, ← e.load t (streamIdx e.x t (64 * e.x.tile + i)))
        else return (i, if TV.pad t.w then padBits t.w else 0))
      return toPacked 6 e.o.d (fmtBits t.fmt) e.o.part rs []
    else
      let rs ← ls.mapM (fun i => do
        if inside.getLsbD i then return (i, noFl (← e.loadW t (streamIdx e.x t (64 * e.x.tile + i))))
        else return (i, noFl (if TV.pad t.w then numWord t.fmt (padNum t.w) else 0#32)))
      return toLanes 6 e.o.d rs

def opLds (e : LEnv) : M LRes := do
  match e.stream with
  | none => return {}
  | some t =>
    let w ← e.loadW t (streamIdx e.x t e.o.imm8)
    e.each 6 fun _ => noFl w

/-- R135. -/
def opAccld (e : LEnv) : M LRes := do
  let row := e.x.accRow + e.x.tile / 2 * e.x.rows + e.x.row
  let rs ← e.lanes.mapM (fun i => do return (i, noFl (← e.c.accLane row (64 * (e.x.tile % 2) + i))))
  return toLanes 6 e.o.d rs

def opSt (e : LEnv) : M LRes := do
  match e.stream with
  | none => return {}
  | some t =>
    if bitN e.o.imm8 0 then
      let rs ← e.lanes.mapM (fun i => e.storeBits t (streamIdx e.x t (64 * e.x.tile + i)) (e.packed e.o.a (fmtBits t.fmt) e.o.part i))
      return { stores := rs }
    else
      let rs ← e.lanes.mapM (fun i => e.storeW t (streamIdx e.x t (64 * e.x.tile + i)) (e.a i))
      return { stores := rs.map Prod.fst, fl := e.lanes.zip (rs.map Prod.snd) }

def opSts (e : LEnv) : M LRes := do
  match e.stream with
  | none => return {}
  | some t =>
    if e.act.getLsbD 0 then
      let (r, f) ← e.storeW t (streamIdx e.x t e.o.imm8) (e.a 0)
      return { stores := [r], fl := [(0, f)] }
    else return {}

/-- R132: appended at the row's cursor; past DIM0 nothing is written. -/
def opStc (e : LEnv) : M LRes := do
  match e.stream with
  | none => return {}
  | some t =>
    let cur := e.x.cursors.getD e.o.stream 0
    let ls := e.lanes.take (t.dim 0 - cur)
    let rs ← ls.zipIdx.mapM (fun (i, k) => e.storeW t (streamIdx e.x t (cur + k)) (e.a i))
    return { stores := rs.map Prod.fst, fl := ls.zip (rs.map Prod.snd),
             cursors := some (e.x.cursors.set e.o.stream (cur + ls.length)) }

/-- The operation of an OP code (Table 06.4). -/
def laneFn : Nat → LEnv → M LRes
  | 0x01 => opAdd | 0x02 => opSub | 0x03 => opMul | 0x04 => opFma | 0x05 => opMax | 0x06 => opMin | 0x07 => opAbs | 0x08 => opNeg
  | 0x09 => opMov | 0x0A => opSel | 0x0B => opAnd | 0x0C => opOr | 0x0D => opXor | 0x0E => opShl | 0x0F => opShr | 0x10 => opSra
  | 0x11 => opCmp | 0x12 => opMlog | 0x13 => opMcount | 0x14 => opExp | 0x15 => opLog | 0x16 => opRcp | 0x17 => opRsqrt | 0x18 => opCvt
  | 0x20 => opScan | 0x21 => opSegscan | 0x22 => opCompress | 0x23 => opExpand | 0x28 => opLd | 0x29 => opLds | 0x2A => opAccld
  | 0x2C => opSt | 0x2D => opSts | 0x2E => opStc
  | _ => opNop

/-! Issue. -/

/-- The engine outside a VLANE: no streams, one row of one tile. -/
def VCtx.idle (core : Nat) : VCtx :=
  { d := ⟨0, 0, 0⟩, part := core / 16, core := core % 16, streams := [none, none, none, none], scal := [], rows := 1, dim0 := 0,
    row := 0, tile := 0, tiles := 1, cursors := [0, 0, 0, 0], accRow := 0 }

/-- Does COND exclude the operation in this tile (R125)? -/
def condOut (x : VCtx) (cond : Nat) : Bool :=
  let first := x.tile == 0
  match cond with
  | 1 => !first
  | 2 => x.tile + 1 != x.tiles
  | 3 => first
  | _ => false

/-- The sticky flags of the lanes once those of an operation are added (R50). -/
def addFlags (l : List Sticky) (fl : List (Nat × Sticky)) : List Sticky := fl.foldl (fun l p => l.set p.1 (l.getD p.1 0#5 ||| p.2)) l

/-- The flags of an engine ORed across its lanes (R50). -/
def Vec.flags (v : Vec) : Sticky := v.sticky.foldl (· ||| ·) 0#5

/-- One operation issues at the engine's clock, which then counts on (R127, R130). -/
def issueOp (c : Cx) (x : VCtx) (f : LEnv → M LRes) (o : LaneOp) (v0 : Vec) : M Vec := do
  let v := v0.settle
  if condOut x o.cond then return { v with clk := v.clk + 1 }
  else
    let r ← f ⟨c, x, o, v⟩
    return { v with clk := v.clk + 1, sticky := addFlags v.sticky r.fl, recent := v.recent ++ r.stores,
                    fly := (match r.land with
                      | some (lat, d, bits, val) => insLand ⟨v.clk + lat, v.clk, d, bits, val⟩ v.fly
                      | none => v.fly),
                    ctx := (match r.cursors with
                      | some cs => some { x with cursors := cs }
                      | none => v.ctx) }

def noProg : Prog := ⟨0#32, 0, 0, 0#64, 0, 0, [], [], [], [], [], 0, 0, [], false⟩

/-- The context of the VLANE that last ran on an engine. -/
def laneCx (s : State) (core : Nat) (x : VCtx) : Cx :=
  let dflt : Cx := { d := x.d, prog := noProg, w := [], parts := (match jobOf s (core / 16) with | some j => j.parts | none => []),
                     part := core / 16, cores := [core % 16], engine := 1, opcode := 0x08, bt := 0, hdr := [], core := core % 16 }
  match job? s x.d.lead with
  | none => dflt
  | some j => match runOf j x.d.step with
    | none => dflt
    | some r => match progOf j r.prog with
      | none => dflt
      | some p => { cxOf s j r p x.d.lead x.d.idx with core := core % 16 }

/-- A register operation on an engine: only the engine changes. -/
def laneReg (s : State) (core : Nat) (o : LaneOp) (f : LEnv → M LRes) : State :=
  let v := vec s core
  let x := v.ctx.getD (VCtx.idle core)
  match (issueOp (laneCx s core x) x f o v).run { s := s } with
  | (.ok v', _) => { s with free := s.free + 1, vecs := putT s.vecs core v' }
  | (.error _, _) => { s with free := s.free + 1 }

/-- A stream operation on an engine; its fault is the descriptor's if that one is still in flight. -/
def laneMem (s : State) (core : Nat) (o : LaneOp) (f : LEnv → M LRes) : State :=
  let v := vec s core
  let x := v.ctx.getD (VCtx.idle core)
  let c := laneCx s core x
  touchDesc s (match (issueOp c x f o v).run { s := s } with
    | (.ok v', y) => y.s.setVec core v'
    | (.error e, y) => if (dRunOf s x.d).stat.executing && e.code != 0 then (y.s.modD x.d (fun z => { z with stat := .faulted })).descFault c 0 e else y.s)

def execLaneNop (core : Nat) (o : LaneOp) (s : State) : Host.Outcome State Fault Refusal := .next (laneReg s core o opNop)
def execLaneAdd (core : Nat) (o : LaneOp) (s : State) : Host.Outcome State Fault Refusal := .next (laneReg s core o opAdd)
def execLaneSub (core : Nat) (o : LaneOp) (s : State) : Host.Outcome State Fault Refusal := .next (laneReg s core o opSub)
def execLaneMul (core : Nat) (o : LaneOp) (s : State) : Host.Outcome State Fault Refusal := .next (laneReg s core o opMul)
def execLaneFma (core : Nat) (o : LaneOp) (s : State) : Host.Outcome State Fault Refusal := .next (laneReg s core o opFma)
def execLaneMax (core : Nat) (o : LaneOp) (s : State) : Host.Outcome State Fault Refusal := .next (laneReg s core o opMax)
def execLaneMin (core : Nat) (o : LaneOp) (s : State) : Host.Outcome State Fault Refusal := .next (laneReg s core o opMin)
def execLaneAbs (core : Nat) (o : LaneOp) (s : State) : Host.Outcome State Fault Refusal := .next (laneReg s core o opAbs)
def execLaneNeg (core : Nat) (o : LaneOp) (s : State) : Host.Outcome State Fault Refusal := .next (laneReg s core o opNeg)
def execLaneMov (core : Nat) (o : LaneOp) (s : State) : Host.Outcome State Fault Refusal := .next (laneReg s core o opMov)
def execLaneSel (core : Nat) (o : LaneOp) (s : State) : Host.Outcome State Fault Refusal := .next (laneReg s core o opSel)
def execLaneAnd (core : Nat) (o : LaneOp) (s : State) : Host.Outcome State Fault Refusal := .next (laneReg s core o opAnd)
def execLaneOr (core : Nat) (o : LaneOp) (s : State) : Host.Outcome State Fault Refusal := .next (laneReg s core o opOr)
def execLaneXor (core : Nat) (o : LaneOp) (s : State) : Host.Outcome State Fault Refusal := .next (laneReg s core o opXor)
def execLaneShl (core : Nat) (o : LaneOp) (s : State) : Host.Outcome State Fault Refusal := .next (laneReg s core o opShl)
def execLaneShr (core : Nat) (o : LaneOp) (s : State) : Host.Outcome State Fault Refusal := .next (laneReg s core o opShr)
def execLaneSra (core : Nat) (o : LaneOp) (s : State) : Host.Outcome State Fault Refusal := .next (laneReg s core o opSra)
def execLaneCmp (core : Nat) (o : LaneOp) (s : State) : Host.Outcome State Fault Refusal := .next (laneReg s core o opCmp)
def execLaneMlog (core : Nat) (o : LaneOp) (s : State) : Host.Outcome State Fault Refusal := .next (laneReg s core o opMlog)
def execLaneMcount (core : Nat) (o : LaneOp) (s : State) : Host.Outcome State Fault Refusal := .next (laneReg s core o opMcount)
def execLaneExp (core : Nat) (o : LaneOp) (s : State) : Host.Outcome State Fault Refusal := .next (laneReg s core o opExp)
def execLaneLog (core : Nat) (o : LaneOp) (s : State) : Host.Outcome State Fault Refusal := .next (laneReg s core o opLog)
def execLaneRcp (core : Nat) (o : LaneOp) (s : State) : Host.Outcome State Fault Refusal := .next (laneReg s core o opRcp)
def execLaneRsqrt (core : Nat) (o : LaneOp) (s : State) : Host.Outcome State Fault Refusal := .next (laneReg s core o opRsqrt)
def execLaneCvt (core : Nat) (o : LaneOp) (s : State) : Host.Outcome State Fault Refusal := .next (laneReg s core o opCvt)
def execLaneScan (core : Nat) (o : LaneOp) (s : State) : Host.Outcome State Fault Refusal := .next (laneReg s core o opScan)
def execLaneSegscan (core : Nat) (o : LaneOp) (s : State) : Host.Outcome State Fault Refusal := .next (laneReg s core o opSegscan)
def execLaneCompress (core : Nat) (o : LaneOp) (s : State) : Host.Outcome State Fault Refusal := .next (laneReg s core o opCompress)
def execLaneExpand (core : Nat) (o : LaneOp) (s : State) : Host.Outcome State Fault Refusal := .next (laneReg s core o opExpand)
def execLaneLd (core : Nat) (o : LaneOp) (s : State) : Host.Outcome State Fault Refusal := .next (laneMem s core o opLd)
def execLaneLds (core : Nat) (o : LaneOp) (s : State) : Host.Outcome State Fault Refusal := .next (laneMem s core o opLds)
def execLaneAccld (core : Nat) (o : LaneOp) (s : State) : Host.Outcome State Fault Refusal := .next (laneReg s core o opAccld)
def execLaneSt (core : Nat) (o : LaneOp) (s : State) : Host.Outcome State Fault Refusal := .next (laneMem s core o opSt)
def execLaneSts (core : Nat) (o : LaneOp) (s : State) : Host.Outcome State Fault Refusal := .next (laneMem s core o opSts)
def execLaneStc (core : Nat) (o : LaneOp) (s : State) : Host.Outcome State Fault Refusal := .next (laneMem s core o opStc)

/-- RESULT_LAND: the engine's clock moves on to the next landing, and all results of that clock land (R130, R137, R138). -/
def execResultLand (core : Nat) (s : State) : Host.Outcome State Fault Refusal :=
  .next (match (vec s core).fly with
    | [] => s
    | l :: _ => s.setVec core ({ vec s core with clk := max (vec s core).clk l.lands }).settle)

/-! VLANE (R120 to R127). -/

/-- An operation word as OP and fields (Table 06.2). -/
def laneOpOf (lo hi : Word) : Nat × LaneOp :=
  (wfld lo 7 0, { d := wfld lo 13 8, a := wfld lo 19 14, b := wfld lo 25 20, c := wfld lo 31 26, msel := wfld hi 1 0, minv := wfld hi 2 2,
                  cond := wfld hi 4 3, ty := wfld hi 5 5, cvt := wfld hi 7 6, fmt := wfld hi 11 8, stream := wfld hi 13 12, part := wfld hi 15 14,
                  imm8 := wfld hi 23 16 })

def Cx.lprog (c : Cx) : List Word := c.prog.lanes.getD (wfld (wAt c.w 12) 11 0) []
def Cx.laneOps (c : Cx) : List (Nat × LaneOp) :=
  (List.range (wfld (wAt c.lprog 0) 6 0)).map (fun j => laneOpOf (wAt c.lprog (16 + 2 * j)) (wAt c.lprog (17 + 2 * j)))
def Cx.streamUsed (c : Cx) (k : Nat) : Bool := bitN (wfld (wAt c.lprog 0) 11 8) k || bitN (wfld (wAt c.lprog 0) 15 12) k
def vlSlots (c : Cx) : List Nat := (List.range 4).filter c.streamUsed

/-- Tiles to a row (R123). -/
def Cx.tilesPerRow (c : Cx) : Nat := ceilDiv ((c.t 0).dim 0) 64

/-- The tiles of an instance (R126). -/
def vlTiles (c : Cx) : List Nat :=
  let tpr := c.tilesPerRow
  let rows := outerSize (c.t 0)
  let n := nAt c.w 13
  let run := if n == 0 then rows * tpr else min n (rows * tpr)
  if wbit (wAt c.lprog 0) 16 then
    let (r0, k) := c.mine rows
    ((List.range (k * tpr)).map (· + r0 * tpr)).filter (· < run)
  else
    let (t0, k) := c.mine run
    (List.range k).map (· + t0)

/-- The engine at the start of a VLANE (R120): its flags stand since the start of the launch (R50; log entry 139). -/
def Vec.begin (v : Vec) (uid : Nat) : Vec := { clk := 12, sticky := if v.run == uid then v.sticky else List.replicate 64 0#5, run := uid }

/-- One tile iteration: MK0, then every operation in its issue slot. The engine's state is kept at the iteration's end, so that an
iteration that faults is run again from its start (Table 13.3). -/
def vlUnit (c : Cx) (u : Nat) : M PUnit := do
  let g := (vlTiles c).getD u 0
  let tpr := c.tilesPerRow
  let b := g % max tpr 1
  let d0 := (c.t 0).dim 0
  let old := vec (← getS) c.dcore
  let v0 : Vec := if u == 0 then old.begin c.uid else old
  let cur := if b == 0 then [0, 0, 0, 0] else match v0.ctx with | some x => x.cursors | none => [0, 0, 0, 0]
  let x : VCtx := { d := c.d, part := c.part, core := c.core,
                    streams := (List.range 4).map (fun k => if c.streamUsed k then some (c.t k) else none),
                    scal := (List.range 8).map (fun i => wAt c.w (14 + i)), rows := outerSize (c.t 0), dim0 := d0, row := g / max tpr 1,
                    tile := b, tiles := tpr, cursors := cur, accRow := wfld (wAt c.lprog 1) 10 0 }
  let n := if b + 1 == tpr then d0 - 64 * b else 64
  let v1 : Vec := { v0 with masks := v0.masks.set 0 (BitVec.ofNat 64 (2 ^ n - 1)), ctx := some x }
  let v ← c.laneOps.foldlM (fun (v : Vec) p => issueOp c (v.ctx.getD x) (laneFn p.1) p.2 v) v1
  modS (·.setVec c.dcore v)
  sticky v.flags

/-- VLANE (R119 to R140). -/
def execVlane (d : DescRef) (s : State) : Host.Outcome State Fault Refusal :=
  .next (descStep s d 0x08 (fun s c => runOp s c (vlSlots c) (fun c => (vlTiles c).length) vlUnit))

/-! SAMPLE (R141 to R145). -/

/-- Order-preserving key of an FP32 value (R145). -/
def fkey (w : Word) : Nat := (if w.msb then ~~~ w else w ^^^ 0x80000000#32).toNat

/-- Insert an index by descending key, equals in ascending index. -/
def insKey (ks : List Nat) (i : Nat) : List Nat → List Nat
  | [] => [i]
  | j :: t => if ks.getD j 0 < ks.getD i 0 then i :: j :: t else j :: insKey ks i t

/-- Index of the largest key, the lowest among equals. -/
def argKey (ks : List Nat) : Nat :=
  (ks.zipIdx.foldl (fun (m : Option (Nat × Nat)) (p : Nat × Nat) => match m with
    | none => some p
    | some q => if q.1 < p.1 then some p else some q) none).elim 0 Prod.snd

/-- Cumulative sums of weights, each in an order that is free (R131, R145). -/
def prefixSums (dr : Nat) (ws : List Word) : List Word := (List.range ws.length).map (fun i => anyOrderSum (dr * 2 ^ 24 + i) 0#32 (ws.take (i + 1)))

def fle (a b : Word) : Bool := (num32 a).lt (num32 b) || (num32 a).eqv (num32 b)

structure SampRow where
  token : Word
  logp : Word
  nv : Bool

/-- Draw a token from scaled logits `y` (R142 to R144): greedy or not, TOPK, TOPP, KMAX, `u` and the draw number. -/
def sampleRow (ys : List Word) (greedy : Bool) (topk kmax : Nat) (topp : Word) (u : Word) (dr : Nat) : SampRow :=
  let ks := ys.map fkey
  if ys.any isNan32 || ys.all (· == ninf32) then ⟨0xFFFFFFFF#32, qnan32, true⟩
  else match ys.findIdx? (· == pinf32) with
    | some i => ⟨BitVec.ofNat 32 i, 0#32, false⟩
    | none =>
      let mi := argKey ks
      let m := wAt ys mi
      let ws := ys.map (fun y => (fexp dr (fsub y m).1).1)
      let z := anyOrderSum dr 0#32 ws
      let tok : Nat :=
        if greedy then mi
        else
          let full := topk == 0 && (isNan32 topp || fle one32 topp)
          let cands : List Nat :=
            if full then List.range ys.length
            else
              let k := min (min (if 0 < topk then topk else kmax) kmax) ys.length
              let sorted := ((List.range ys.length).foldl (fun l i => insKey ks i l) []).take k
              if (num32 topp).lt (num32 one32) then
                let need := (fmul topp z).1
                match (prefixSums (dr + 1) (sorted.map (wAt ws))).findIdx? (fun c => fle need c) with
                | some n => sorted.take (n + 1)
                | none => sorted
              else sorted
          let cum := prefixSums (dr + 2) (cands.map (wAt ws))
          let lim := (fmul u (cum.getLastD 0#32)).1
          -- a weight of 0 is never drawn (R144)
          match (cum.zip cands).find? (fun (c, i) => (num32 lim).lt (num32 c) && (num32 0#32).lt (num32 (wAt ws i))) with
          | some (_, n) => n
          | none => ((cands.filter (fun i => (num32 0#32).lt (num32 (wAt ws i)))).getLast?).getD (cands.getLastD 0)
      ⟨BitVec.ofNat 32 tok, (fsub (fsub (wAt ys tok) m).1 (flog z).1).1, false⟩

def sampRows (c : Cx) : Nat × Nat := c.units (outerSize (c.t 0)) (wAt c.w 14)

/-- One row. -/
def sampUnit (c : Cx) (u : Nat) : M PUnit := do
  let row := (sampRows c).1 + u
  let t0 := c.t 0
  let mode1 := wfld (wAt c.w 12) 1 0 == 1
  let slot ← if mode1 then c.slotEnt row else pure []
  let xs ← (List.range (t0.dim 0)).mapM (fun v => do return (rnd32 (← c.elem t0 (foldIdx t0 v row))).1)
  let temp := SL.temp slot
  let topp := SL.topp slot
  let greedy := !mode1 || fle temp 0#32 || (match num32 temp with | .nan => true | .inf _ => true | _ => false) || fle topp 0#32
  let r := (frcp temp).1
  let ys := if greedy then xs else xs.map (fun x => (fmul x r).1)
  let bits := Config.sampleBits (wAt c.hdr 10) (SL.req slot) (SL.pos slot + SL.ntok slot - 1)
  let uW := (rnd32 (.fin false bits.toNat (-24))).1
  let res := sampleRow ys greedy (SL.topk slot) (wfld (wAt c.w 13) 15 0) topp uW (← drawM)
  if res.nv then sticky flNV else pure ()
  c.wrBits (c.t 2) [row, 0, 0, 0, 0] res.token.toNat
  if c.slotIdx 3 == 0 then pure () else c.wrBits (c.t 3) [row, 0, 0, 0, 0] res.logp.toNat

def execSample (d : DescRef) (s : State) : Host.Outcome State Fault Refusal :=
  .next (descStep s d 0x09 (fun s c => runOp s c ([0, 2] ++ (if c.slotIdx 3 == 0 then [] else [3])) (fun c => (sampRows c).2) sampUnit))

end Sys2Proof.Machine
end

