-- ==== Sys2Proof/Machine/Move.lean ====
section
/-! DEFINITION. DMA engine: MOVE, GATHER, SCATTER and the entropy codec (chapter 08). -/

namespace Sys2Proof.Machine

/-! MOVE (R179 to R186). -/

/-- Extent of dimension k, 1 at or above RANK. -/
def TView.ext (t : TView) (k : Nat) : Nat := if k < TV.rank t.w then t.dim k else 1
def TView.exts (t : TView) : List Nat := (List.range 5).map t.ext

/-- P(k) of R179. -/
def Cx.perm (c : Cx) (k : Nat) : Nat := wfld (wAt c.w 12) (3 * k + 2) (3 * k)

/-- Source index of a destination index. -/
def Cx.srcIdx (c : Cx) (j : List Nat) : List Nat :=
  (List.range 5).map (fun i => match (List.range 5).find? (fun k => c.perm k == i) with | some k => j.getD k 0 | none => 0)

/-- Is the destination position a pad position (R181)? -/
def Cx.isPad (c : Cx) (t0 : TView) (j : List Nat) : Bool := (List.range 5).any (fun k => decide (t0.ext (c.perm k) ≤ j.getD k 0))

/-- The dimension that instances split, and what one split unit holds (R186). -/
def splitDim (t2 : TView) : Nat := ((List.range 5).filter (fun k => decide (1 < t2.ext k))).getLastD 0
def splitUnit (t2 : TView) : Nat := if splitDim t2 != 0 then 1 else if fmtIsMx t2.fmt then 32 else if t2.fmt == 10 then 2 else 1

structure MoveShape where
  sd : Nat
  lo : Nat
  ext : List Nat

/-- The instance's part of the destination. -/
def Cx.movePart (c : Cx) (t2 : TView) : MoveShape :=
  let sd := splitDim t2
  let u := splitUnit t2
  let e := t2.ext sd
  let (lo, n) := c.mine (ceilDiv e u)
  { sd := sd, lo := lo * u, ext := t2.exts.set sd (min (n * u) (e - lo * u)) }

/-- Elements of a stop unit: one under ACC, else what 4 KiB of the destination holds, in whole blocks (Table 13.3). -/
def stopElems (acc : Bool) (t2 : TView) : Nat := if acc then 1 else max (32768 / max (fmtBits t2.fmt) 1 / 32 * 32) 32

/-- Extents of an instance's part in units of its writing: elements, or for an MX destination blocks of up to 32 elements of one row. -/
def MoveShape.units (m : MoveShape) (mx : Bool) : List Nat := if mx then m.ext.set 0 (ceilDiv (m.ext.headD 0) 32) else m.ext

/-- Units of writing in a stop unit. -/
def stopUnits (c : Cx) (t2 : TView) : Nat := if fmtIsMx t2.fmt then stopElems c.acc t2 / 32 else stopElems c.acc t2

def moveCount (c : Cx) : Nat :=
  let t2 := c.t 2
  ceilDiv (prodL ((c.movePart t2).units (fmtIsMx t2.fmt))) (stopUnits c t2)

/-- Value for a destination position: pad or source element; none when a suppressed pad. -/
def Cx.moveVal (c : Cx) (t0 t2 : TView) (j : List Nat) : M (Option Num) := do
  if c.isPad t0 j then
    if TV.padSup t2.w then return none else return some (padNum t0.w)
  else return some (← c.elem t0 (c.srcIdx j))

def Cx.putOne (c : Cx) (t0 t2 : TView) (j : List Nat) (v : Num) : M PUnit :=
  if c.acc then c.accPut t2 j c.cvt t0.fmt v else c.put t2 j c.cvt t0.fmt v

/-- A stop unit of MOVE. Where a bound DIM0 of an MX destination is no multiple of 32, the last block of a row has the elements that the extent
leaves it, and its scale is chosen over them (DESIGN CHOICE, log entry 134). -/
def moveUnit (c : Cx) (u : Nat) : M PUnit := do
  let t0 := c.t 0
  let t2 := c.t 2
  let mx := fmtIsMx t2.fmt
  let m := c.movePart t2
  let ext := m.units mx
  let g := stopUnits c t2
  (List.range (min g (prodL ext - u * g))).forM (fun i => do
    let j := unlinear ext (u * g + i)
    if mx then
      let j0 := 32 * j.headD 0
      let at_ (x : Nat) : List Nat := let j := j.set 0 (j0 + x); j.set m.sd (j.getD m.sd 0 + m.lo)
      let vs ← (List.range (min 32 (m.ext.headD 0 - j0))).mapM (fun x => do return ((← c.moveVal t0 t2 (at_ x)).getD (.fin false 0 0)))
      c.putBlock t2 (at_ 0) c.cvt vs
    else
      let j := j.set m.sd (j.getD m.sd 0 + m.lo)
      match ← c.moveVal t0 t2 j with
      | none => pure ()
      | some v => c.putOne t0 t2 j v)

def execMove (d : DescRef) (s : State) : Host.Outcome State Fault Refusal :=
  .next (descStep s d 0x10 (fun s c => runOp s c [0, 2] moveCount moveUnit))

/-! GATHER and SCATTER (R187 to R190). -/

def Cx.axis (c : Cx) : Nat := wfld (wAt c.w 12) 2 0
def Cx.oob (c : Cx) : Nat := wfld (wAt c.w 12) 5 4

/-- Elements of one slice: the extents with the axis removed. -/
def sliceElems (t : TView) (a : Nat) : Nat := prodL (t.exts.set a 1)

/-- Stop units: indices, or under ACC elements (Table 13.3). -/
def gsCount (c : Cx) (dense : TView) : Nat :=
  let n := (c.mine ((c.t 1).dim 0)).2
  if c.acc then n * sliceElems dense c.axis else n

/-- Index position, and the slice positions of a stop unit. -/
def gsPlace (c : Cx) (dense : TView) (u : Nat) : Nat × List Nat :=
  let lo := (c.mine ((c.t 1).dim 0)).1
  let k := sliceElems dense c.axis
  if c.acc then (lo + u / max k 1, [u % max k 1]) else (lo + u, List.range k)

/-- What an index selects (R188): a slice, the pad value or nothing. -/
def Cx.gsIndex (c : Cx) (t : TView) (p : Nat) : M (Option Nat) := do
  let x := BitVec.ofNat 32 (← c.rdBits (c.t 1) [p, 0, 0, 0, 0])
  let e := t.ext c.axis
  if 0 ≤ x.toInt && x.toInt < e then return some x.toNat
  else match c.oob with
    | 0 => stop { code := 0x3103, detail := p }
    | 2 => return some (if x.toInt < 0 then 0 else e - 1)
    | _ => return none

def gatherUnit (c : Cx) (u : Nat) : M PUnit := do
  let t0 := c.t 0
  let t2 := c.t 2
  let (p, ks) := gsPlace c t2 u
  let x ← c.gsIndex t0 p
  ks.forM (fun k => do
    let j := (unlinear (t2.exts.set c.axis 1) k).set c.axis p
    let v ← match x with
      | some i => c.elem t0 (j.set c.axis i)
      | none => pure (padNum t0.w)
    c.putOne t0 t2 j v)

def scatterUnit (c : Cx) (u : Nat) : M PUnit := do
  let t0 := c.t 0
  let t2 := c.t 2
  let (p, ks) := gsPlace c t0 u
  match ← c.gsIndex t2 p with
  | none => pure ()
  | some x =>
    ks.forM (fun k => do
      let j := (unlinear (t0.exts.set c.axis 1) k).set c.axis p
      c.putOne t0 t2 (j.set c.axis x) (← c.elem t0 j))

def execGather (d : DescRef) (s : State) : Host.Outcome State Fault Refusal :=
  .next (descStep s d 0x11 (fun s c => runOp s c [0, 1, 2] (fun c => gsCount c (c.t 2)) gatherUnit))

def execScatter (d : DescRef) (s : State) : Host.Outcome State Fault Refusal :=
  .next (descStep s d 0x12 (fun s c => runOp s c [0, 1, 2] (fun c => gsCount c (c.t 0)) scatterUnit (seq := !c.acc)))

/-! CODEC_SCAN (R198). -/

/-- Is the raw image of a step's extents the tensor's stored bytes? A bound extent below a dimension that has elements leaves gaps between rows. -/
def TView.packed (t : TView) : Bool :=
  t.dims == TV.dims t.w || (List.range 5).all (fun k => k ≤ TV.bdim t.w || t.dims.getD k 1 ≤ 1)

/-- Bytes of the element plane of a raw image, element by element in dense order (R196). -/
def Cx.planeBytes (c : Cx) (t : TView) (x n : Nat) : M (List Byte) := do
  let b := max (fmtBits t.fmt) 1
  let e0 := 8 * x / b
  let e1 := min (ceilDiv (8 * (x + n)) b) t.elems
  let vs ← (List.range (e1 - e0)).mapM (fun i => c.rdBits t (unlinear t.dims (e0 + i)))
  return natBytes n (vs.foldr (fun v a => v + 2 ^ b * a) 0 / 2 ^ (8 * x - e0 * b))

/-- The raw image of an uncompressed dense tensor, `n` bytes from `x` (R196): element plane, rounded up to 256 B, then scale plane. -/
def Cx.rawBytes (c : Cx) (t : TView) (x n : Nat) : M (List Byte) := do
  let p := TV.part t.w
  if !t.packed then
    let plane := if fmtIsMx t.fmt then roundUp (ceilDiv (t.elems * fmtBits t.fmt) 8) 256 else x + n
    let a ← if x < plane then c.planeBytes t x (min n (plane - x)) else pure []
    let y := max x plane
    let sc ← (List.range (x + n - y)).mapM (fun i => c.rdT t (t.scaleAddr (unlinear t.dims (32 * (y - plane + i)))) 1)
    return a ++ sc.flatten
  else if fmtIsMx t.fmt then
    let plane := roundUp (ceilDiv (t.elems * fmtBits t.fmt) 8) 256
    let a ← if x < plane then c.rd t.space p ((t.base : Int) + x) (min n (plane - x)) else pure []
    let y := max x plane
    let b ← if plane < x + n then c.rd t.space p ((t.base : Int) + scaleOff t.w + (y - plane)) (x + n - y) else pure []
    return a ++ b
  else c.rd t.space p ((t.base : Int) + x) n

/-- Symbols of raw bytes (R197). -/
def symsOf (symw : Nat) (bs : List Byte) : List Nat :=
  if symw == 1 then (bs.map (fun b => [b.toNat % 16, b.toNat / 16])).flatten else bs.map (·.toNat)

/-- A node of the length construction: weight, least symbol, leaves with their depths. -/
structure HNode where
  w : Nat
  s : Nat
  leaves : List (Nat × Nat)

def HNode.lt (a b : HNode) : Bool := a.w < b.w || (a.w == b.w && a.s < b.s)

def insNode (x : HNode) : List HNode → List HNode
  | [] => [x]
  | y :: t => if y.lt x then y :: insNode x t else x :: y :: t

/-- Merge the two least nodes until one is left. -/
def mergeNodes : Nat → List HNode → List HNode
  | 0, l => l
  | n + 1, x :: y :: t =>
    mergeNodes n (insNode ⟨x.w + y.w, min x.s y.s, (x.leaves ++ y.leaves).map (fun p => (p.1, p.2 + 1))⟩ t)
  | _ + 1, l => l

/-- Shorten the Kraft sum to 4,096: lengthen the symbol of greatest length below 12, then least count, then greatest symbol. -/
def fitKraft (counts : List Nat) : Nat → List Nat → List Nat
  | 0, ls => ls
  | n + 1, ls =>
    let k := (ls.filter (0 < ·)).foldl (fun a l => a + 2 ^ (12 - l)) 0
    if k ≤ 4096 then ls
    else
      let cand := (ls.zipIdx.filter (fun p => 0 < p.1 && p.1 < 12))
      let better (p q : Nat × Nat) : Bool :=
        p.1 > q.1 || (p.1 == q.1 && (counts.getD p.2 0 < counts.getD q.2 0 || (counts.getD p.2 0 == counts.getD q.2 0 && p.2 > q.2)))
      match cand with
      | [] => ls
      | h :: t =>
        let b := t.foldl (fun m p => if better p m then p else m) h
        fitKraft counts n (ls.set b.2 (b.1 + 1))

/-- Code lengths of R198 from the counts. -/
def codeLens (counts : List Nat) : List Nat :=
  let pres := counts.zipIdx.filter (fun p => 0 < p.1)
  let z := counts.map (fun _ => 0)
  match pres with
  | [] => z
  | [p] => z.set p.2 1
  | _ =>
    let nodes := pres.foldl (fun l p => insNode ⟨p.1, p.2, [(p.2, 0)]⟩ l) []
    let ls := (mergeNodes 256 nodes).foldl (fun z n => n.leaves.foldl (fun z p => z.set p.1 (min p.2 12)) z) z
    fitKraft counts 4096 ls

/-- The 256-byte table (Table 08.8). -/
def tableBytes (symw : Nat) (counts lens : List Nat) : List Byte :=
  let total := counts.foldl (· + ·) 0
  let bits := (counts.zip lens).foldl (fun a p => a + p.1 * p.2) 0
  natBytes 4 0x4B574354 ++ natBytes 4 (symw + 12 * 256) ++ natBytes 4 (lens.filter (0 < ·)).length ++ natBytes 4 0 ++ natBytes 8 total ++
  natBytes 8 bits ++ natBytes 32 0 ++ (List.range 128).map (fun i => BitVec.ofNat 8 (lens.getD (2 * i) 0 + 16 * lens.getD (2 * i + 1) 0)) ++ natBytes 64 0

def countSyms (symw : Nat) (bs : List Byte) : List Nat :=
  (symsOf symw bs).foldl (fun cs x => cs.set x (cs.getD x 0 + 1)) (List.replicate (if symw == 1 then 16 else 256) 0)

def scanUnit (c : Cx) (_ : Nat) : M PUnit := do
  let t0 := c.t 0
  let symw := wfld (wAt c.w 12) 0 0
  let bs ← c.rawBytes t0 0 (rawSize t0.w t0.elems)
  let counts := countSyms symw bs
  let t2 := c.t 2
  let tab := tableBytes symw counts (codeLens counts)
  if TV.stride t2.w 0 == 1 then c.wr t2.space (TV.part t2.w) t2.base tab
  else tab.zipIdx.forM (fun (b, i) => c.wrBits t2 [i, 0, 0, 0, 0] b.toNat)

def execCodecScan (d : DescRef) (s : State) : Host.Outcome State Fault Refusal :=
  .next (descStep s d 0x14 (fun s c => runOp s c [0, 2] (fun _ => 1) scanUnit))

/-! CODEC_ENC (R200, R201). -/

/-- Code bits as bytes, each byte filled from bit 0 upward. -/
def packBits : Nat → List Bool → List Byte
  | 0, _ => []
  | n + 1, l => BitVec.ofNat 8 ((l.take 8).zipIdx.foldl (fun a p => a + b2n p.1 * 2 ^ p.2) 0) :: packBits n (l.drop 8)

/-- An encoded block: its stored bytes and whether they are raw (R200). A length above 12 has no code by R199 and counts as absent (log entry 17). -/
def encBlock (tab : CodeTab) (raw : List Byte) : List Byte × Bool :=
  let codes := canonCodes tab.lens
  let syms := symsOf tab.symw raw
  if syms.any (fun s => tab.lens.getD s 0 == 0 || 12 < tab.lens.getD s 0) then (raw, true)
  else
    let bits := (syms.map (fun s => match codes.find? (fun q => q.2.2 == s) with
      | some (l, c, _) => (List.range l).map (fun i => bitN c (l - 1 - i))
      | none => [])).flatten
    let c := ceilDiv bits.length 8
    if roundUp c 64 < roundUp raw.length 64 then (packBits c bits, false) else (raw, true)

def Cx.tabOf (c : Cx) (t : TView) : M (CodeTab × List Byte) := do
  let bs ← c.rd 0 0 t.table 256
  return (codeTab bs (wfld (wAt (c.prog.codecs.getD (TV.codec t.w) []) 3) 0 0), bs)

/-- Stored length and RAW of an earlier block, from its raw bytes. -/
def Cx.encAt (c : Cx) (tab : CodeTab) (t0 : TView) (r b : Nat) : M (List Byte × Bool) := do
  return encBlock tab (← c.rawBytes t0 (4096 * b) (blkRaw r b))

/-- Stop units: the blocks in order, then index and header. -/
def encUnit (c : Cx) (u : Nat) : M PUnit := do
  let t0 := c.t 0
  let t2 := c.t 2
  let p := TV.part t2.w
  let r := rawSize t0.w t0.elems
  let nb := codecNB r
  let (tab, tabBs) ← c.tabOf t2
  -- places of the blocks before this one follow from the source again
  let x ← get
  let ents ← (List.range u).mapM (fun b => c.encAt tab t0 r b)
  modify (fun y => { y with bytes := x.bytes, s := x.s })
  let offs := ents.foldl (fun (l : List Nat × Nat) e => (l.1 ++ [l.2], l.2 + ceilDiv e.1.length 64)) ([], 0)
  if u < nb then
    let (st, _) ← c.encAt tab t0 r u
    c.wr t2.space p ((t2.base : Int) + codecDstart nb + 64 * offs.2) (padTo (roundUp st.length 64) st)
  else
    let idx := ((ents.zip offs.1).map (fun (e, o) => natBytes 4 o ++ natBytes 4 (e.1.length + b2n e.2 * 65536))).flatten
    c.wr t2.space p ((t2.base : Int) + 64) (padTo (codecDstart nb - 64) idx)
    c.wr t2.space p t2.base (natBytes 4 0x4B574358 ++ natBytes 6 r ++ natBytes 2 0 ++ natBytes 4 nb ++ natBytes 4 (64 * offs.2) ++
      natBytes 4 (12 * 256 + tab.symw) ++ (sha3 tabBs).take 8 ++ natBytes 32 0)

/-- Does another descriptor hold the partition's encoder (R201)? -/
def encBusy (s : State) (c : Cx) : Bool :=
  match (part s c.part).encoder with
  | some d => d != c.d && (match (dRunOf s d).stat with | .running => true | .faulted => true | .resumed => true | _ => false)
  | none => false

def encRun (s : State) (c : Cx) : State :=
  if encBusy s c then s
  else
    let s := s.modPart c.part (fun q => { q with encoder := some c.d })
    let s := runOp s c [0, 2] (fun c => codecNB (rawSize (c.t 0).w (c.t 0).elems) + 1) encUnit
    if (dRunOf s c.d).stat == .ran then s.modPart c.part (fun q => { q with encoder := none }) else s

def execCodecEnc (d : DescRef) (s : State) : Host.Outcome State Fault Refusal := .next (descStep s d 0x15 encRun)

/-! CODEC_DEC (R202, R204). -/

/-- Write bytes of an element plane, from image byte x on, to the elements they are, an element cut by the end of the bytes in part. -/
def Cx.putPlane (c : Cx) (t2 : TView) (x : Nat) (bs : List Byte) : M PUnit := do
  let b := max (fmtBits t2.fmt) 1
  let z := 8 * (x + bs.length)
  let e0 := 8 * x / b
  let v := leNat bs * 2 ^ (8 * x - e0 * b)
  (List.range (min (ceilDiv z b) t2.elems - e0)).forM (fun i => do
    let idx := unlinear t2.dims (e0 + i)
    let new := v / 2 ^ (b * i) % 2 ^ b
    let lo := 8 * x - (e0 + i) * b
    let hi := min b (z - (e0 + i) * b)
    if lo == 0 && hi == b then c.wrBits t2 idx new
    else c.wrBits t2 idx (setFld (← c.rdBits t2 idx) (hi - 1) lo (new / 2 ^ lo)))

/-- Write bytes of a raw image, from image byte x on, to the elements they are. -/
def Cx.putImage (c : Cx) (t2 : TView) (x : Nat) (bs : List Byte) : M PUnit := do
  let bits := fmtBits t2.fmt
  let p := TV.part t2.w
  if fmtIsMx t2.fmt && !t2.packed then
    let plane := ceilDiv (t2.elems * bits) 8
    let sc := roundUp plane 256
    c.putPlane t2 x (bs.take (plane - x))
    (bs.drop (max x sc - x)).zipIdx.forM (fun (b, i) => c.wrT t2 (t2.scaleAddr (unlinear t2.dims (32 * (max x sc - sc + i)))) [b])
  else if fmtIsMx t2.fmt then
    let plane := ceilDiv (t2.elems * bits) 8
    let sc := roundUp plane 256
    if x < plane then c.wr t2.space p ((t2.base : Int) + x) (bs.take (plane - x)) else pure ()
    if sc < x + bs.length then
      c.wr t2.space p ((t2.base : Int) + scaleOff t2.w + (max x sc - sc)) (bs.drop (sc - x)) else pure ()
  else c.putPlane t2 x bs

/-- A decoded block goes to its place in the destination. -/
def decUnit (c : Cx) (u : Nat) : M PUnit := do
  let t0 := c.t 0
  let b := (c.mine (codecNB (rawSize t0.w t0.elems))).1 + u
  c.putImage (c.t 2) (4096 * b) (← c.rdBlock t0 b)

def execCodecDec (d : DescRef) (s : State) : Host.Outcome State Fault Refusal :=
  .next (descStep s d 0x16 (fun s c => runOp s c [0, 2] (fun c => (c.mine (codecNB (rawSize (c.t 0).w (c.t 0).elems))).2) decUnit))

end Sys2Proof.Machine
end

