-- ==== Sys2Proof/Machine/Crema.lean ====
section
/-! DEFINITION. Crema units: the command stream, every command, CREMA_SEQ, CREMA_GEMV, budget, ramp and refresh breaks (chapter 10). -/

namespace Sys2Proof.Machine

/-- The pseudo-channel set of a descriptor (W11). -/
def Cx.pcset (c : Cx) : List Nat :=
  match wfld (wAt c.w 11) 31 20 with
  | 0 => []
  | 1 => jobPcs c.parts
  | n + 2 => let e := c.prog.pcsets.getD n []; (List.range 1280).filter (fun pc => wbit (wAt e (pc / 32)) (pc % 32))

/-! The accumulator file (R238). -/

def cafKey (pc row lane : Nat) : Nat := (pc * 1536 + row) * 64 + lane

/-- A lane of an accumulator row; a row that nothing earlier in this launch of the step wrote reads unspecified (R238). -/
def Cx.cafLane (c : Cx) (pc row lane : Nat) : M Word := do
  let s ← getS
  match getT s.mem.caf (cafKey pc row lane) with
  | some a => if a.run == c.uid then return a.val else return Config.freeWord s.free (← fresh)
  | none => return Config.freeWord s.free (← fresh)

def Cx.setCaf (c : Cx) (pc row lane : Nat) (v : Word) : M PUnit :=
  modS (fun s => { s with mem := { s.mem with caf := putT s.mem.caf (cafKey pc row lane) ⟨c.uid, v⟩ } })

/-- Apply a function to the 64 lanes of the rows it names. -/
def rowWise (f : Nat → M PUnit) : M PUnit := (List.range 64).forM f

/-! Memory operands. -/

/-- The check of R251 for a segment: in the unit's own pseudo-channel, Crema class, not under a fill. -/
def cremaKey (s : State) (pc a : Nat) : Option Nat :=
  match bankKey s a with
  | some k => if keyPc k == pc && fillIdx s != some (keyBg k) then some k else none
  | none => none

/-- A segment may be accessed: class check (R252), then the RAT with CRM (R216). -/
def Cx.cremaAccess (c : Cx) (pc a : Nat) : M Nat := do
  let s ← getS
  match cremaKey s pc a with
  | none => stop { code := 0x2001, addr := a, pc := pc, resumable := false }
  | some k => if !ratOk s 6 c.parts.contains c.parts.contains a then stop { code := 0x1001, addr := a, pc := pc } else return k

/-- Count a segment of a unit (Table 10.9, STK_CREMABYTES) and its activation. -/
def State.noteSeg (s : State) (pc k n : Nat) : State :=
  (((s.addWide .stk (pc / 64) 0x050 n).addWide .crm (pc / 64) (0x1010 + 32 * (pc % 64)) (b2n (k % 64 == 0 || n == 64))).activate k)

def Cx.cremaRead (c : Cx) (pc : Nat) (a : Int) (n : Nat) : M (List Byte) := do
  if a < 0 then Cx.badAddr a
  else (segRuns a.toNat n).foldlM (fun acc (x, m) => do
    let k ← c.cremaAccess pc x
    modS (·.noteSeg pc k m)
    return acc ++ getBs (← getS).mem.dram k m) []

/-- Bytes of one segment straight to DRAM, the spare bits of every word that they touch zero (R251). -/
def State.cremaPut (s : State) (pc k : Nat) (bs : List Byte) : State :=
  let s := (s.unseal k).noteSeg pc k bs.length
  { s with mem := { s.mem with dram := putBs s.mem.dram k bs, synd := clearSynd s.mem.synd k bs.length } }

/-- A write of a unit (R251). -/
def Cx.cremaWrite (c : Cx) (pc : Nat) (a : Int) (bs : List Byte) : M PUnit := do
  if a < 0 then Cx.badAddr a
  else
    let _ ← (segRuns a.toNat bs.length).foldlM (fun (rest : List Byte) (x, m) => do
      let k ← c.cremaAccess pc x
      modS (·.cremaPut pc k (rest.take m))
      return rest.drop m) bs

/-- Index of column l of row r of a tensor operand: a row is one index of dimensions 1 and up. -/
def operIdx (t : TView) (r l : Nat) : List Nat := l :: unlinear (t.dims.drop 1) r

/-- Row r of a memory operand, 64 values with MX scales applied (R243). -/
def Cx.cremaRow (c : Cx) (pc : Nat) (o : COperand) (r : Nat) : M (List Num) := do
  match o with
  | .tensor t =>
    let (a, _) := t.bitAddr (operIdx t r 0)
    let b := fmtBits t.fmt
    let bs ← c.cremaRead pc a (8 * b)
    let el (l : Nat) : Nat := leNat ((bs.drop (l * b / 8)).take 4) / 2 ^ (l * b % 8) % 2 ^ b
    if fmtIsMx t.fmt then
      let sc ← c.cremaRead pc (t.scaleAddr (operIdx t r 0)) 2
      return (List.range 64).map (fun l => decodeMx t.fmt (byteAt sc (l / 32)) (el l))
    else return (List.range 64).map (fun l => decodeElem t.fmt (el l))
  | .tile base fmt sb =>
    let b := fmtBits fmt
    let bs ← c.cremaRead pc (base + 8 * b * r : Nat) (8 * b)
    let el (l : Nat) : Nat := leNat ((bs.drop (l * b / 8)).take 4) / 2 ^ (l * b % 8) % 2 ^ b
    if fmtIsMx fmt then
      let sc ← c.cremaRead pc (sb + 2 * r : Nat) 2
      return (List.range 64).map (fun l => decodeMx fmt (byteAt sc (l / 32)) (el l))
    else return (List.range 64).map (fun l => decodeElem fmt (el l))
  | _ => return List.replicate 64 (.fin false 0 0)

/-- Scalar `i` of the command's preload. -/
def scalarOf (buf : List Byte) (q : CCmd) (i : Nat) : Num :=
  let w := fmtBits q.xfmt / 8
  decodeElem q.xfmt (leAt buf (q.xbase + w * i) w)

def bits32 (v : Num) : Word := (rnd32 v).1
/-- a × b, or a × b + c, exact before one rounding (R245); no flag (R42). -/
def prod32 (a b : Num) : Word := (fin32 (mulNum a b)).1
def fma32 (a b c : Num) : Word := (fin32 (ffmaNum a b c)).1
/-- a × b + c × d with one rounding. -/
def mad32 (a b c d : Num) : Word :=
  if a == .nan || b == .nan || c == .nan || d == .nan then qnan32 else (fin32 (addNum (mulNum a b).1 (mulNum c d).1)).1

def nthN (l : List Num) (i : Nat) : Num := l.getD i (.fin false 0 0)

/-! The commands (Table 10.3). -/

/-- What a command runs with: its descriptor's context, unit, piece. -/
structure CEnv where
  c : Cx
  pc : Nat
  piece : Piece
  q : CCmd

def CEnv.get (e : CEnv) (row lane : Nat) : M Word := e.c.cafLane e.pc row lane
def CEnv.put (e : CEnv) (row lane : Nat) (v : Word) : M PUnit := e.c.setCaf e.pc row lane v

/-- Targets that this command has already written, for AXPY0: rows first written at stream row 0 of each pipe, or, stepping, at every row. -/
def firstWrite (q : CCmd) (i p : Nat) : Bool :=
  let t := q.d + p * q.dp + (if q.stepd then i else 0)
  -- earlier (i', p') with the same target
  !((List.range (q.np + 1)).any (fun p' =>
      if q.stepd then
        let b := q.d + p' * q.dp
        decide (b ≤ t) && (decide (t - b < i) || (decide (t - b = i) && decide (p' < p)))
      else decide (q.d + p' * q.dp = t) && (decide (0 < i) || decide (p' < p))))

/-- Scalars of a stream row. -/
def CCmd.scalars (q : CCmd) : Nat := if q.xstep == 0 then q.np + 1 else q.xstep

def streamCmd (e : CEnv) : M PUnit :=
  (List.range e.q.count).forM (fun i => do
    let v ← e.c.cremaRow e.pc e.q.opnd (e.q.mrow + i)
    (List.range (e.q.np + 1)).forM (fun p => do
      let t := e.q.d + p * e.q.dp + (if e.q.stepd then i else 0)
      let x := scalarOf e.piece.inbuf e.q (e.q.xoff + i * e.q.scalars + p)
      rowWise (fun l => do
        let y := nthN v l
        match e.q.fn with
        | 0 => e.put t l (fma32 x y (num32 (← e.get t l)))
        | 1 => if firstWrite e.q i p then e.put t l (prod32 x y) else e.put t l (fma32 x y (num32 (← e.get t l)))
        | 2 => e.put t l (fin32 (addNum (num32 (← e.get t l)) y)).1
        | 3 => e.put t l (fmaxW (← e.get t l) (bits32 y))
        | 4 => e.put t l (mad32 (num32 (← e.get t l)) (num32 (← e.get (e.q.a + p) l)) (num32 (← e.get (e.q.b + p) l)) y)
        | 5 => e.put t l (prod32 (num32 (← e.get (e.q.b + p) l)) y)
        | _ => e.put t l (bits32 y))))

/-- Lane l of row r of a ROW command. -/
def CEnv.rowVal (e : CEnv) (r l : Nat) : M Word := do
  let q := e.q
  match q.fn with
  | 0 => return (fadd (← e.get (q.a + r) l) (← e.get (q.b + r) l)).1
  | 1 => return (fsub (← e.get (q.a + r) l) (← e.get (q.b + r) l)).1
  | 2 => return (fmul (← e.get (q.a + r) l) (← e.get (q.b + r) l)).1
  | 3 => return (ffma (← e.get (q.a + r) l) (← e.get (q.b + r) l) (← e.get (q.d + r) l)).1
  | 4 => return fmaxW (← e.get (q.a + r) l) (← e.get (q.b + r) l)
  | 5 => return fminW (← e.get (q.a + r) l) (← e.get (q.b + r) l)
  | 6 => e.get (q.a + r) l
  | 7 => return q.imm
  | 8 => return (fmul (← e.get (q.a + r) l) q.imm).1
  | 9 => return (fadd (← e.get (q.a + r) l) q.imm).1
  -- z = z * a + p of R250, which no program's command expresses: D * A + B with one rounding
  | 16 => return (ffma (← e.get (q.d + r) l) (← e.get (q.a + r) l) (← e.get (q.b + r) l)).1
  | _ => if l < wfld q.imm 6 0 || wfld q.imm 14 8 ≤ l then return ninf32 else e.get (q.a + r) l

def rowCmd (e : CEnv) : M PUnit :=
  (List.range e.q.count).forM (fun r => rowWise (fun l => do e.put (e.q.d + r) l (← e.rowVal r l)))

/-- Lane l of row r of an ACT command. -/
def CEnv.actVal (e : CEnv) (r l : Nat) : M Word := do
  let a ← e.get (e.q.a + r) l
  let dr ← drawM
  match e.q.fn with
  | 0 => return (fexp dr a).1
  | 1 =>
    let b ← e.get (e.q.b + r) l
    if a == ninf32 then return 0#32 else return (fexp dr (fsub a b).1).1
  | 2 => return (frcp a).1
  | 3 => return (frsqrt a).1
  | 4 => return (flog a).1
  | 5 => return (siluW dr a).1
  | _ => return (geluW dr a).1

def actCmd (e : CEnv) : M PUnit :=
  (List.range e.q.count).forM (fun r => rowWise (fun l => do e.put (e.q.d + r) l (← e.actVal r l)))

/-- The fold of row r: sums start from +0 and take an order that is free. -/
def CEnv.foldVal (e : CEnv) (r : Nat) : M Word := do
  let as ← (List.range 64).mapM (fun l => e.get (e.q.a + r) l)
  let dr ← drawM
  match e.q.fn % 4 with
  | 0 => return anyOrderSum dr 0#32 as
  | 1 => return as.foldl fmaxW ninf32
  | _ =>
    let ws ← (List.range 64).mapM (fun l => e.get (e.q.b + r / max e.q.xoff 1) l)
    return seqSum 0#32 (shuffle dr ((as.zip ws).map (fun p => (mulNum (num32 p.1) (num32 p.2)).1)))

def foldCmd (e : CEnv) : M PUnit :=
  (List.range e.q.count).forM (fun r => do
    let v ← e.foldVal r
    if bitN e.q.fn 2 then rowWise (fun l => e.put (e.q.d + r) l v)
    else e.put (e.q.d + r / 64) (r % 64) v)

/-- A row converted to a format under CVT, as bytes; no flag. -/
def CEnv.rowBytes (e : CEnv) (fmt row : Nat) : M (List Byte) := do
  let es ← (List.range 64).mapM (fun l => do
    let v ← e.get row l
    return (cvtElem fmt e.q.cvt 0 (← srDraw) (num32 v)).1)
  return (es.map (natBytes (fmtBits fmt / 8))).flatten

def storeCmd (e : CEnv) : M PUnit :=
  match e.q.opnd with
  | .tensor t => (List.range e.q.count).forM (fun r => do
      let bs ← e.rowBytes t.fmt (e.q.a + r)
      e.c.cremaWrite e.pc (t.bitAddr (operIdx t (e.q.mrow + r) 0)).1 bs)
  | _ => pure ()

/-- Bytes into a partition buffer of the job (R26). -/
def emitBytes (p : Nat) (a : Int) (bs : List Byte) : M PUnit :=
  if a < 0 || 0x2000000 < a.toNat + bs.length then Cx.badAddr a else modS (·.putPbuf p a.toNat bs)

def CEnv.emitRow (e : CEnv) (t : TView) (idx : Nat → List Nat) (row : Nat) : M PUnit := do
  rowWise (fun l => do
    let v ← e.get row l
    let (b, _) := cvtElem t.fmt e.q.cvt 0 (← srDraw) (num32 v)
    emitBytes (TV.part t.w) (t.bitAddr (idx l)).1 (natBytes (fmtBits t.fmt / 8) b))

/-- A result record (Table 07.8): head k from rows A + k, B + k and D + k × GRP on. -/
def CEnv.record (e : CEnv) : M (List Byte) := do
  let grp := e.q.xoff
  let hs ← (List.range (e.q.np + 1)).mapM (fun k => do
    let m ← e.get (e.q.a + k) 0
    let z ← e.get (e.q.b + k) 0
    let o ← (List.range (64 * grp)).mapM (fun d => e.get (e.q.d + k * grp + d / 64) (d % 64))
    return wordsBytes (m :: z :: o))
  return hs.flatten

def emitCmd (e : CEnv) : M PUnit := do
  if e.q.fn == 1 then
    let r ← e.record
    match e.q.opnd with
    | .slot p off size => emitBytes p off (padTo size r)
    | .tensor t => emitBytes (TV.part t.w) ((t.base : Int) + 64 * e.q.mrow) (padTo (roundUp r.length 64) r)
    | _ => pure ()
  else
    (List.range e.q.count).forM (fun r => match e.q.opnd with
      | .tensor t => e.emitRow t (operIdx t (e.q.mrow + r)) (e.q.a + r)
      | .gout t p o => e.emitRow t (fun l => [64 * (e.q.mrow + r) + l, p, o, 0, 0]) (e.q.a + r)
      | _ => pure ())

/-! Execution (R246). -/

/-- Lanes: 0 memory, 1 row, 2 output, 3 none. -/
def laneKind (op : Nat) : Nat :=
  match op with
  | 1 => 0 | 5 => 0 | 2 => 1 | 3 => 1 | 4 => 1 | 6 => 2 | _ => 3

/-- Row ranges (first, count) that a command reads and writes. -/
def rowsRead (q : CCmd) : List (Nat × Nat) :=
  let pipes (b n : Nat) : List (Nat × Nat) := (List.range (q.np + 1)).map (fun p => (b + p, n))
  let tgt : List (Nat × Nat) := (List.range (q.np + 1)).map (fun p => (q.d + p * q.dp, if q.stepd then q.count else 1))
  match q.op with
  | 1 => (match q.fn with
    | 4 => tgt ++ pipes q.a 1 ++ pipes q.b 1
    | 5 => pipes q.b 1
    | 6 => []
    | _ => tgt)
  | 2 => (match q.fn with
    | 7 => []
    | 3 => [(q.a, q.count), (q.b, q.count), (q.d, q.count)]
    | 16 => [(q.a, q.count), (q.b, q.count), (q.d, q.count)]
    | n => if n < 6 then [(q.a, q.count), (q.b, q.count)] else [(q.a, q.count)])
  | 3 => if q.fn == 1 then [(q.a, q.count), (q.b, q.count)] else [(q.a, q.count)]
  | 4 => (q.a, q.count) :: (if q.fn % 4 == 2 then [(q.b, ceilDiv q.count (max q.xoff 1))] else [])
  | 5 => [(q.a, q.count)]
  | 6 => if q.fn == 1 then [(q.a, q.np + 1), (q.b, q.np + 1), (q.d, (q.np + 1) * q.xoff)] else [(q.a, q.count)]
  | _ => []

def rowsWritten (q : CCmd) : List (Nat × Nat) :=
  match q.op with
  | 1 => (List.range (q.np + 1)).map (fun p => (q.d + p * q.dp, if q.stepd then q.count else 1))
  | 2 => [(q.d, q.count)]
  | 3 => [(q.d, q.count)]
  | 4 => [(q.d, if bitN q.fn 2 then q.count else ceilDiv q.count 64)]
  | _ => []

def meet (a b : List (Nat × Nat)) : Bool := a.any (fun x => b.any (fun y => decide (x.1 < y.1 + y.2) && decide (y.1 < x.1 + x.2)))

/-- The unfinished commands of a unit in stream order: queue place, command number. -/
def unfinished (u : CUnit) : List (Nat × Nat × CCmd) :=
  (u.queue.zipIdx.map (fun (p, i) => (p.cmds.zipIdx.filter (fun x => !p.done.contains x.2)).map (fun (q, j) => (i, j, q)))).flatten

/-- The k-th unfinished command, if it may start (R246). -/
def mayStart (u : CUnit) (k : Nat) : Option (Nat × Nat × CCmd) :=
  let l := unfinished u
  match l[k]? with
  | none => none
  | some (i, j, q) =>
    let earlier := (l.take k).map (fun x => x.2.2)
    let lane := laneKind q.op
    if k < 32 && (lane == 3 || !earlier.any (fun e => laneKind e.op == lane)) &&
       !earlier.any (fun e => meet (rowsWritten e) (rowsRead q ++ rowsWritten q) || meet (rowsRead e) (rowsWritten q))
    then some (i, j, q) else none

/-- The context of a piece's descriptor. -/
def pieceCx (s : State) (d : DTag) (core : Nat) : Option Cx :=
  match job? s d.lead with
  | none => none
  | some j => match runOf j d.step with
    | none => none
    | some r => (progOf j r.prog).map (fun p => { cxOf s j r p d.lead d.idx with core := core })

/-- Does a unit still hold pieces of a descriptor? -/
def CUnit.holds (u : CUnit) (d : DTag) : Bool := (u.queue ++ u.waiting).any (·.d == d)
def holdsPieces (s : State) (d : DTag) : Bool := s.units.any (fun (_, u) => u.holds d)

/-! Slots of the unit (R253). -/

/-- Segments that a memory-lane command moves, and its issue clocks (Table 10.4). -/
def segsPerRow (o : COperand) : Nat :=
  let f := match o with | .tensor t => t.fmt | .tile _ f _ => f | _ => 3
  fmtBits f
/-- A row of an MXFP4 STREAM is half a segment, and its scales are read a segment for 64 of them. -/
def cmdSegs (q : CCmd) : Nat :=
  if q.op == 1 || q.op == 5 then ceilDiv (q.count * segsPerRow q.opnd) 8 + (if segsPerRow q.opnd == 4 then ceilDiv (2 * q.count) 64 else 0) else 0
def cmdClocks (q : CCmd) : Nat :=
  match q.op with
  | 1 => let b := segsPerRow q.opnd; if b == 4 then q.count + ceilDiv (2 * q.count) 32 else q.count * (b / 8)
  | 5 => q.count * (segsPerRow q.opnd / 8)
  | 2 => ceilDiv q.count 8 + 4
  | 3 => q.count + 12
  | 4 => ceilDiv q.count 8 + 8
  | _ => 0

/-- The unit's slots are used; the clocks that it waits for budget windows are counted (log entry 40). -/
def State.useSlots (s : State) (pc n : Nat) : State :=
  if n == 0 then s
  else
    let st := pc / 64
    let b := max (budget s st) 1
    let u := cunit s pc
    let avail := b - u.spent
    if n ≤ avail then s.modUnit pc (fun u => { u with spent := u.spent + n, used := true })
    else
      let k := ceilDiv (n - avail) b
      let s := s.bumpRC .crm st 0x014 31 0 (k * (64 - b))
      s.modUnit pc (fun u => { u with spent := n - avail - (k - 1) * b, used := true, waited := true })

/-- Abandon a unit's pieces of a descriptor (R240, R252). -/
def State.dropPieces (s : State) (pc : Nat) (d : DTag) : State :=
  s.modUnit pc (fun u => { u with queue := u.queue.filter (·.d != d), waiting := u.waiting.filter (·.d != d) })

/-- A piece's last command has finished: the piece leaves the queue; a sequence or GEMV whose pieces have all finished has run (R247);
an item's record has landed in its slot (R168). -/
def State.pieceDone (s : State) (pc i : Nat) (p : Piece) : State :=
  let s := s.modUnit pc (fun u => { u with queue := u.queue.eraseIdx i })
  match p.kind with
  | .item =>
    { s with atts := modT s.atts p.core {} (fun a =>
      { a with slots := a.slots.map (fun x => if x.1 == p.slot && x.2.1 == p.mid then (x.1, x.2.1, true) else x) }) }
  | _ =>
    if holdsPieces s p.d then s
    else s.modD p.d (fun x => if x.stat == .running then { x with stat := .ran } else x)

/-- A command finishes: marked done, its slots and busy clocks counted. -/
def State.cmdDone (s : State) (pc i j : Nat) (q : CCmd) : State :=
  let s := s.useSlots pc (cmdSegs q)
  let s := s.addWide .crm (pc / 64) (0x1008 + 32 * (pc % 64)) (cmdClocks q)
  let s := s.modUnit pc (fun u => { u with queue := u.queue.modify i (fun p => { p with done := p.done ++ [j] }) })
  match (cunit s pc).queue[i]? with
  | some p => if p.done.length ≥ p.cmds.length then s.pieceDone pc i p else s
  | none => s

/-- Uncorrectable and correctable rows that a command reads (R240). -/
def hitRows (rs : List (Nat × Nat)) (bad : List Nat) : List Nat := bad.filter (fun r => rs.any (fun x => decide (x.1 ≤ r) && decide (r < x.1 + x.2)))

/-- May a descriptor's pieces run in units: while it runs, and while a fault of its own is being taken? -/
def unitLive : DStat → Bool
  | .running => true | .faulted => true | .resumed => true | _ => false

/-- Words of a piece's preload that a command reads: the scalars of AXPY and AXPY0 (R240). -/
def wordsRead (q : CCmd) : List (Nat × Nat) :=
  if q.op == 1 && q.fn ≤ 1 then
    let w := fmtBits q.xfmt / 8
    let a := q.xbase + w * q.xoff
    let n := w * q.count * q.scalars
    [(a / 8, (a + n + 7) / 8 - a / 8)]
  else []

/-- The unit's position (R248): the oldest command of its stream that has not finished, and which of the 32 after it have. -/
def unitPos (u : CUnit) : Nat :=
  let all := (u.queue.map (fun p => (List.range p.cmds.length).map p.done.contains)).flatten
  let k := all.findIdx (!·)
  k % 4096 + 4096 * ((all.drop (k + 1)).take 32).zipIdx.foldl (fun a x => a + b2n x.1 * 2 ^ x.2) 0

/-- The cursor of a fault that names a unit (R248). -/
def unitCursor (pc : Nat) (u : CUnit) : Nat := 2 ^ 60 + pc + 2048 * unitPos u

/-- Does a pending fault name the unit? Then it starts no further command (R248) and reads FAULTED. -/
def unitFaulted (s : State) (pc : Nat) : Bool :=
  s.parts.any (fun (_, q) => q.faults.any (fun f => decide (2 ^ 60 ≤ f.cursor) && f.cursor % 2048 == pc))

/-- A unit may run commands of a descriptor: it is neither disabled nor stopped by a fault, its stack is in service (R235, R440), the descriptor
runs and its partition is not held. -/
def unitRuns (s : State) (pc : Nat) (d : DTag) : Bool :=
  !(cunit s pc).disabled && !unitFaulted s pc && !s.fatal && unitLive (dRunOf s d).stat && decide (pState s (pc % 16) < 4) && bandOf s (1 + pc / 64) != 4 &&
  !bitN (reg s .stk (pc / 64) 0x008) 0

/-- An uncorrectable word of the accumulator file or the input buffer (R240, R374): the unit abandons the descriptor's pieces, the word is written
with zero and fresh check bits, the partition pauses on 0x2002. `detail` is the row, or 2,048 more than the word's place in the preload. -/
def State.unitUe (s : State) (c : Cx) (pc : Nat) (d : DTag) (detail : Nat) : State :=
  let cur := unitCursor pc (cunit s pc)
  let s := (s.bump .crm (pc / 64) 0x010).dropPieces pc d
  let s := if detail < 2048 then
      (List.range 64).foldl (fun s l => { s with mem := { s.mem with caf := putT s.mem.caf (cafKey pc detail l) ⟨c.uid, 0#32⟩ } }) s
    else s
  let s := s.modUnit pc (fun u => { u with ue := u.ue.filter (· != detail), badRows := u.badRows ++ [(detail, s.time.mono)] })
  (s.modD d (fun x => { x with stat := .faulted })).descFault c cur { code := 0x2002, pc := pc, detail := detail, resumable := false }

/-- A fault of a command: a target of the wrong class abandons the descriptor's pieces (R252); any other leaves them for the fault's resolution. -/
def State.unitFlt (s : State) (c : Cx) (pc : Nat) (d : DTag) (e : Flt) : State :=
  let cur := unitCursor pc (cunit s pc)
  let s := if e.code == 0x2001 then (s.dropPieces pc d).bump .crm (pc / 64) 0x008 else s
  (s.modD d (fun x => { x with stat := .faulted })).descFault c cur { e with pc := pc }

/-- Correctable words that a command reads are corrected in place and counted (R240). -/
def State.unitCe (s : State) (pc i : Nat) (q : CCmd) (p : Piece) : State :=
  let rows := hitRows (rowsRead q) (cunit s pc).ce
  let words := hitRows (wordsRead q) p.ce
  if rows.isEmpty && words.isEmpty then s
  else (s.bumpRC .crm (pc / 64) 0x00C 31 0 (rows.length + words.length)).modUnit pc (fun u =>
    { u with ce := u.ce.filter (fun r => !rows.contains r), queue := u.queue.modify i (fun p => { p with ce := p.ce.filter (fun w => !words.contains w) }) })

/-- The first uncorrectable word that a command reads. -/
def firstUe (u : CUnit) (q : CCmd) (p : Piece) : Option Nat :=
  (hitRows (rowsRead q) u.ue ++ (hitRows (wordsRead q) p.ue).map (· + 2048)).head?

/-- Trace of a piece: it starts with its first command and ends with its last (Table 19.4). -/
def pieceTrace (c : Cx) (pc kind segs : Nat) : TraceRec :=
  { cls := 2, kind := kind, part := pc % 16, core := c.core, engine := c.engine, attempt := c.attempt, id := c.id, step := c.d.step,
    data := [pc, c.id.toNat, segs, 0] }

/-- A command starts: correctable words that it reads are corrected, and the first of a piece starts the piece. -/
def State.cmdStart (s : State) (c : Cx) (pc i : Nat) (q : CCmd) (p : Piece) : State :=
  let s := s.unitCe pc i q p
  if p.done.isEmpty then s.trace (pieceTrace c pc 0 0) else s

/-- A command has had its effect; the last of a piece ends the piece. -/
def State.cmdEnd (s : State) (c : Cx) (pc i j : Nat) (q : CCmd) (p : Piece) : State :=
  (if p.cmds.length ≤ p.done.length + 1 then s.trace (pieceTrace c pc 1 ((p.cmds.map cmdSegs).foldl (· + ·) 0)) else s).cmdDone pc i j q

/-- Run the k-th unfinished command of a unit, if it is of opcode `op` and may start. -/
def cremaCmd (s : State) (ca : CmdAt) (op : Nat) (body : CEnv → M PUnit) : State :=
  let u := cunit s ca.pc
  match mayStart u ca.k with
  | none => s
  | some (i, j, q) =>
    match u.queue[i]? with
    | none => s
    | some p =>
      match pieceCx s p.d (p.core % 16) with
      | none => s
      | some c =>
        if q.op != op || !unitRuns s ca.pc p.d then s
        else match firstUe u q p with
          | some r => (s.unitCe ca.pc i q p).unitUe c ca.pc p.d r
          | none =>
            match (body ⟨c, ca.pc, p, q⟩).run { s := s.cmdStart c ca.pc i q p } with
            | (.ok _, x) => x.s.cmdEnd c ca.pc i j q p
            | (.error e, x) => x.s.unitFlt c ca.pc p.d e

/-- A command of a unit: only what descriptors may change. -/
def cremaStep (s : State) (ca : CmdAt) (op : Nat) (body : CEnv → M PUnit) : State := touchDesc s (cremaCmd s ca op body)

def execCremaNop (c : CmdAt) (s : State) : Host.Outcome State Fault Refusal := .next (cremaStep s c 0 (fun _ => pure ()))
def execStream (c : CmdAt) (s : State) : Host.Outcome State Fault Refusal := .next (cremaStep s c 1 streamCmd)
def execRow (c : CmdAt) (s : State) : Host.Outcome State Fault Refusal := .next (cremaStep s c 2 rowCmd)
def execAct (c : CmdAt) (s : State) : Host.Outcome State Fault Refusal := .next (cremaStep s c 3 actCmd)
def execFold (c : CmdAt) (s : State) : Host.Outcome State Fault Refusal := .next (cremaStep s c 4 foldCmd)
def execStore (c : CmdAt) (s : State) : Host.Outcome State Fault Refusal := .next (cremaStep s c 5 storeCmd)
def execEmit (c : CmdAt) (s : State) : Host.Outcome State Fault Refusal := .next (cremaStep s c 6 emitCmd)

/-! The queue (R239). -/

def Piece.room (p : Piece) : Nat := match p.kind with | .gemv => min p.inbuf.length 32768 | _ => p.inbuf.length
def CUnit.buffered (u : CUnit) : Nat := u.queue.foldl (fun n p => n + p.room) 0
def CUnit.canQueue (u : CUnit) (p : Piece) : Bool := decide (u.queue.length < 16) && decide (u.buffered + p.room ≤ 65536)

/-- The first waiting piece enters the queue when there is an entry and room for its preload. -/
def CUnit.pump (u : CUnit) : CUnit :=
  match u.waiting with
  | p :: t => if u.canQueue p then { u with queue := u.queue ++ [p], waiting := t } else u
  | [] => u

/-- CREMA_PIECE_QUEUE. -/
def execCremaPieceQueue (pc : Nat) (s : State) : Host.Outcome State Fault Refusal :=
  .next { s with units := modT s.units pc {} CUnit.pump }

/-- Hand a piece to its unit. -/
def State.dispatch (s : State) (pc : Nat) (p : Piece) : State :=
  s.modUnit pc (fun u => ({ u with waiting := u.waiting ++ [p] }).pump)

/-! CREMA_SEQ (R241, R242). -/

def seqAddr (c : Cx) : Nat := addrAt c.w 12
def seqLen (c : Cx) : Nat := wfld (wAt c.w 14) 15 0
/-- The sequence's command words, as they stand in the image. -/
def seqWords (s : State) (c : Cx) : List (List Word) := (List.range (seqLen c)).map (fun i => peekWords s (seqAddr c + 32 * i) 8)

def cwOp (w : List Word) : Nat := wfld (wAt w 0) 7 0
def cwFn (w : List Word) : Nat := wfld (wAt w 0) 11 8
def cwOpnd (w : List Word) : Nat := wfld (wAt w 0) 17 16
def cwX (w : List Word) : Nat := wfld (wAt w 0) 19 18
def usesOpnd (w : List Word) : Bool := cwOp w == 1 || cwOp w == 5 || cwOp w == 6
def usesX (w : List Word) : Bool := cwOp w == 1 && cwFn w ≤ 1

def seqSlots (ws : List (List Word)) : List Nat :=
  (List.range 4).filter (fun k => ws.any (fun w => (usesOpnd w && cwOpnd w == k) || (usesX w && cwX w == k)))

/-- Preloads in operand order: slot, place in the input buffer. -/
def preloads (c : Cx) (ws : List (List Word)) : List Nat :=
  (seqSlots ws).filter (fun k => (c.t k).space != 1 && !ws.any (fun w => cwOp w == 6 && cwOpnd w == k))

/-- Elements of an operand in linear order, packed. -/
def Cx.packOperand (c : Cx) (t : TView) : M (List Byte) := do
  let es ← (List.range t.elems).mapM (fun n => c.rdBits t (unlinear t.dims n))
  return (es.map (natBytes (fmtBits t.fmt / 8))).flatten

def cremaCmdOf (c : Cx) (afBase disp : Nat) (place : List (Nat × Nat)) (w : List Word) : CCmd :=
  let op := cwOp w
  let t := c.t (cwOpnd w)
  { op := op, fn := cwFn w, np := wfld (wAt w 0) 14 12, stepd := wbit (wAt w 0) 15,
    opnd := if usesOpnd w then .tensor (if t.space == 1 then { t with base := t.base + disp } else t) else .none,
    dp := wfld (wAt w 1) 26 16, d := afBase + wfld (wAt w 1) 10 0, a := afBase + wfld (wAt w 2) 10 0, b := afBase + wfld (wAt w 2) 26 16,
    count := wfld (wAt w 3) 23 0, mrow := nAt w 4, xbase := (getT place (cwX w)).getD 0, xfmt := (c.t (cwX w)).fmt,
    xoff := wfld (wAt w 5) 15 0, imm := wAt w 6, cvt := c.cvt }

/-- A unit of PCSET that is disabled makes the descriptor fault at once (R374). -/
def Cx.checkUnits (c : Cx) : M PUnit := do
  let s ← getS
  match c.pcset.find? (fun pc => (cunit s pc).disabled) with
  | some pc => stop { code := 0x2002, pc := pc, resumable := false }
  | none => pure ()

def seqBody (c : Cx) (_ : Nat) : M PUnit := do
  c.checkUnits
  let bs ← c.rd 0 0 (seqAddr c) (32 * seqLen c)
  let ws := (List.range (seqLen c)).map (fun i => bytesWords 8 (bs.drop (32 * i)))
  let afBase := wfld (wAt c.w 15) 10 0
  let (buf, place) ← (preloads c ws).foldlM (fun (acc : List Byte × List (Nat × Nat)) k => do
    let b ← c.packOperand (c.t k)
    let start := roundUp acc.1.length 64
    return (padTo start acc.1 ++ b, acc.2 ++ [(k, start)])) ([], [])
  let pc0 := c.pcset.headD 0
  c.pcset.forM (fun pc =>
    modS (·.dispatch pc { d := c.d, kind := .seq, core := c.dcore, slot := 0, done := [], inbuf := buf,
                          cmds := ws.map (cremaCmdOf c afBase ((pc - pc0) * 2 ^ 30) place) }))

/-- A descriptor whose pieces are out runs on until they finish. -/
def State.awaitPieces (s : State) (c : Cx) : State :=
  s.modD c.d (fun x => if x.stat == .ran && x.status == 0 && holdsPieces s c.d then { x with stat := .running } else x)

def execCremaSeq (d : DescRef) (s : State) : Host.Outcome State Fault Refusal :=
  .next (descStep s d 0x18 (fun s c => (runOp s c (seqSlots (seqWords s c)) (fun _ => 1) seqBody).awaitPieces c))

/-! CREMA_GEMV (R249). -/

def gemvBody (c : Cx) (_ : Nat) : M PUnit := do
  c.checkUnits
  let t0 := c.t 0
  let t1 := c.t 1
  let t2 := c.t 2
  let nvec := wfld (wAt c.w 12) 3 0
  let af := wfld (wAt c.w 13) 10 0
  let kk := t0.dim 1
  let nt := t0.dim 2
  let pc0 := c.pcset.headD 0
  let slices ← (List.range (t1.dim 2)).mapM (fun sl => do
    let es ← (List.range (kk * nvec)).mapM (fun n => c.rdBits t1 [n / max nvec 1, n % max nvec 1, sl, 0, 0])
    return (es.map (natBytes (fmtBits t1.fmt / 8))).flatten)
  let base : CCmd := { op := 0, fn := 0, np := 0, stepd := false, opnd := .none, dp := 0, d := 0, a := 0, b := 0, count := 0, mrow := 0, xbase := 0,
                       xfmt := t1.fmt, xoff := 0, imm := 0#32, cvt := c.cvt }
  c.pcset.zipIdx.forM (fun (pc, o) =>
    let w := { t0 with base := t0.base + (pc - pc0) * 2 ^ 30 }
    let strm := (List.range nt).map (fun t => { base with op := 1, fn := 1, np := nvec - 1, opnd := .tensor w, dp := nt, d := af + t, count := kk, mrow := t * kk })
    let emit := (List.range nvec).map (fun p => { base with op := 6, opnd := .gout t2 p o, a := af + p * nt, count := nt })
    modS (·.dispatch pc { d := c.d, kind := .gemv, core := c.dcore, slot := 0, done := [], cmds := strm ++ emit,
                          inbuf := slices.getD (o % max (t1.dim 2) 1) [] }))

def execCremaGemv (d : DescRef) (s : State) : Host.Outcome State Fault Refusal :=
  .next (descStep s d 0x19 (fun s c => (runOp s c [0, 1, 2] (fun _ => 1) gemvBody).awaitPieces c))

/-! Budget windows, ramp and refresh breaks (R253, R254). -/

/-- The end of an aligned window of 64 base-die clocks: every unit's slots start again. -/
def execCremaBudgetWindow (s : State) : Host.Outcome State Fault Refusal :=
  .next { s with units := s.units.map (fun (k, u) => (k, { u with spent := 0 })) }

def stackUnits (s : State) (st : Nat) : List CUnit := (s.units.filter (fun p => p.1 / 64 == st)).map Prod.snd
def rampStep (s : State) : Nat := let x := regF s .crmc 0 8 15 8; if 1 ≤ x && x ≤ 32 then x else 8
def rampFloor (s : State) : Nat := let x := regF s .crmc 0 8 7 0; if 16 ≤ x && x ≤ 64 then x else 32

def modStack (s : State) (st : Nat) (f : CUnit → CUnit) : Tbl CUnit := s.units.map (fun (k, u) => if k / 64 == st then (k, f u) else (k, u))

/-- 1 µs has ended: the ramp falls if no unit of the stack used a slot in it (R253). -/
def execRampFall (stack : Nat) (s : State) : Host.Outcome State Fault Refusal :=
  .next (if (stackUnits s stack).any (·.used) then { s with units := modStack s stack (fun u => { u with used := false }) }
         else { s with regs := (s.setRamp stack (min (rampFloor s) (rampMax s stack))).regs })

/-- 0.25 µs in which a unit waited on the ramp has ended. -/
def execRampRise (stack : Nat) (s : State) : Host.Outcome State Fault Refusal :=
  .next (if (stackUnits s stack).any (·.waited) then
      { s with regs := (s.setRamp stack (min (rampVal s stack + rampStep s) (rampMax s stack))).regs,
               units := modStack s stack (fun u => { u with waited := false }) }
    else s)

/-- A bank of the pseudo-channel holds 8 postponed refreshes and another is due; a targeted refresh counts as two (R231, R254). -/
def breakDue (s : State) (pc : Nat) : Bool := (List.range 64).any (fun b => decide (8 < postponed s (pc * 64 + b)))

/-- A bank's part in a break: its due targeted refreshes, and one per-bank refresh if one is postponed. -/
def State.breakBank (s : State) (b : Nat) : State :=
  let s := s.targetAll b
  if 0 < postponed s b then s.payBack b else s

/-- R254: the stall is that of a targeted refresh when one is issued. -/
def State.refreshBreak (s : State) (pc : Nat) : State :=
  let banks := (List.range 64).map (pc * 64 + ·)
  let n := if banks.any (fun b => !((getT s.stk.rhRows b).getD []).isEmpty) then 444 else 228
  let s := banks.foldl State.breakBank ((s.bump .stk (pc / 64) 0x038).bumpRC .crm (pc / 64) 0x018 31 0 n)
  s.trace { cls := 2, kind := 2, part := pc % 16, data := [pc, 0xFFFFFFFF, 0, n] }

def execRefreshBreak (pc : Nat) (s : State) : Host.Outcome State Fault Refusal :=
  .next (if breakDue s pc then touchDesc s (s.refreshBreak pc) else s)

end Sys2Proof.Machine
end

