-- ==== Sys2Proof/Machine/Attention.lean ====
section
/-! DEFINITION. Attention engine: chunk geometry, KV_APPEND, KV_SEAL, block-table walks, ATTN_DECODE with item dispatch and record
merging, ATTN_PREFILL (chapter 07). -/

namespace Sys2Proof.Machine

/-! KV_APPEND (R152). -/

def kvaSlots (c : Cx) : Nat × Nat := c.units (c.bind 1) (wAt c.w 14)

def kvaUnit (c : Cx) (u : Nat) : M PUnit := do
  let g := c.cfg
  let w ← c.slotEnt ((kvaSlots c).1 + u)
  let layer := wfld (wAt c.w 12) 7 0
  (List.range (SL.ntok w)).forM (fun i => (List.range 2).forM (fun k => (List.range g.kvHeads).forM (fun h => do
    let t := c.t k
    let es ← (List.range g.hDim).mapM (fun d => do
      let v ← c.elem t [d, h, SL.row w + i, 0, 0]
      let (b, f) := cvtElem g.oFmt c.cvt t.fmt (← srDraw) v
      sticky f
      return natBytes g.oSize b)
    let p := SL.pos w + i
    c.wr 0 0 (SL.open_ w + (p / 64 - SL.pos w / 64) * g.obuf + g.oOff layer (p % 64) k h 0 : Nat) es.flatten)))

def execKvAppend (d : DescRef) (s : State) : Host.Outcome State Fault Refusal :=
  .next (descStep s d 0x04 (fun s c => runOp s c [0, 1] (fun c => (kvaSlots c).2) kvaUnit))

/-! KV_SEAL (R154, R155, R194). -/

def sealEntries (c : Cx) : Nat × Nat := c.units (c.bind 5) (wAt c.w 14)
def sealList (c : Cx) : Nat := addrAt c.hdr 8

/-- One head's tile of kind k (0 key, 1 value): rows d, each 64 tokens, converted to SFMT. -/
def Cx.sealTile (c : Cx) (src layer h k : Nat) : M (List Byte) := do
  let g := c.cfg
  let toks ← (List.range 64).mapM (fun t => c.rd 0 0 (src + g.oOff layer t k h 0 : Nat) (g.hDim * g.oSize))
  let rows ← (List.range g.hDim).mapM (fun d => toks.mapM (fun bs => do
    let v := decodeElem g.oFmt (leAt bs (d * g.oSize) g.oSize)
    let (b, f) := cvtElem g.sFmt c.cvt g.oFmt (← srDraw) v
    sticky f
    return natBytes g.w b))
  return (rows.map List.flatten).flatten

/-- Stop units: the entries, then the staging area, which ends with unspecified bytes; none for an empty share (R64). -/
def sealUnit (c : Cx) (u : Nat) : M PUnit := do
  let g := c.cfg
  let (lo, n) := sealEntries c
  if u < n then
    let e ← c.ctlWords (sealList c + 32 * (lo + u)) 8
    let src := addrAt e 2
    let pc := wfld (wAt e 4) 26 16
    let f := wfld (wAt e 4) 15 0
    if !(jobPcs c.parts).contains pc || g.nFrame ≤ f then stop { code := 0x1001, addr := g.frame pc f, pc := pc }
    else
      let l0 := wfld (wAt c.w 12) 7 0
      (List.range (wfld (wAt c.w 12) 15 8)).forM (fun i => do
        let layer := l0 + i
        let tiles ← (List.range g.kvHeads).mapM (fun h => do
          let kt ← c.sealTile src layer h 0
          let vt ← c.sealTile src layer h 1
          c.wr 1 0 (g.frame pc f + (layer * g.kvHeads + h) * g.pair : Nat) (kt ++ vt)
          return kt ++ vt)
        c.wr 0 0 (g.digest c.parts pc f 0 + 32 * layer : Nat) (sha3 tiles.flatten))
  else
    let dr := (← getS).free
    let k0 ← fresh
    let off := wfld (wAt c.w 13) 24 0 + c.inst * 2 * g.pair
    modS (·.putPbuf c.part off ((List.range (2 * g.pair)).map (fun i => Config.freeByte dr (k0 + i))))
    modify (fun x => { x with k := x.k + 2 * g.pair })

/-- In a truncated run nothing is sealed: the descriptor is SKIPPED (R97). -/
def sealRun (s : State) (c : Cx) : State :=
  if c.trunc.isSome then (s.noteStart c).modD c.d (fun x => { x with stat := .ran, status := 1 })
  else runOp s c [] (fun c => let n := (sealEntries c).2; if n == 0 then 0 else n + 1) sealUnit

def execKvSeal (d : DescRef) (s : State) : Host.Outcome State Fault Refusal := .next (descStep s d 0x05 sealRun)

/-! Walks (R163 to R168). -/

/-- Format rank (R93). -/
def fmtRank : Nat → Nat
  | 1 => 16 | 3 => 8 | 4 => 8 | 8 => 4 | _ => 99

/-- R165. -/
def acceptable (e : BEnt) (kvmax : Nat) : Bool :=
  e.st == 1 && (((e.fmt == 1 || e.fmt == 3 || e.fmt == 4) && e.half == 0) || (e.fmt == 8 && (e.half == 1 || e.half == 2))) &&
  decide (fmtRank e.fmt ≤ fmtRank kvmax)

/-- Parameters of an attention descriptor (Table 03.8). -/
structure AttP where
  layer : Nat
  mask : Nat
  die : Bool
  kvmax : Nat
  qh : Nat
  kvh : Nat
  hd : Nat
  win : Nat
  sm : Word
  scr : Nat
  nsplit : Nat

def Cx.att (c : Cx) : AttP :=
  let w := wAt c.w
  { layer := wfld (w 12) 7 0, mask := wfld (w 12) 9 8, die := wbit (w 12) 12, kvmax := wfld (w 12) 23 16, qh := wfld (w 13) 7 0,
    kvh := wfld (w 13) 15 8, hd := wfld (w 13) 31 16, win := (w 14).toNat, sm := w 15, scr := wfld (w 16) 25 0, nsplit := wfld (w 17) 4 0 }

/-- Is key position p visible from query position q of a slot whose tokens end before `e` (R163)? -/
def AttP.vis (a : AttP) (q e p : Nat) : Bool :=
  match a.mask with
  | 0 => decide (p ≤ q)
  | 1 => decide (q < p + a.win) && decide (p ≤ q)
  | _ => decide (p < e)

/-- Entry j of a table: a hole reads as DROPPED (R157). -/
def Cx.rdEnt (c : Cx) (root : List Word) (j : Nat) : M BEnt := do
  match entAddr root j with
  | some x => return bent (← c.ctlWords x 4)
  | none => return { pc := 0, frame := 0, half := 0, fmt := 0, st := 2, epoch := 0 }

/-- A walk's chunks that are to be read: chunk index and entry (R165, R168). The first chunk to read that lies outside `pcs`, or in no frame, faults
there and then. -/
def Cx.walk (c : Cx) (slot : List Word) (cursor : Nat) (pcs : List Nat) : M (List (Nat × BEnt)) := do
  let a := c.att
  let snap := SL.snap slot
  let root ← c.ctlWords snap 144
  let pos := SL.pos slot
  let fin := pos + SL.ntok slot
  let n := min (rootN root) (pos / 64)
  (List.range n).foldlM (fun (acc : List (Nat × BEnt)) j => do
    if (rootDrops root).contains j then return acc
    else
      let e ← c.rdEnt root j
      if e.st == 0 then return acc
      else if !acceptable e a.kvmax then
        if e.st != 2 then modS (fun s => s.fault (c.at_ cursor) { code := 0x3104, pc := e.pc, detail := j }) else pure ()
        let (inc, s') := (← getS).recordDrop snap j
        modS (fun _ => s')
        if inc then modify (fun x => { x with drops := x.drops + 1 }) else pure ()
        return acc
      else if !(List.range (SL.ntok slot)).any (fun i => (List.range 64).any (fun l => a.vis (pos + i) fin (64 * j + l))) then return acc
      else if !pcs.contains e.pc || c.cfg.nFrame ≤ e.frame then stop { code := 0x1001, addr := c.cfg.frame e.pc e.frame, pc := e.pc }
      else return (acc ++ [(j, e)])) []

/-! The recurrence (R170, R171). -/

structure Lane where
  m : Word := ninf32
  z : Word := 0#32
  o : List Word := []

def expsub (dr : Nat) (a b : Word) : Word := if a == ninf32 then 0#32 else (fexp dr (fsub a b).1).1

/-- One key and value of a lane enter its state: `s` is the score. -/
def Lane.step (dr : Nat) (x : Lane) (s : Word) (v : List Num) : Lane :=
  let mn := fmaxW x.m s
  if mn == ninf32 then x
  else
    let a := expsub dr x.m mn
    let p := expsub dr s mn
    { m := mn, z := (ffma x.z a p).1, o := (x.o.zip v).map (fun (o, w) => mad32 (num32 o) (num32 a) (num32 p) w) }

/-- Score of a lane: products accumulated in FP32, times SMSCALE (R166, R170). -/
def score (sm : Word) (q k : List Num) : M Word := do
  let sum := accumulate (← drawM) 0#32 ((q.zip k).map (fun (x, y) => (mulNum x y).1))
  return (fmul sum sm).1

/-- Fold a head's lanes into M, L, O (R171). -/
def foldLanes (hd : Nat) (ls : List Lane) : M MergeHead := do
  let big := ls.foldl (fun a l => fmaxW a l.m) ninf32
  let dr ← drawM
  let ws := ls.map (fun l => expsub dr l.m big)
  let l := anyOrderSum dr 0#32 ((ls.zip ws).map (fun (x, w) => (fmul x.z w).1))
  let o := (List.range hd).map (fun d => seqSum 0#32 (shuffle (dr + d + 1) ((ls.zip ws).map (fun (x, w) => (mulNum (num32 (wAt x.o d)) (num32 w)).1))))
  return { m := big, l := l, o := o }

/-- Keys and values of 64 lanes: per lane the key, the value, whether visible. -/
abbrev Block := List (List Num × List Num × Bool)

/-- One head over blocks, lane by lane. -/
def headPartial (sm : Word) (hd : Nat) (q : List Num) (bs : List Block) : M MergeHead := do
  let init : List Lane := List.replicate 64 { o := List.replicate hd 0#32 }
  let ls ← bs.foldlM (fun (ls : List Lane) b => (ls.zip b).mapM (fun (x, (k, v, vis)) => do
    let s ← if vis then score sm q k else pure ninf32
    return x.step (← drawM) s v)) init
  foldLanes hd ls

/-! Key-value data. -/

/-- A sealed tile's 64 x HDIM values as lanes, read by the die without ECC (R175). -/
def Cx.dieTile (c : Cx) (j : Nat) (e : BEnt) (layer h : Nat) (vis : Nat → Bool) : M Block := do
  let g := c.cfg
  let pb := g.pairBytes e.half
  let base := g.chunkBase e.pc e.frame e.half + (layer * g.kvHeads + h) * pb
  let bs ← c.rd 1 0 (base : Nat) pb
  let b := fmtBits e.fmt
  let el (k d l : Nat) : Num :=
    let row := k * 8 * b * g.hDim + 8 * b * d
    let x := leNat ((bs.drop (row + l * b / 8)).take 2) / 2 ^ (l * b % 8) % 2 ^ b
    if fmtIsMx e.fmt then decodeMx e.fmt (byteAt bs (64 * g.hDim + k * 2 * g.hDim + 2 * d + l / 32)) x else decodeElem e.fmt x
  return (List.range 64).map (fun l => ((List.range g.hDim).map (fun d => el 0 d l), (List.range g.hDim).map (fun d => el 1 d l), vis (64 * j + l)))

/-- Keys and values of a position of an open area: buffer b, place t. -/
def Cx.openKV (c : Cx) (slot : List Word) (b t layer h : Nat) : M (List Num × List Num) := do
  let g := c.cfg
  let rd (k : Nat) : M (List Num) := do
    let bs ← c.rd 0 0 (SL.open_ slot + b * g.obuf + g.oOff layer t k h 0 : Nat) (g.hDim * g.oSize)
    return (List.range g.hDim).map (fun d => decodeElem g.oFmt (leAt bs (d * g.oSize) g.oSize))
  return (← rd 0, ← rd 1)

/-- The open block of a decode slot: positions 64 floor(POS / 64) to POS (R173). -/
def Cx.openBlock (c : Cx) (slot : List Word) (layer h : Nat) : M Block := do
  let a := c.att
  let pos := SL.pos slot
  let z := List.replicate c.cfg.hDim (Num.fin false 0 0)
  (List.range 64).mapM (fun l => do
    if l ≤ pos % 64 then
      let (k, v) ← c.openKV slot 0 l layer h
      return (k, v, a.vis pos (pos + SL.ntok slot) (pos / 64 * 64 + l))
    else return (z, z, false))

/-! Head parts and records (R169, Table 07.8). -/

def AttP.g (a : AttP) : Nat := a.qh / max a.kvh 1
def AttP.hp (a : AttP) : Nat := min 8 (1024 / max a.hd 1)
def AttP.nparts (a : AttP) : Nat := ceilDiv a.g a.hp
/-- Query heads of part r of KV head h. -/
def AttP.heads (a : AttP) (h r : Nat) : List Nat := (List.range (min a.hp (a.g - r * a.hp))).map (fun k => h * a.g + r * a.hp + k)
def AttP.recsz (a : AttP) : Nat := roundUp (a.hp * (8 + 4 * a.hd)) 64
/-- Records per (slot, KV head, part) in the partial area (Table 07.7). -/
def AttP.kk (a : AttP) : Nat := if a.die && 1 < a.nsplit then a.nsplit + 1 else 1
def AttP.recOff (a : AttP) (s h r i : Nat) : Nat := a.scr + (((s * a.kvh + h) * a.nparts + r) * a.kk + i) * a.recsz

def recBytes (a : AttP) (hs : List MergeHead) : List Byte := padTo a.recsz (hs.map (fun h => wordsBytes (h.m :: h.l :: h.o))).flatten
def recHeads (a : AttP) (n : Nat) (bs : List Byte) : List MergeHead :=
  (List.range n).map (fun k =>
    let ws := bytesWords (2 + a.hd) (bs.drop (k * (8 + 4 * a.hd)))
    { m := wAt ws 0, l := wAt ws 1, o := ws.drop 2 })

/-- Queries of a head of a slot. -/
def Cx.query (c : Cx) (head slot : Nat) : M (List Num) := (List.range c.att.hd).mapM (fun d => c.elem (c.t 0) [d, head, slot, 0, 0])

/-! Merging (R174). -/

def mergeHead (dr : Nat) (x y : MergeHead) : MergeHead × Sticky :=
  let m := fmaxW x.m y.m
  let e (w : Word) : WF := if w == ninf32 then noFl 0#32 else WF.bind (fsub w m) (fexp dr)
  let (a, f1) := e x.m
  let (b, f2) := e y.m
  let mix (p q : Word) : WF := WF.bind (fmul p a) (fun t => ffma q b t)
  let (l, f3) := mix x.l y.l
  let os := (x.o.zip y.o).map (fun (p, q) => mix p q)
  ({ m := m, l := l, o := os.map Prod.fst }, f1 ||| f2 ||| f3 ||| os.foldl (fun a p => a ||| p.2) 0#5)

def mergeHeads (dr : Nat) (xs ys : List MergeHead) : List MergeHead × Sticky :=
  let rs := (xs.zip ys).map (fun (x, y) => mergeHead dr x y)
  (rs.map Prod.fst, rs.foldl (fun a p => a ||| p.2) 0#5)

/-- O / L of each head into T2 (R174). -/
def Cx.writeOut (c : Cx) (slot h r : Nat) (hs : List MergeHead) : M PUnit := do
  let a := c.att
  hs.zipIdx.forM (fun (x, k) => x.o.zipIdx.forM (fun (o, d) => do
    let (q, f) := if num32 x.l == .nan then (qnan32, 0#5) else
      (match num32 x.l with | .fin _ 0 _ => (0#32, 0#5) | _ => fdiv o x.l)
    sticky f
    c.put (c.t 2) [d, h * a.g + r * a.hp + k, slot, 0, 0] c.cvt 0 (num32 q)))

/-! ATTN_DECODE on the Crema path (R167 to R174). -/

/-- Decode slots of an instance: its share under R65, split under R64 unless every instance takes them all. -/
def decSlots (c : Cx) : Nat × Nat :=
  let a := c.att
  if a.die && 1 < a.nsplit then
    let sw := wAt c.w 18
    let n := wfld sw 4 0
    if n < 2 then (0, c.bind 3) else share (c.bind 3) n (wfld sw 11 8)
  else c.units (c.bind 3) (wAt c.w 18)

/-- The command sequence of an item (R250): chunk index and entry, first visible lane of each. -/
def itemCmds (c : Cx) (h n : Nat) (chunks : List (Nat × BEnt)) (q : Nat) : List CCmd :=
  let a := c.att
  let g := c.cfg
  let fmt := (c.t 0).fmt
  let z : CCmd := { op := 0, fn := 0, np := 0, stepd := false, opnd := .none, dp := 0, d := 0, a := 0, b := 0, count := n, mrow := 0, xbase := 0,
                    xfmt := fmt, xoff := 0, xstep := a.hp, imm := 0#32, cvt := c.cvt }
  let S (b : Nat) : Nat := 1024 + 8 * b
  let P (b : Nat) : Nat := 1040 + 8 * b
  let A (b : Nat) : Nat := 1056 + 8 * b
  let tile (e : BEnt) (k : Nat) : COperand :=
    let pb := g.pairBytes e.half
    let base := g.chunkBase e.pc e.frame e.half + (a.layer * g.kvHeads + h) * pb
    let b := fmtBits e.fmt
    .tile (base + k * 8 * b * g.hDim) e.fmt (base + 64 * g.hDim + k * 2 * g.hDim)
  let kt (e : BEnt) (b : Nat) : CCmd := { z with op := 1, fn := 1, np := n - 1, opnd := tile e 0, dp := 1, d := S b, count := a.hd }
  let vt (i : Nat) (e : BEnt) : CCmd :=
    { z with op := 1, fn := if i == 0 then 5 else 4, np := n - 1, stepd := true, opnd := tile e 1, dp := a.hd, d := 0, a := A (i % 2), b := P (i % 2), count := a.hd }
  let lo (j : Nat) : Nat := if a.mask == 1 then min (q + 1 - a.win - 64 * j) 64 else 0
  let per := chunks.zipIdx.map (fun ((j, e), i) =>
    let b := i % 2
    [kt e b, { z with op := 2, fn := 8, a := S b, d := S b, imm := a.sm }] ++
    (if lo j == 0 then [] else [{ z with op := 2, fn := 10, a := S b, d := S b, imm := BitVec.ofNat 32 (lo j + 64 * 256) }]) ++
    (if i == 0 then
      [{ z with op := 3, fn := 1, a := S b, b := S b, d := P b }, { z with op := 2, fn := 6, a := P b, d := 1088 }, { z with op := 2, fn := 6, a := S b, d := 1072 }]
     else
      [{ z with op := 2, fn := 4, a := 1072, b := S b, d := 1080 }, { z with op := 3, fn := 1, a := 1072, b := 1080, d := A b },
       { z with op := 3, fn := 1, a := S b, b := 1080, d := P b }, { z with op := 2, fn := 16, a := A b, b := P b, d := 1088 },
       { z with op := 2, fn := 6, a := 1080, d := 1072 }] ++
      (match chunks[i - 1]? with | some (_, e') => [vt (i - 1) e'] | none => [])))
  per.flatten ++ (match chunks.getLast? with | some (_, e) => [vt (chunks.length - 1) e] | none => []) ++
  [{ z with op := 4, fn := 5, a := 1072, d := 1080 }, { z with op := 3, fn := 1, a := 1072, b := 1080, d := 1096 },
   { z with op := 2, fn := 2, a := 1088, b := 1096, d := 1104 }, { z with op := 4, fn := 4, a := 1104, d := 1112 },
   { z with op := 4, fn := 2, a := 0, b := 1096, d := 1120, xoff := a.hd, count := n * a.hd },
   { z with op := 6, fn := 1, np := n - 1, a := 1080, b := 1112, d := 1120, xoff := a.hd / 64, count := 1 }]

/-- A query part: HP × HDIM elements of T0's format, element d of head k at d × HP + k (R169, R250); heads that a short last part lacks are zero. -/
def queryPart (c : Cx) (heads : List Nat) (slot : Nat) : M (List Byte) := do
  let t := c.t 0
  let w := fmtBits t.fmt / 8
  let es ← (List.range c.att.hd).mapM (fun d => heads.mapM (fun h => do return natBytes w (← c.rdBits t [d, h, slot, 0, 0])))
  return (es.map (fun l => padTo (w * c.att.hp) l.flatten)).flatten

/-- A merge of a slot and its items, entered into the core's attention engine (R168). -/
def State.addMerge (s : State) (c : Cx) (si h r : Nat) (chunks : List (Nat × BEnt)) (pos : Nat) (hs : List MergeHead) (buf : List Byte) : State :=
  let id := ((getT s.atts c.dcore).getD {}).nextId
  let mk (pc : Nat) : Piece :=
    { d := c.d, kind := .item, core := c.dcore, slot := 0, mid := id,
      cmds := itemCmds c h hs.length (chunks.filter (fun x => x.2.pc == pc)) pos, done := [], inbuf := buf }
  let items : List AttItem := (c.pcset.filter (fun pc => chunks.any (fun x => x.2.pc == pc))).map (fun pc => { pc := pc, piece := mk pc, merge := id })
  { s with atts := modT s.atts c.dcore {} (fun t =>
    { t with nextId := id + 1, items := t.items ++ items,
             merges := t.merges ++ [{ id := id, d := c.d, slot := si, h := h, r := r, left := items.length, heads := hs }] }) }

/-- One slot on the Crema path: walk, open partials, items. All is read before anything is written or dispatched, so that a slot that faults can run
again from its start. -/
def decUnitC (c : Cx) (u : Nat) : M PUnit := do
  let a := c.att
  let si := (decSlots c).1 + u
  let slot ← c.slotEnt si
  let chunks ← c.walk slot u c.pcset
  let parts ← (List.range a.kvh).mapM (fun h => do
    let blk ← c.openBlock slot a.layer h
    (List.range a.nparts).mapM (fun r => do
      let heads := a.heads h r
      let qs ← heads.mapM (fun x => c.query x si)
      let buf ← queryPart c heads si
      let hs ← qs.mapM (fun q => headPartial a.sm a.hd q [blk])
      return (h, r, buf, hs)))
  parts.flatten.forM (fun (h, r, buf, hs) => do
    modS (·.putPbuf c.part (a.recOff si h r 0) (recBytes a hs))
    modS (·.addMerge c si h r chunks (SL.pos slot) hs buf))

/-- T2 of a merge is written: its running state goes. -/
def State.mergeWritten (s : State) (core id : Nat) : State :=
  let f (m : MergeSet) : MergeSet := if m.id == id then { m with heads := [] } else m
  { s with atts := modT s.atts core {} (fun t => { t with merges := t.merges.map f }) }

/-- Write T2 for the core's merges of the descriptor that have all their records (R174). -/
def finishMerges (c : Cx) : M PUnit := do
  let s ← getS
  let due := ((getT s.atts c.dcore).getD {}).merges.filter (fun m => m.d == c.d && m.left == 0 && !m.heads.isEmpty)
  due.forM (fun m => do
    c.writeOut m.slot m.h m.r m.heads
    modS (·.mergeWritten c.dcore m.id))

/-- Is some merge of the descriptor unfinished on any core? -/
def mergesLeft (s : State) (d : DTag) : Bool := s.atts.any (fun (_, t) => t.merges.any (fun m => m.d == d && !m.heads.isEmpty))

/-- The descriptor has no merges left: its engines forget it. -/
def State.settleAtt (s : State) (c : Cx) : State :=
  match (dRunOf s c.d).stat with
  | .faulted => s
  | .waiting => s
  | _ =>
    if mergesLeft s c.d then s.modD c.d (fun x => { x with stat := .running })
    else
      let drop (t : Att) : Att := { t with merges := t.merges.filter (fun m => m.d != c.d) }
      let s : State := { s with atts := s.atts.map (fun p => (p.1, drop p.2)) }
      s.modD c.d (fun x => if x.stat == .running then { x with stat := .ran } else x)

def finishCores (s : State) (c : Cx) : State :=
  (List.range c.cores.length).foldl (fun s i =>
    if (dRunOf s c.d).stat == .faulted then s
    else postRun s { c with inst := i, core := c.cores.getD i 0 } (10 ^ 9) (finishMerges { c with inst := i, core := c.cores.getD i 0 })) s

/-! The die-only path (R175). -/

/-- Chunk blocks of a slot for a KV head. -/
def Cx.chunkBlocks (c : Cx) (slot : List Word) (h : Nat) (chunks : List (Nat × BEnt)) : M (List Block) :=
  let a := c.att
  let pos := SL.pos slot
  chunks.mapM (fun (j, e) => c.dieTile j e a.layer h (a.vis pos (pos + SL.ntok slot)))

def decUnitD (c : Cx) (u : Nat) : M PUnit := do
  let a := c.att
  let si := (decSlots c).1 + u
  let slot ← c.slotEnt si
  let chunks ← c.walk slot u (jobPcs c.parts)
  let (lo, n) := if 1 < a.nsplit then share chunks.length a.nsplit c.inst else (0, chunks.length)
  let mine := (chunks.drop lo).take n
  (List.range a.kvh).forM (fun h => do
    let blks ← c.chunkBlocks slot h mine
    let ob ← if c.inst == 0 || a.nsplit < 2 then c.openBlock slot a.layer h else pure []
    (List.range a.nparts).forM (fun r => do
      let qs ← (a.heads h r).mapM (fun x => c.query x si)
      let part ← qs.mapM (fun q => headPartial a.sm a.hd q blks)
      if c.inst == 0 || a.nsplit < 2 then
        let open_ ← qs.mapM (fun q => headPartial a.sm a.hd q [ob])
        modS (·.putPbuf c.part (a.recOff si h r 0) (recBytes a open_))
        if a.nsplit < 2 then
          let (hs, f) := mergeHeads (← drawM) open_ part
          sticky f
          c.writeOut si h r hs
        else pure ()
      else pure ()
      if 1 < a.nsplit then modS (·.putPbuf c.part (a.recOff si h r (1 + c.inst)) (recBytes a part)) else pure ()))

/-- The lowest instance merges the records of every slot in record order. -/
def dieMerge (c : Cx) : M PUnit := do
  let a := c.att
  let (s0, n) := decSlots c
  (List.range n).forM (fun u => (List.range a.kvh).forM (fun h => (List.range a.nparts).forM (fun r => do
    let rec' (i : Nat) : M (List MergeHead) := do
      return recHeads a (a.heads h r).length (getPbuf (← getS) c.part (a.recOff (s0 + u) h r i) a.recsz)
    let hs ← (List.range a.nsplit).foldlM (fun (x : List MergeHead) j => do
      let (y, f) := mergeHeads (← drawM) x (← rec' (1 + j))
      sticky f
      return y) (← rec' 0)
    c.writeOut (s0 + u) h r hs)))

/-- The tensor slots of ATTN_DECODE (Table 03.7). -/
def decodeSlots : List Nat := [0, 2, 3]

def decodeRun (s : State) (c : Cx) : State :=
  if c.att.die then
    let s := runOp s c decodeSlots (fun c => (decSlots c).2) decUnitD
    if (dRunOf s c.d).stat == .ran && (dRunOf s c.d).status == 0 && 1 < c.att.nsplit then postRun s c (10 ^ 9) (dieMerge c) else s
  else
    let s := runOp s c decodeSlots (fun c => (decSlots c).2) decUnitC
    (finishCores s c).settleAtt c

def execAttnDecode (d : DescRef) (s : State) : Host.Outcome State Fault Refusal := .next (descStep s d 0x03 decodeRun)

/-! Items and records (R168, R172, R174). -/

def att (s : State) (core : Nat) : Att := (getT s.atts core).getD {}

/-- Record slots of a descriptor's T3 in use by any core. -/
def slotsUsed (s : State) (d : DTag) : List Nat :=
  (s.atts.map (fun (_, t) => (t.slots.filter (fun x => t.merges.any (fun m => m.id == x.2.1 && m.d == d))).map (·.1))).flatten

/-- The piece of an item once record slot `k` is its own: EMIT goes to the slot. -/
def AttItem.placed (it : AttItem) (c : Cx) (k : Nat) : Piece :=
  let opnd : COperand := .slot (TV.part (c.t 3).w) ((c.t 3).base + k * c.att.recsz) c.att.recsz
  { it.piece with slot := k, cmds := it.piece.cmds.map (fun q => if q.op == 6 then { q with opnd := opnd } else q) }

/-- CREMA_ITEM_DISPATCH: the first waiting item takes a free record slot and enters its unit's queue, if both have room. -/
def dispatchItem (s : State) (core : Nat) : State :=
  let t := att s core
  match t.items with
  | [] => s
  | it :: rest =>
    match pieceCx s it.piece.d (core % 16) with
    | none => s
    | some c =>
      let t3 := c.t 3
      let rs := c.att.recsz
      let used := slotsUsed s c.d
      match (List.range (t3.dim 0 / max rs 1)).find? (fun i => !used.contains i) with
      | none => s
      | some k =>
        let u := cunit s it.pc
        let p := it.placed c k
        if !u.waiting.isEmpty || !u.canQueue p || u.disabled || 4 ≤ pState s (core / 16) then s
        else
          { s with units := putT s.units it.pc { u with queue := u.queue ++ [p] },
                   atts := putT s.atts core { t with items := rest, slots := t.slots ++ [(k, it.merge, false)] } }

def execCremaItemDispatch (core : Nat) (s : State) : Host.Outcome State Fault Refusal :=
  .next { s with units := (dispatchItem s core).units, atts := (dispatchItem s core).atts }

/-- The record in slot `slot` of T3 is combined into merge `m`, and the slot is free again (R172, R174). -/
def recordIn (s : State) (core slot : Nat) (x : Nat × Nat × Bool) (m : MergeSet) (c : Cx) : State :=
  let t := att s core
  let bs := getPbuf s (TV.part (c.t 3).w) ((c.t 3).base + slot * c.att.recsz) c.att.recsz
  let (hs, f) := mergeHeads s.free m.heads (recHeads c.att m.heads.length bs)
  let m' := { m with heads := hs, left := m.left - 1 }
  let t' := { t with slots := t.slots.erase x, merges := t.merges.map (fun y => if y.id == m.id then m' else y) }
  ({ s with atts := putT s.atts core t' } : State).modD c.d (fun y => { y with sticky := y.sticky ||| f })

/-- RESULT_RECORD_MERGE: a landed record enters its merge; its slot is free again; the last record writes T2. -/
def mergeRecord (s : State) (core slot : Nat) : State :=
  let t := att s core
  match t.slots.find? (fun x => x.1 == slot && x.2.2) with
  | none => s
  | some x =>
    match t.merges.find? (·.id == x.2.1) with
    | none => s
    | some m =>
      match pieceCx s m.d (core % 16) with
      | none => s
      | some c0 =>
        let c := { c0 with inst := c0.cores.findIdx (· == core % 16) }
        let s := recordIn s core slot x m c
        (if (dRunOf s c.d).stat == .faulted then s else postRun s c (10 ^ 9) (finishMerges c)).settleAtt c

def execResultRecordMerge (core slot : Nat) (s : State) : Host.Outcome State Fault Refusal := .next (touchDesc s (mergeRecord s core slot))

/-! ATTN_PREFILL (R176, R177). -/

def preSlots (c : Cx) : Nat := c.bind 1 - c.bind 3
def preHeads (c : Cx) : Nat × Nat := c.mine c.att.qh

/-- Key blocks of a slot for a KV head, in position order: position, key and value of each key. -/
def Cx.keyBlocks (c : Cx) (slot : List Word) (h : Nat) (chunks : List (Nat × BEnt)) : M (List (List (Nat × List Num × List Num))) := do
  let a := c.att
  let pos := SL.pos slot
  let tiles ← chunks.mapM (fun (j, e) => do
    let b ← c.dieTile j e a.layer h (fun _ => true)
    return b.zipIdx.map (fun (x, l) => (64 * j + l, x.1, x.2.1)))
  let two := (List.range (ceilDiv tiles.length 2)).map (fun i => ((tiles.drop (2 * i)).take 2).flatten)
  let op ← (List.range (pos % 64)).mapM (fun l => do
    let (k, v) ← c.openKV slot 0 l a.layer h
    return (pos / 64 * 64 + l, k, v))
  let t1 := c.t 1
  let new ← (List.range (SL.ntok slot)).mapM (fun i => do
    let k ← (List.range a.hd).mapM (fun d => c.elem t1 [d, h, SL.row slot + i, 0, 0])
    let v ← (List.range a.hd).mapM (fun d => c.elem t1 [d, a.kvh + h, SL.row slot + i, 0, 0])
    return (pos + i, k, v))
  return two ++ (if op.isEmpty then [] else [op]) ++ (List.range (ceilDiv new.length 128)).map (fun i => (new.drop (128 * i)).take 128)

/-- Running state of a query row. -/
structure PRow where
  m : Word
  z : Word
  o : List Word

/-- One key block enters a query row (R177). -/
def PRow.step (sm : Word) (q : List Num) (vis : Nat → Bool) (x : PRow) (kb : List (Nat × List Num × List Num)) : M PRow := do
  let ss ← kb.mapM (fun (p, k, _) => if vis p then score sm q k else pure ninf32)
  let mn := ss.foldl fmaxW x.m
  let dr ← drawM
  let (a, ps) : Word × List Word := if mn == ninf32 then (one32, ss.map (fun _ => 0#32))
    else (expsub dr x.m mn, ss.map (fun s => (rnd32 (decodeElem 1 (encodeElem 1 0 0 (num32 (expsub dr s mn))).1)).1))
  let z := (fadd (fmul x.z a).1 (anyOrderSum dr 0#32 ps)).1
  let o := x.o.zipIdx.map (fun (o, d) =>
    accumulate (dr + d + 1) (fmul o a).1 ((ps.zip kb).map (fun (p, (_, _, v)) => (mulNum (num32 p) (nthN v d)).1)))
  return { m := mn, z := z, o := o }

/-- Stop units: head by slot; then the working areas, which end unspecified. An instance without heads or slots does no work (R64). -/
def preUnit (c : Cx) (u : Nat) : M PUnit := do
  let a := c.att
  let (h0, nh) := preHeads c
  let ns := preSlots c
  if u < nh * ns then
    let head := h0 + u / max ns 1
    let si := c.bind 3 + u % max ns 1
    let h := head / max a.g 1
    let slot ← c.slotEnt si
    let chunks ← c.walk slot u (jobPcs c.parts)
    let kbs ← c.keyBlocks slot h chunks
    let pos := SL.pos slot
    let n := SL.ntok slot
    let vis (i : Nat) : Nat → Bool := a.vis (pos + i) (pos + n)
    (List.range n).forM (fun i => do
      -- the query block of row i decides which key blocks are read
      let rows := (List.range 128).map (fun k => i / 128 * 128 + k)
      let seen := kbs.filter (fun kb => kb.any (fun x => rows.any (fun k => decide (k < n) && vis k x.1)))
      let q ← (List.range a.hd).mapM (fun d => c.elem (c.t 0) [d, head, SL.row slot + i, 0, 0])
      let x0 : PRow := { m := ninf32, z := 0#32, o := List.replicate a.hd 0#32 }
      let x ← seen.foldlM (fun (x : PRow) kb => x.step a.sm q (vis i) kb) x0
      x.o.zipIdx.forM (fun (o, d) => do
        let (y, f) := if num32 x.z == .nan then (qnan32, 0#5) else
          (match num32 x.z with | .fin _ 0 _ => (0#32, 0#5) | _ => fdiv o x.z)
        sticky f
        c.put (c.t 2) [d, head, SL.row slot + i, 0, 0] c.cvt 0 (num32 y)))
  else
    let dr := (← getS).free
    let k0 ← fresh
    modS (fun s =>
      let s := s.putScratch c.part (c.core * 0x400000 + a.scr) ((List.range 0x40000).map (fun i => Config.freeByte dr (k0 + i)))
      { s with mem := { s.mem with acc := s.mem.acc.filter (fun p =>
          !(p.1 / 128 / 2048 == c.dcore && decide (1536 ≤ p.1 / 128 % 2048))) } })
    modify (fun x => { x with k := x.k + 0x40000 })

def prefillRun (s : State) (c : Cx) : State :=
  if engineBusy s c 0 0 then s
  else runOp s c [0, 1, 2] (fun c => let n := (preHeads c).2 * preSlots c; if n == 0 then 0 else n + 1) preUnit

def execAttnPrefill (d : DescRef) (s : State) : Host.Outcome State Fault Refusal := .next (descStep s d 0x02 prefillRun)

end Sys2Proof.Machine
end

