-- ==== Sys2Proof/Machine/Control.lean ====
section
/-! DEFINITION. Control, network and observing descriptors: flags (R308 to R315), FENCE and DRAIN (R68), atomics (R317 to R320), NET_WRITE,
NET_READ and NET_SEND (R321, R344, R352), WATCH (R453 to R455), STEP_END (R69) and the completion of a descriptor (R71, R76). -/

namespace Sys2Proof.Machine

/-- A running descriptor of opcode `op` that may go on. -/
def goingOn (s : State) (d : DescRef) (op : Nat) : Option (Job × StepRun × Cx) :=
  match named s d with
  | none => none
  | some (j, r, c) =>
    if c.opcode == op && (dRun r d.idx).stat == .running && mayGoOn s c.part r d.idx then some (j, r, c) else none

/-- A second event of a running descriptor. -/
def contStep (s : State) (d : DescRef) (op : Nat) (f : State → Job → StepRun → Cx → State) : State :=
  match goingOn s d op with
  | none => s
  | some (j, r, c) => touchDesc s (f s j r c)

def State.setStat (s : State) (d : DTag) (st : DStat) (status : Nat := 0) : State :=
  s.modD d (fun x => { x with stat := st, status := status })

/-! FLAG_SET (R309). -/

def flagTarget (c : Cx) : Word := wAt c.w 12

def flagRun (mode : Nat) (s : State) (c : Cx) : State :=
  if wfld (wAt c.w 13) 0 0 != mode then s
  else
    let s := (s.noteStart c).flushPart c.part
    let s := s.descFlag c.d c.part (flagTarget c) (mode == 0)
    let s := s.trace { cls := 4, kind := 0, part := c.part, core := c.core, engine := c.engine, attempt := c.attempt, id := c.id, step := c.d.step,
                       data := [(flagTarget c).toNat, c.id.toNat] }
    s.setStat c.d .ran

def execFlagSet (d : DescRef) (s : State) : Host.Outcome State Fault Refusal := .next (descStep s d 0x20 (flagRun 0))
def execFlagSetClear (d : DescRef) (s : State) : Host.Outcome State Fault Refusal := .next (descStep s d 0x20 (flagRun 1))

/-! FLAG_WAIT (R310 to R313). -/

/-- T of R312: 64 × TIMEOUT, or the partition's default. -/
def waitT (s : State) (c : Cx) : Nat :=
  let t := (wAt c.w 13).toNat
  64 * (if t == 0 then regF s .prt c.part 0x060 15 0 else t)

def waitConsumes (c : Cx) : Bool := wbit (wAt c.w 14) 0

/-- The wait starts; its first sample is in this clock. -/
def waitRun (s : State) (c : Cx) : State := (s.noteStart c).setStat c.d .running

def execFlagWait (d : DescRef) (s : State) : Host.Outcome State Fault Refusal := .next (descStep s d 0x21 waitRun)

/-- The flag's store as the samples of clock `t` see it: sets that apply by then, clears that applied before it (R311). -/
def tabAt (tab : Tbl FlagVal) (cs : List FlagChange) (t : Nat) : Tbl FlagVal :=
  (cs.filter (fun c => decide (c.clk < t) || (c.clk == t && c.set))).foldl applyChange tab

/-- The sample of a wait of partition `p` in clock `t` finds flag `f` set. A consuming wait is taken to have found it clear in a clock in which
another one was satisfied by it (R311). -/
def sampleFinds (tab : Tbl FlagVal) (cs : List FlagChange) (p f : Nat) (consumes : Bool) (t : Nat) : Bool :=
  flagSeen (tabAt tab cs t) t p f && !(consumes && cs.any (fun c => c.consume && c.flag == f && c.clk == t))

/-- The first clock from `t0` to `t1` whose sample finds flag `f` set; a sample's answer changes only at these clocks. -/
def firstFound (tab : Tbl FlagVal) (cs : List FlagChange) (p f : Nat) (consumes : Bool) (t0 t1 : Nat) : Option Nat :=
  let times := [t0] ++ (flagVal tab f).sets.map (sampleFrom p) ++ ((cs.filter (·.flag == f)).map (fun c => [c.clk, c.clk + 1, c.clk + 7])).flatten
  let ok := times.filter (fun t => decide (t0 ≤ t) && decide (t ≤ t1) && sampleFinds tab cs p f consumes t)
  ok.foldl (fun (m : Option Nat) t => match m with | none => some t | some x => some (min x t)) none

/-- Clock in which a running wait of a step finds its flag, looking at clocks up to now and to its T (R312). -/
def foundAt (s : State) (j : Job) (r : StepRun) (c : Cx) : Option Nat :=
  let f := wfld (flagTarget c) 11 0
  let t0 := (dRun r c.d.idx).startClk
  let t1 := min s.time.clk (t0 + waitT s c)
  let con := waitConsumes c
  if f < 2048 then firstFound r.flags r.changes c.part f con t0 t1 else firstFound j.flags j.changes c.part f con t0 t1

/-- Other running consuming waits of the job on a job flag, with the clock each finds it. -/
def rivals (s : State) (j : Job) (c : Cx) : List (Nat × Cx) :=
  (j.runs.map (fun q => match progOf j q.prog with
    | none => []
    | some p => (List.range p.descs.length).filterMap (fun k =>
        let x := cxOf s j q p c.d.lead k
        if x.opcode == 0x21 && (dRun q k).stat == .running && waitConsumes x && x.d != c.d &&
           wfld (flagTarget x) 11 0 == wfld (flagTarget c) 11 0 then (foundAt s j q x).map (fun t => (t, x)) else none))).flatten

/-- R311: earlier clock first, then partition, core and engine. -/
def goesBefore (t : Nat) (x : Cx) (t' : Nat) (y : Cx) : Bool :=
  decide (t < t') || (t == t' && (decide (x.part < y.part) || (x.part == y.part && (decide (x.core < y.core) || (x.core == y.core && decide (x.engine < y.engine))))))

/-- Another running consuming wait that found the job flag takes it first (R311). -/
def loses (s : State) (j : Job) (c : Cx) (t : Nat) (sameClock : Bool) : Bool :=
  waitConsumes c && decide (2048 ≤ wfld (flagTarget c) 11 0) && (rivals s j c).any (fun (t', x) => goesBefore t' x t c && (!sameClock || t' == t))

def satisfied (s : State) (j : Job) (r : StepRun) (c : Cx) : State :=
  match foundAt s j r c with
  | none => s
  | some t =>
    let f := wfld (flagTarget c) 11 0
    if loses s j c t false then s
    else
      let clr : FlagChange := { clk := t, flag := f, set := false, part := some c.part, consume := true }
      let s := if !waitConsumes c then s
        else if f < 2048 then s.modRun c.d.lead c.d.step (fun r => { r with changes := insChange clr r.changes })
        else s.modJob c.d.lead (fun j => { j with changes := insChange clr j.changes })
      let s := s.trace { cls := 4, kind := 1, part := c.part, core := c.core, engine := c.engine, attempt := c.attempt, id := c.id, step := c.d.step,
                         data := [(flagTarget c).toNat, c.id.toNat] }
      s.setStat c.d .ran

def execFlagWaitSatisfied (d : DescRef) (s : State) : Host.Outcome State Fault Refusal := .next (contStep s d 0x21 satisfied)

/-- In its clock T the wait found the flag clear, or lost the ordering of R311. -/
def missedAtT (s : State) (j : Job) (r : StepRun) (c : Cx) : Bool :=
  match foundAt s j r c with
  | none => true
  | some t => t == (dRun r c.d.idx).startClk + waitT s c && loses s j c t true

/-- The wait ends with TIMEOUT (R73, R312). -/
def timedOut (s : State) (j : Job) (r : StepRun) (c : Cx) : State :=
  if s.time.clk < (dRun r c.d.idx).startClk + waitT s c || !missedAtT s j r c then s
  else
    let s := s.setStat c.d .timedOut 2
    let s := s.trace { cls := 4, kind := 2, part := c.part, core := c.core, engine := c.engine, attempt := c.attempt, id := c.id, step := c.d.step,
                       data := [(flagTarget c).toNat, c.id.toNat] }
    let s := match (runOf j r.no) with
      | some _ => s.complRec j { r with runs := modT r.runs c.d.idx {} (fun x => { x with status := 2 }) } c.prog c.d.idx 2
      | none => s
    let s := s.fault (c.at_ 0) { code := 0x3101, flagA := flagTarget c, flagB := wAt c.w 10, resumable := false }
    if c.trunc.isSome then s.endTrunc c.d.lead c.d.step else s

def execFlagWaitTimeout (d : DescRef) (s : State) : Host.Outcome State Fault Refusal := .next (contStep s d 0x21 timedOut)

/-! FENCE and DRAIN (R68). -/

/-- Is the descriptor on a queue that the FENCE names? -/
def fenceNames (c : Cx) (v : List Word) : Bool :=
  let m := wAt c.w 12
  wbit m 9 || (wbit m 8 && descPart v == c.part) ||
  (wbit m (descEngine v) && decide (descEngine v < 4) && descPart v == c.part && (descCores v).contains c.core)

def fenceMet (r : StepRun) (c : Cx) : Bool :=
  (List.range c.d.idx).all (fun k => !fenceNames c (c.prog.descs.getD k []) || (dRun r k).stat.ended)

/-- A FENCE starts, and completes at once or by a later command, when its queues' earlier descriptors have completed. -/
def fenceStep (s : State) (d : DescRef) : State :=
  match startable s d 0x22 with
  | some c => touchDesc s ((s.noteStart c).setStat c.d (match named s d with
      | some (_, r, c) => if fenceMet r c then .ran else .running
      | none => .running))
  | none => contStep s d 0x22 (fun s _ r c => if fenceMet r c then s.setStat c.d .ran else s)

def execFence (d : DescRef) (s : State) : Host.Outcome State Fault Refusal := .next (fenceStep s d)

/-- Network writes of a partition under way: queue pair and last PSN. -/
def netWrites (s : State) (p : Nat) : List (Nat × Nat) :=
  (outMsgs s).filterMap (fun (q, m) => match m.d with
    | none => none
    | some d => match pieceCx s d 0 with
      | some x => if x.part == p && m.kind ≤ 1 then some (q, m.last) else none
      | none => none)

/-- The writes remembered at the DRAIN's start have been acknowledged; one whose queue pair failed waits for its fault's resolution. -/
def drained (s : State) (p : Nat) (ws : List (Nat × Nat)) : Bool :=
  ws.all (fun w => !(outMsgs s).any (fun (q, m) => q == w.1 && m.last == w.2)) && !(part s p).faults.any (·.code == 0x4001)

/-- A DRAIN: write-combining entries are flushed at its start; posted PCIe writes are already accepted in this model; network writes are
waited for. -/
def drainStep (s : State) (d : DescRef) : State :=
  match startable s d 0x23 with
  | some c =>
    let s1 := s.noteStart c
    let s1 := if wbit (wAt c.w 12) 0 then s1.flushPart c.part else s1
    let ws := if wbit (wAt c.w 12) 1 then netWrites s c.part else []
    touchDesc s (s1.modD c.d (fun x => { x with stat := if drained s c.part ws then .ran else .running, left := some ws }))
  | none => contStep s d 0x23 (fun s _ r c => if drained s c.part ((dRun r c.d.idx).left.getD []) then s.setStat c.d .ran else s)

def execDrain (d : DescRef) (s : State) : Host.Outcome State Fault Refusal := .next (drainStep s d)

/-! ATOMIC (R317 to R319). -/

def signedMax (a b : Word) : Word := if a.toInt < b.toInt then b else a
def signedMin (a b : Word) : Word := if b.toInt < a.toInt then b else a

/-- Table 12.3 on an element of format FP32 (code 0) or INT32. -/
def atomicVal (op fmt : Nat) (v x c : Word) : Word × Sticky :=
  match op with
  | 0 => if fmt == 0 then fadd v x else (v + x, 0#5)
  | 1 => (if fmt == 0 then fmaxW v x else signedMax v x, 0#5)
  | 2 => (if fmt == 0 then fminW v x else signedMin v x, 0#5)
  | 3 => (x, 0#5)
  | 4 => (if v == c then x else v, 0#5)
  | 5 => (v &&& x, 0#5)
  | _ => (v ||| x, 0#5)

/-- The controller's write of a segment with a new element of 4 bytes and fresh check bits, performed everywhere; another word of it that is
uncorrectable is poisoned (R221). Protected bytes are dropped (R81), and in an index under fill the write is (R210, R318). -/
def State.atomicPut (s : State) (a k : Nat) (bs : List Byte) (p : Nat) : State :=
  if fillIdx s == some (keyBg k) then s.bumpRC .stk (keyStack k) 0x008 31 16 1
  else
    let keep := (List.range 4).filter (fun i => !protAt s (a + i))
    let s := s.unseal k
    let s := if keep.length == 4 then s else
      ({ s with fw := { s.fw with protDrops := s.fw.protDrops + 1 } } : State).raise { code := 0x8101, part := some p, die := 0, detail := [a % 2 ^ 32, a / 2 ^ 32] }
    let words := (List.range 4).map (k / 64 * 4 + ·)
    let bad := if isHostKey s k then words.filter (fun w => wordFind s.mem w == .bad) else []
    let s := bad.foldl State.poisonAs s
    let s := { s with mem := { s.mem with dram := keep.foldl (fun m i => putB m (k + i) (bs.getD i 0#8)) s.mem.dram,
                                          synd := (words.filter (fun w => !bad.contains w)).foldl delT s.mem.synd } }
    (s.addWide .stk (keyStack k) 0x048 64).activate k

/-- Flush the entry that holds a segment (R318). -/
def State.flushSeg (s : State) (seg : Nat) : State := s.flushWhere (·.seg == seg)

/-- The permission to write T2 is looked at first, so that an ATOMIC is performed wholly or not at all. -/
def Cx.mayWrite (c : Cx) (t : TView) : M PUnit := do
  if t.space == 0 then c.reach 1 t.base 4

/-- The segment of an ATOMIC's target is read under ECC: only the target's own uncorrectable word faults (R318). Its transfer charges the
regulator for the segment's read and its write (R329). -/
def Cx.atomicRead (c : Cx) (a k : Nat) : M Word := do
  modS (fun s => (s.flushSeg (k / 64)).charge c.part 0 2 c.waitTrace)
  let s ← getS
  let bad := isHostKey s k && fillIdx s != some (keyBg k) && wordFind s.mem (k / 16) == .bad
  let (bs, _, s') := readRun s k 4
  modS (fun _ => s')
  if bad then stop { code := 0x1002, addr := a, pc := keyPc k }
  return BitVec.ofNat 32 (leNat bs)

/-- The read-modify-write of the target: its old value. -/
def Cx.atomicSwap (c : Cx) (t0 : TView) (f : Word → Word × Sticky) : M Word := do
  if t0.space == 2 then
    let v : Word := BitVec.ofNat 32 (leNat (← c.rd 2 (TV.part t0.w) t0.base 4))
    sticky (f v).2
    c.wr 2 (TV.part t0.w) t0.base (wordBytes (f v).1)
    return v
  else
    c.reach 0 t0.base 4
    c.reach 1 t0.base 4
    match hostKey (← getS) t0.base with
    | none => stop { code := 0x1001, addr := t0.base }
    | some k =>
      let v ← c.atomicRead t0.base k
      sticky (f v).2
      countB 8
      modS (·.atomicPut t0.base k (wordBytes (f v).1) c.part)
      return v

def atomicUnit (op : Nat) (c : Cx) (_ : Nat) : M PUnit := do
  let t0 := c.t 0
  let ret := wbit (wAt c.w 12) 8
  if ret then c.mayWrite (c.t 2)
  let old ← c.atomicSwap t0 (fun v => atomicVal op t0.fmt v (wAt c.w 13) (wAt c.w 14))
  if ret then c.wrBits (c.t 2) [0] old.toNat

/-- The tensor slots of an ATOMIC: T2 only with RET (Table 03.7). -/
def atomicSlots (c : Cx) : List Nat := if wbit (wAt c.w 12) 8 then [0, 2] else [0]

def atomicStep (s : State) (d : DescRef) (op : Nat) : State :=
  descStep s d 0x24 (fun s c => if wfld (wAt c.w 12) 3 0 == op then runOp s c (atomicSlots c) (fun _ => 1) (atomicUnit op) else s)

def execAtomicAdd (d : DescRef) (s : State) : Host.Outcome State Fault Refusal := .next (atomicStep s d 0)
def execAtomicMax (d : DescRef) (s : State) : Host.Outcome State Fault Refusal := .next (atomicStep s d 1)
def execAtomicMin (d : DescRef) (s : State) : Host.Outcome State Fault Refusal := .next (atomicStep s d 2)
def execAtomicSwap (d : DescRef) (s : State) : Host.Outcome State Fault Refusal := .next (atomicStep s d 3)
def execAtomicCas (d : DescRef) (s : State) : Host.Outcome State Fault Refusal := .next (atomicStep s d 4)
def execAtomicAnd (d : DescRef) (s : State) : Host.Outcome State Fault Refusal := .next (atomicStep s d 5)
def execAtomicOr (d : DescRef) (s : State) : Host.Outcome State Fault Refusal := .next (atomicStep s d 6)

/-! NET_WRITE, NET_READ, NET_SEND (R321, R344, R352). -/

/-- Are a tensor's strides dense over its rank? -/
def TView.dense (t : TView) : Bool :=
  (List.range (TV.rank t.w)).all (fun k => TV.stride t.w k == (prodL (t.dims.take k) : Int) || t.dim k == 1)

/-- The raw image of an uncompressed tensor from byte x on (R196). -/
def Cx.image (c : Cx) (t : TView) (x : Nat) : M (List Byte) := do
  if t.dense || fmtIsMx t.fmt then c.rawBytes t x (rawSize t.w t.elems - x)
  else
    let vs ← (List.range t.elems).mapM (fun n => c.rdBits t (unlinear t.dims n))
    let v := vs.foldr (fun v a => v + 2 ^ fmtBits t.fmt * a) 0
    return (natBytes (rawSize t.w t.elems) v).drop x

def netQp (c : Cx) : Nat := wfld (wAt c.w 12) 13 0
def netTotal (c : Cx) (k : Nat) : Nat := rawSize (c.t k).w (c.t k).elems
def netImm (c : Cx) : Option Word := if wbit (wAt c.w 12) 16 then some (wAt c.w 16) else none

/-- The queue pair can carry the job's messages. -/
def qpUsable (s : State) (c : Cx) (q : Nat) : Bool := (qpOf s q).st == .rts && (qpOf s q).job == c.d.lead

/-- Longest message (R344). -/
def msgMax : Nat := 2 ^ 31

/-- Issue the message of a network descriptor for the bytes from unit u (4,096 B) on; a WRITE or READ of more than a message holds goes on with the next
message when this one has ended. -/
def netUnit (kind : Nat) (c : Cx) (u : Nat) : M PUnit := do
  let s ← getS
  let q := netQp c
  if awaits s c.d then return
  else if !qpUsable s c q then stop { code := 0x4001, detail := q }
  else
    let slot := if kind == 2 then 2 else 0
    let x := if kind == 0 then 0 else 4096 * u
    let bs ← if kind == 2 then pure [] else c.image (c.t slot) x
    let len := if kind == 0 then netTotal c slot else min msgMax (netTotal c slot - x)
    let m : OutMsg := { psn := 0, last := 0, kind := kind, va := if kind == 0 then 0 else u64At c.w 13 + x, rkey := if kind == 0 then 0 else (wAt c.w 15).toNat,
                        imm := if kind == 2 then none else netImm c, len := len, data := bs.take len, d := some c.d, ring := none, seqno := none, off := x }
    if kind != 2 then modS (·.charge c.part 1 (ceilDiv len 64) c.waitTrace)
    modS (·.issue q m)
    modS (·.trace { cls := 3, kind := 0, part := c.part, core := c.core, engine := c.engine, attempt := c.attempt, id := c.id, step := c.d.step,
                    data := [q, (qpOf s q).sndPsn, len] })

/-- A descriptor whose message is not acknowledged yet stays running (R321). -/
def State.awaitAck (s : State) (c : Cx) : State :=
  s.modD c.d (fun x => if x.stat == .ran && x.status == 0 && awaits s c.d then { x with stat := .running } else x)

/-- At most 16 READs are outstanding on a queue pair (R344); a further one does not start before one completes. -/
def readsFull (s : State) (q : Nat) : Bool := decide (16 ≤ ((qpOf s q).unacked.filter (·.kind == 2)).length)

def netRun (kind : Nat) (s : State) (c : Cx) : State :=
  let slot := if kind == 2 then 2 else 0
  match c.trunc with
  | some (_, true) => (s.noteStart c).setStat c.d .ran 1
  | _ =>
    if kind == 2 && readsFull s (netQp c) then s
    else (runOp s c [slot] (fun c => pkts (netTotal c slot)) (netUnit kind)).awaitAck c

def execNetWrite (d : DescRef) (s : State) : Host.Outcome State Fault Refusal := .next (descStep s d 0x28 (netRun 1))
def execNetRead (d : DescRef) (s : State) : Host.Outcome State Fault Refusal := .next (descStep s d 0x29 (netRun 2))
def execNetSend (d : DescRef) (s : State) : Host.Outcome State Fault Refusal := .next (descStep s d 0x2A (netRun 0))

/-! WATCH (R453 to R455). -/

/-- Magnitude of an element as FP32. -/
def magW (v : Num) : Word := fabsW (rnd32 v).1

structure CupStats where
  nans : Nat
  infs : Nat
  largest : Word
  mean : Word
  deriving DecidableEq, Repr

/-- Counts and magnitudes of the watched elements; the order of the mean's sum is free (R51). -/
def cupStats (dr : Nat) (fmt : Nat) (vs : List Num) : CupStats :=
  let isInt := fmtIsInt fmt
  let ms := vs.map magW
  { nans := if isInt then 0 else (vs.filter (· == .nan)).length,
    infs := if isInt then 0 else (vs.filter (fun v => match v with | .inf _ => true | _ => false)).length,
    largest := ms.foldl fmaxW 0#32,
    mean := (fdiv (anyOrderSum dr 0#32 ms) (rnd32 (Num.ofInt vs.length)).1).1 }

/-- Table 19.6. -/
def cupCond (code : Nat) (t : Word) (x : CupStats) (target : DRun) : Bool :=
  match code with
  | 0 => true
  | 1 => decide (0 < x.nans)
  | 2 => decide (0 < x.infs)
  | 3 => decide (0 < x.nans) || decide (0 < x.infs)
  | 4 => (num32 t).lt (num32 x.largest)
  | 5 => (num32 x.largest).lt (num32 t)
  | 6 => (num32 t).lt (num32 x.mean)
  | 7 => target.sticky != 0#5
  | 8 => target.status != 0 && target.status != 1
  | 9 => target.drops != 0
  | _ => false

/-- Bytes of a watched tensor's raw image (a compressed one is decoded, R196). -/
def Cx.watched (c : Cx) (t : TView) : M (List Byte) := do
  if TV.comp t.w then
    let n := codecNB (rawSize t.w t.elems)
    (List.range n).foldlM (fun acc b => return acc ++ (← c.rdBlock t b)) []
  else c.image t 0

/-- Offer an entry of whole 4 KiB units to a dump ring; nothing is written without room for it whole (R455). -/
def State.dump (s : State) (p ring : Nat) (entry : List Byte) : Bool × State :=
  let o := 0x40 + 16 * ring
  let log := ringLog (regF s .dbg p (o + 4) 20 16) 12 30 20
  let base := reg s .dbg p o / 4096 * 4096 + regF s .dbg p (o + 4) 15 0 * 2 ^ 32
  let size := 2 ^ log / 4096
  let n := entry.length / 4096
  let prod := reg s .dbg p (o + 8)
  let used := (prod + 2 ^ 32 - reg s .dbg p (o + 12)) % 2 ^ 32
  let owned := spreadIn s (partsOf s ((part s p).lead.getD 16)).contains base (2 ^ log)
  if owned && decide (used + n ≤ size) then
    let s := (List.range n).foldl (fun s i => s.poke (base + (prod + i) % size * 4096) ((entry.drop (4096 * i)).take 4096)) s
    (true, s.setReg .dbg p (o + 8) (prod + n))
  else (false, s)

/-- Table 19.5. -/
def cupRecord (s : State) (c : Cx) (target : DRun) (x : CupStats) (elems units : Nat) (digest : List Byte) (held dumped dropped : Bool) : List Byte :=
  let m := wAt c.w 13
  let w6 := wfld m 1 0 + wfld m 7 4 * 16 + b2n held * 256 + b2n dumped * 512 + b2n dropped * 1024 + b2n c.trunc.isSome * 2048 + min c.attempt 15 * 4096
  padTo 128 (wordsBytes [0x4B574350#32, c.id, wAt c.w 12, lo32 c.d.step, lo32 s.time.now, hi32 s.time.now, BitVec.ofNat 32 w6, BitVec.ofNat 32 units] ++
    digest ++ wordsBytes [lo32 elems, hi32 elems, BitVec.ofNat 32 x.nans, BitVec.ofNat 32 x.infs, x.largest, x.mean,
      BitVec.ofNat 32 (target.sticky.toNat * 256 + target.status)])

def watchUnit (target : DRun) (c : Cx) (_ : Nat) : M PUnit := do
  let t := c.t 0
  let img ← c.watched t
  let vs ← (List.range t.elems).mapM (fun n => c.elem t (unlinear t.dims n))
  -- the elements' values are those of the image just read: they are counted once
  modify (fun x => { x with bytes := img.length })
  let i ← fresh
  let s ← getS
  let st := cupStats (s.free * 2 ^ 64 + i) t.fmt vs
  let m := wAt c.w 13
  let held := cupCond (wfld m 7 4) (wAt c.w 14) st target
  let full := wfld m 1 0 == 1 || (wfld m 1 0 == 2 && held)
  let dig := sha3 img
  let units := if full then ceilDiv (128 + img.length) 4096 else 1
  let ring := wfld (wAt c.w 15) 3 0
  if held then modS (·.bump .dbg c.part 0x144)
  let rec1 := cupRecord s c target st t.elems units dig held full false
  let (ok, s1) := (← getS).dump c.part ring (padTo (4096 * units) (rec1 ++ (if full then img else [])))
  if ok then
    modS (fun _ => s1)
    countB (4096 * units)
  else
    modS (·.bump .dbg c.part 0x140)
    if full && units != 1 then
      let rec2 := cupRecord s c target st t.elems 1 dig held false true
      let (_, s2) := (← getS).dump c.part ring (padTo 4096 rec2)
      modS (fun _ => s2)

def watchRun (s : State) (c : Cx) : State :=
  let target := dRunOf s { c.d with idx := descIdx c.prog (wAt c.w 12) }
  runOp s c [0] (fun _ => 1) (watchUnit target)

def execWatch (d : DescRef) (s : State) : Host.Outcome State Fault Refusal := .next (descStep s d 0x30 watchRun)

/-! STEP_END (R69) and completion (R71, R76). -/

def execStepEnd (d : DescRef) (s : State) : Host.Outcome State Fault Refusal :=
  .next (descStep s d 0x3F (fun s c => (s.noteStart c).setStat c.d .ran))

/-! The debug DMA channel's drain (R452). -/

/-- Move trace records to the ring while it has room. -/
def drainTrace (s : State) (p : Nat) : Nat → State
  | 0 => s
  | n + 1 =>
    match (part s p).trace with
    | [] => s
    | w :: rest =>
      let hi := reg s .dbg p 0x008
      let base := reg s .dbg p 0x004 / 4096 * 4096 + fld hi 15 0 * 2 ^ 32
      let size := 2 ^ ringLog (fld hi 20 16) 6 20 6
      let prod := reg s .dbg p 0x00C
      if !spreadIn s (partsOf s ((part s p).lead.getD 16)).contains base (64 * size) then
        -- a ring outside the job's regions receives nothing (R429)
        drainTrace ((s.modPart p (fun q => { q with trace := rest })).bump .dbg p 0x014) p n
      else if (prod + 2 ^ 32 - reg s .dbg p 0x010) % 2 ^ 32 ≥ size then s
      else
        let s := (s.pokeWords (base + prod % size * 64) w).setReg .dbg p 0x00C (prod + 1)
        drainTrace (s.modPart p (fun q => { q with trace := rest })) p n

def execTraceDrain (p : Nat) (s : State) : Host.Outcome State Fault Refusal :=
  .next (touchDesc s (drainTrace s p (part s p).trace.length))

end Sys2Proof.Machine
end

