-- ==== Sys2Proof/Machine/NetCore.lean ====
section
/-! DEFINITION. The transport's shared operations that reach jobs: setting up a connection (R347, R349), and a queue pair that enters ERROR
(R351, R387). -/

namespace Sys2Proof.Machine

/-- The coupling digest as NET_DIGEST shows it (R348). -/
def couplingDigest (s : State) : List Byte := natBytes 32 (getWide s ⟨.net, 0, 0x1020, 0⟩)

/-- NET_DIGSTATE.STALE (R350). -/
def digestStale (s : State) : Bool := bitN (reg s .net 0 0x1040) 0

/-- MODEL of a job: that of its first program, or 0. -/
def jobModel (s : State) (lead : Nat) : DWord := match (jobD s lead).progs.head? with | some p => p.model | none => 0#64

def sysIdx (s : State) : Nat := s.fw.sysIndex.getD 0xFFFFFFFF

/-- Private data of a coupled REQ, REP or REJ (Table 14.4). -/
def cmPriv (s : State) (lead purpose reason : Nat) : List Byte :=
  wordsBytes [0x4B57434D#32] ++ natBytes 2 1 ++ natBytes 1 purpose ++ natBytes 1 reason ++ natBytes 4 (sysIdx s) ++ natBytes 8 (jobModel s lead).toNat ++
  couplingDigest s ++ zeros 40

def serviceId (lead purpose : Nat) : Nat := 0x00004B5700000000 + 256 * lead + purpose

/-- Peer entry i (Table 14.3). -/
def peer (s : State) (i : Nat) : PeerEnt := (getT s.net.peers i).getD {}

/-- A free queue-pair context: number 2 or more, in RESET. -/
def freeQp (s : State) : Option Nat :=
  ((List.range (s.net.qps.length + 1)).map (· + 2)).find? (fun q => decide (q < 16384) && (qpOf s q).st == .reset)

/-- Start a connection from queue pair q to an address: the context goes to INIT and REQ is sent. -/
def State.request (s : State) (q lead purpose pr port : Nat) (addr : BitVec 128) (sid : Nat) (priv : List Byte) : State :=
  let psn := (Config.firstPsn s.free).toNat
  (s.modQp q (fun _ => { st := .init, job := lead, purpose := purpose, peer := pr, sndPsn := psn, port := port, addr := addr, setup := s.time.mono + 1 })).sendRoce
    port 92 (.cm 0 addr q 0 psn sid priv)

/-- Device firmware connects a queue pair to a coupled device, unless the digest is stale (R349, R350): none when it cannot. -/
def State.connect (s : State) (lead purpose pr port sid : Nat) : Option (Nat × State) :=
  let e := peer s pr
  if digestStale s || !e.valid then none
  else (freeQp s).map (fun q => (q, s.request q lead purpose pr port e.addr sid (cmPriv s lead purpose 0)))

/-- Firmware's port for a new connection: one that is up, else port 0. -/
def connPort (s : State) : Nat := (somePort s).getD 0

/-- The queue pair of Decant messages that is in use goes over to the other one; what is not acknowledged is sent again, but for CHUNKs
whose frame has been freed since (R387). -/
def State.decantSwitch (s : State) (lead q : Nat) : State :=
  match job? s lead with
  | none => s
  | some j =>
    if j.pair.qps.getD j.pair.active 0 != q || !j.pair.qps.contains q then s
    else
      let keep := j.pair.unacked.filter (fun m => match m.frame with
        | some (pc, f) => j.used.contains (.frame pc f)
        | none => true)
      let s := s.modJob lead (fun j => { j with pair := { j.pair with active := 1 - j.pair.active, unacked := keep } })
      keep.foldl (fun s m => s.decantOut lead m) s

/-- A descriptor whose message can no longer complete faults with 0x4001; its cursor is the first unit not acknowledged, of a SEND the whole (R321,
R352). -/
def State.netFault (s : State) (q : Nat) (m : OutMsg) (d : DTag) : State :=
  match (job? s d.lead).bind (fun j => (runOf j d.step).bind (fun r => (progOf j r.prog).map (fun p => cxOf s j r p d.lead d.idx))) with
  | none => s
  | some c => (s.modD d (fun x => { x with stat := .faulted })).descFault c (m.off / 4096) { code := 0x4001, detail := q }

/-- The response rings of a job that name a queue pair (Table 11.5). -/
def ringsOn (s : State) (lead q : Nat) : List Nat :=
  (List.range 256).filter (fun k => let e := ringEnt s (jobD s lead) k; ringType e == 1 && wfld (wAt e 0) 29 16 == q)

/-- What Barista does about a queue pair of its job in ERROR: response rings on it cannot be reached (R263), Decant goes on the other (R387). -/
def State.qpDown (s : State) (lead q : Nat) : State :=
  if (job? s lead).isNone then s
  else
    let s := (ringsOn s lead q).foldl (fun s k => s.ringDead lead k 0) s
    if (qpOf s q).purpose == 3 then s.decantSwitch lead q else s

/-- A queue pair enters ERROR: counted; waiting descriptors fault. What Barista does about it waits, in a suspended job, for its resume (R336). -/
def State.qpError (s : State) (q : Nat) (exhausted : Bool) : State :=
  let x := qpOf s q
  if x.st == .error then s
  else
    let s := s.modQp q (fun x => { x with st := .error, unacked := [], exhausted := exhausted })
    let s := s.bump .net 0 0x105C
    let s := x.unacked.foldl (fun s m => match m.d with | some d => s.netFault q m d | none => s) s
    if (jobD s x.job).saved.isSome then s.modJob x.job (fun j => { j with lateQps := j.lateQps ++ [q] }) else s.qpDown x.job q

end Sys2Proof.Machine
end

