-- ==== Sys2Proof/Machine/Digest.lean ====
section
/-! DEFINITION. Digest scrubbing and what follows a mismatch (R377 to R380), sealing a region (R375, R377), and refetching a block from its source
(R378, Table 15.4). -/

namespace Sys2Proof.Machine

/-! Blocks of a region (R377). -/

/-- Pseudo-channels that an entry spans, in ascending order. -/
def regionPcs (e : RatEnt) : List Nat := (List.range 1280).filter (fun pc => bitN e.pcsel (pc % 16))

/-- Blocks of 1 MiB of one pseudo-channel, or of a spread region. -/
def blocksPer (e : RatEnt) : Nat := e.size / 0x100000

def regionBlocks (e : RatEnt) : Nat := if e.window == 0 then blocksPer e else blocksPer e * (regionPcs e).length

/-- Device address of block b's first byte: of a bank-local region in the order of R377, of a spread region from its base. -/
def blockAddr (e : RatEnt) (b : Nat) : Nat :=
  if e.window == 0 then e.base + b * 0x100000
  else
    let n := max (blocksPer e) 1
    bankBase + (regionPcs e).getD (b / n) 0 * 2 ^ 30 + e.base + b % n * 0x100000

/-- The bytes that the digest engine reads: the stored ones of the Crema class. -/
def blockBytes (s : State) (e : RatEnt) (b : Nat) : List Byte := getBs s.mem.dram (blockAddr e b - bankBase) 0x100000

def classRec (s : State) (n : Nat) : ClassRec := (getT s.fw.regionClass n).getD { rat := n }

/-- Lead partition of the job that an entry's owner belongs to. -/
def ownerLead (s : State) (e : RatEnt) : Option Nat := (part s e.owner).lead

/-- Does a region hold frames of its job (R377: it is then never sealed)? -/
def holdsFrames (s : State) (e : RatEnt) : Bool :=
  match (ownerLead s e).bind (job? s) with
  | none => false
  | some j => decide (j.cfg.kvOff < e.base + e.size) && decide (e.base < j.cfg.kvOff + j.cfg.nFrame * j.cfg.fsize)

/-- May the region be sealed with its digest table at `tab`? -/
def sealable (s : State) (n tab : Nat) : Bool :=
  let e := ratEnt s n
  e.valid && e.window == 1 && e.dig && !holdsFrames s e &&
  (match (ownerLead s e).bind (job? s) with
   | none => false
   | some j => tab < bankBase && spreadIn s j.parts.contains tab (32 * regionBlocks e))

/-- Seal: the blocks' digests go to DIGTAB and scrubbing begins. -/
def State.sealRegion (s : State) (n : Nat) : State :=
  let e := ratEnt s n
  let tab := (classRec s n).digtab
  let s := s.fwPoke tab ((List.range (regionBlocks e)).map (fun b => sha3 (blockBytes s e b))).flatten
  { s with fw := { s.fw with sealedR := s.fw.sealedR.filter (· != n) ++ [n] } }

/-! Refetch. -/

/-- A DATA queue pair of the job to a system index, ready to send. -/
def dataQp (s : State) (lead sysidx : Nat) : Option Nat :=
  ((s.net.qps.find? (fun (_, x) => x.st == .rts && x.purpose == 0 && x.job == lead && x.peer == sysidx)).map Prod.fst)

/-- Ask for a block's bytes at its source. Without a queue pair to it, one is set up first, and the block is asked for once it is ready. -/
def State.fetchBlock (s : State) (n b : Nat) : State :=
  let e := ratEnt s n
  let r := classRec s n
  let lead := (ownerLead s e).getD e.owner
  match dataQp s lead r.sysidx with
  | some q => s.issue q { psn := 0, last := 0, kind := 2, va := r.raddr + b * 0x100000, rkey := r.rkey, imm := none, len := 0x100000, data := [], d := none,
                          ring := none, seqno := none, fetch := some (n, b) }
  | none =>
    let s : State := { s with net := { s.net with wanted := if s.net.wanted.contains (n, b) then s.net.wanted else s.net.wanted ++ [(n, b)] } }
    if s.net.qps.any (fun (_, x) => x.purpose == 0 && x.job == lead && x.peer == r.sysidx && (x.st == .init || x.st == .rtr)) then s
    else match s.connect lead 0 r.sysidx (connPort s) (serviceId lead 0) with
      | some (_, s) => s
      | none => s

/-- Is a block being fetched? -/
def fetching (s : State) (n b : Nat) : Bool := (outMsgs s).any (fun p => p.2.fetch == some (n, b))

/-! A confirmed mismatch. -/

/-- Confirmed mismatches of one block or frame: the third in 24 h makes its rows suspect (R370). -/
def State.noteMismatch (s : State) (key bytes : Nat) : State :=
  let day := 86400000000000
  let l := s.fw.mismatchLog.filter (fun x => decide (s.time.mono ≤ x.2 + day)) ++ [(key, s.time.mono)]
  let s : State := { s with fw := { s.fw with mismatchLog := l } }
  if (l.filter (·.1 == key)).length < 3 then s
  else ({ s with fw := { s.fw with suspects := if s.fw.suspects.contains (key, bytes) then s.fw.suspects else s.fw.suspects ++ [(key, bytes)] } } : State).raise
    { code := 0x100C }

/-- A truncated run under way, if there is one. -/
def truncRun (j : Job) : Option Nat := (j.runs.find? (·.trunc.isSome)).map (·.no)

/-- Region mismatch (R378): fault 0x1003 at the lead partition, the job stops, a truncated run ends (R97); then a refetch, or FAIL. -/
def State.regionMismatch (s : State) (lead n b : Nat) : State :=
  let e := ratEnt s n
  let a := blockAddr e b
  let s := s.noteMismatch (a - bankBase) 0x100000
  let w : FltAt := { d := digestTag lead, id := 0xFFFFFFFF#32, part := lead, inst := 0, core := 0, engine := 0, opcode := 0, cursor := 0 }
  let s := match truncRun (jobD s lead) with | some no => s.endTrunc lead no | none => s
  let s := s.fault w { code := 0x1003, addr := a, pc := (a - bankBase) / 2 ^ 30, resumable := false }
  let s := s.modJob lead (fun j => { j with stopped := true })
  let s := (partsOf s lead).foldl (fun s p => if suspending s p then s else s.setPState p pPaused) s
  if (classRec s n).cls == 2 then s.fetchBlock n b
  else match (part s lead).faults.find? (fun f => f.d == digestTag lead && f.addr == a) with
    | some f => s.digestResolve lead lead f false
    | none => s

/-- A chunk is lost: DROPPED in the live table, its frame freed, recorded in the snapshots of steps in flight that name it. -/
def State.loseChunk (s : State) (lead n k : Nat) : State :=
  let s := (s.dropChunk lead n k).getD s
  let slots := (((jobD s lead).runs.filter (fun r => r.trunc.isNone)).map StepRun.slots).flatten.filter (·.req == n)
  slots.foldl (fun s x =>
    let a := rootAddr (jobD s lead) x.snap
    if k < rootN (rootAt s a) then (s.recordDrop a k).2 else s) s

/-- Chunk mismatch (R379). -/
def State.chunkMismatch (s : State) (lead n k : Nat) : State :=
  let j := jobD s lead
  let e := ent s j n
  match entryAt s (entRoot e) k with
  | none => s
  | some b => ((s.noteMismatch (j.cfg.frame b.pc b.frame - bankBase) j.cfg.fsize).loseChunk lead n k).raise { code := 0x100A, part := some lead, detail := [n, k] }

/-- Does a chunk's stored form disagree with its record (R150)? -/
def chunkBad (s : State) (j : Job) (b : BEnt) : Bool :=
  let x := if b.half == 2 then 1 else 0
  let n := j.cfg.kvHeads * j.cfg.pairBytes b.half
  (List.range j.cfg.layers).any (fun l =>
    sha3 (getBs s.mem.dram (j.cfg.chunkBase b.pc b.frame b.half - bankBase + l * n) n) != peek s (j.cfg.digest j.parts b.pc b.frame x + 32 * l) 32)

def blockBad (s : State) (n b : Nat) : Bool :=
  let e := ratEnt s n
  sha3 (blockBytes s e b) != peek s ((classRec s n).digtab + 32 * b) 32

/-- A job in debug hold: no step is in flight (R95). -/
def inHold (j : Job) : Bool := j.debugHold && j.runs.all (·.trunc.isSome)

/-- A confirmed mismatch of a suspended job is applied at resume (R380); a chunk's in debug hold, where nothing is dropped, at the release (R98). -/
def State.mismatch (s : State) (lead : Nat) (region : Bool) (a b : Nat) : State :=
  if (jobD s lead).saved.isSome || (!region && inHold (jobD s lead)) then
    s.modJob lead (fun j => { j with lateDigest := j.lateDigest ++ [(region, a, b)] })
  else if region then s.regionMismatch lead a b
  else s.chunkMismatch lead a b

/-- Mismatches found while the job was suspended, that still stand (R380). -/
def State.applyLate (s : State) (lead : Nat) : State :=
  let l := (jobD s lead).lateDigest
  l.foldl (fun s (region, a, b) => s.mismatch lead region a b) (s.modJob lead (fun j => { j with lateDigest := [] }))

/-- A block has come from its source (R378): written, hashed again; what waited for it is resolved. Or (not `ok`) it cannot be had. -/
def State.fetchDone (s : State) (n b : Nat) (ok : Bool := true) : State :=
  let e := ratEnt s n
  match ownerLead s e with
  | none => s
  | some lead =>
    let a := blockAddr e b
    let ent := (classRec s n).digtab + 32 * b
    let s := if ok && s.fw.sealedR.contains n && peek s ent 32 == zeros 32 then s.fwPoke ent (sha3 (blockBytes s e b)) else s
    let s := if e.window == 1 && s.fw.sealedR.contains n then
        match (part s lead).faults.find? (fun f => f.d == digestTag lead && f.addr == a) with
        | some f => s.digestResolve lead lead f (ok && !blockBad s n b)
        | none => s
      else s
    -- uncorrectable words read by descriptors in the block (Table 15.3)
    (partsOf s lead).foldl (fun s p =>
      match (part s p).faults.find? (fun f => f.code == 0x1002 && decide (a ≤ f.addr) && decide (f.addr < a + 0x100000)) with
      | some f => s.resolve p f (if ok then 1 else 2)
      | none => s) s

/-- Blocks that waited for a queue pair to a source: asked for now that it is ready, or given up. -/
def State.wantedGo (s : State) (lead sysidx : Nat) (ok : Bool) : State :=
  let mine (x : Nat × Nat) : Bool := (classRec s x.1).sysidx == sysidx && (ownerLead s (ratEnt s x.1)).getD 16 == lead
  let l := s.net.wanted.filter mine
  let s : State := { s with net := { s.net with wanted := s.net.wanted.filter (fun x => !mine x) } }
  l.foldl (fun s x => if ok then s.fetchBlock x.1 x.2 else s.fetchDone x.1 x.2 false) s

/-! DIGEST_SCRUB. -/

/-- A digest engine has hashed block `b` of RAT entry `a`, or chunk `b` of request `a % 65536` of the job led by `a / 65536`. With `second`, a first
hash that the object itself does not explain disagreed and the second agreed: it is only counted. -/
def scrub (s : State) (region : Bool) (a b : Nat) (second : Bool) : State :=
  let count (s : State) : State := if second then { s with fw := { s.fw with digestRetries := s.fw.digestRetries + 1 } } else s
  if s.fw.digestRate == 0 then s
  else if region then
    let e := ratEnt s a
    match ownerLead s e with
    | none => s
    | some lead =>
      if !s.fw.sealedR.contains a || regionBlocks e ≤ b || fetching s a b then s
      else if blockBad s a b then s.mismatch lead true a b
      else count s
  else
    let lead := a / 65536
    let n := a % 65536
    match job? s lead with
    | none => s
    | some j =>
      let e := ent s j n
      match entryAt s (entRoot e) b with
      | none => s
      | some x =>
        let f := j.cfg.frame x.pc x.frame - bankBase
        let dig := (ratAll s).any (fun r => r.window == 1 && r.dig && bitN r.pcsel (x.pc % 16) && decide (r.base ≤ f % 2 ^ 30) && decide (f % 2 ^ 30 < r.base + r.size))
        if !(entActive e || entState e == 5) || x.st != 1 || !dig || entLen e / 64 ≤ b then s
        else if chunkBad s j x then s.mismatch lead false n b
        else count s

end Sys2Proof.Machine
end

