-- ==== Sys2Proof/Machine/Pairs.lean ====
section
/-! DEFINITION. Pairs of jobs (R382 to R390): setting up, HELLO, the messages of the Decant stream as the partner applies them, heartbeats and
takeover. -/

namespace Sys2Proof.Machine

def State.modPair (s : State) (lead : Nat) (f : Pair → Pair) : State := s.modJob lead (fun j => { j with pair := f j.pair })

/-! The pair record (Table 15.6). -/

def pairPeer (j : Job) : Nat := pairRec j 0x08 4
def pairRx (j : Job) : Nat := pairRec j 0x10 8
/-- The receive area but for its last page, which holds the credit words of adopted rings (R389). -/
def pairRxSize (j : Job) : Nat := pairRec j 0x18 4 - 4096
def pairMapAt (j : Job) (req : Nat) : Nat := pairRec j 0x38 8 + 4 * req

/-! Setting up (R382, R383). -/

def qpLive (s : State) (q : Nat) : Bool := (qpOf s q).st == .init || (qpOf s q).st == .rtr || (qpOf s q).st == .rts
def qpReady (s : State) (q : Nat) : Bool := (qpOf s q).st == .rts

/-- Ports for the two queue pairs: on different network dies when two dies have a port up. -/
def pairPorts (s : State) : List Nat :=
  let p := connPort s
  [p, ((List.range 16).find? (fun k => portIsUp s k && k / 4 != p / 4)).getD p]

/-- Connect what the pair lacks of its two DECANT queue pairs. -/
def State.pairConnect (s : State) (lead : Nat) : State :=
  let s := s.modPair lead (fun p => { p with qps := p.qps.filter (qpLive s) })
  let used := (jobD s lead).pair.qps.map (fun q => (qpOf s q).port)
  let todo := ((pairPorts s).filter (fun k => !used.contains k) ++ pairPorts s).take (2 - used.length)
  todo.foldl (fun s k =>
    let j := jobD s lead
    match s.connect lead 3 (pairPeer j) k (serviceId (pairRec j 0x0C 1) 3) with
    | some (q, s) => s.modPair lead (fun p => { p with qps := p.qps ++ [q] })
    | none => s) s

/-- HELLO's geometry, in the layout of Table 11.1 from offset 0x054 to 0x0DF. -/
def helloBody (g : JobCfg) : List Byte := (g.raw.drop 0x54).take 11 ++ zeros 0x61 ++ (g.raw.drop 0xC0).take 32

/-- Send HELLO once: message 0 of the pair. -/
def State.sendHello (s : State) (lead : Nat) : State :=
  let j := jobD s lead
  if j.pair.seqOut != 0 then s else s.decant lead 6 0 0 0 0 (helloBody j.cfg) j.lastEnd none

/-- A new connection of the pair begins: message numbers start again (Table 15.8). -/
def State.pairFresh (s : State) (lead : Nat) : State :=
  (s.modPair lead (fun p => { p with active := 0, seqOut := 0, seqIn := 0, unacked := [], synced := false, peerSynced := false, inbox := [] })).setPair lead .connecting

/-- A DECANT queue pair to the partner has become ready. -/
def State.pairUp (s : State) (lead q : Nat) : State :=
  match job? s lead with
  | none => s
  | some j =>
    if !j.pair.qps.contains q || j.pair.qps.length < 2 || !j.pair.qps.all (qpReady s) then s
    else match j.pair.st with
      | .connecting => s.sendHello lead
      | .broken => (s.pairFresh lead).sendHello lead
      | _ => s

/-- A DECANT queue pair set up by the partner joins the pair. -/
def State.pairAttach (s : State) (lead q sysidx : Nat) : State :=
  let j := jobD s lead
  let live := j.pair.qps.filter (qpLive s)
  if j.pair.st == .unpaired || pairPeer j != sysidx || 2 ≤ live.length then s
  else s.modPair lead (fun p => { p with qps := live ++ [q], active := 0 })

/-- Both sides' SYNC complete: ours is acknowledged, and the partner goes on to other messages. -/
def State.pairCheck (s : State) (lead : Nat) : State :=
  let j := jobD s lead
  if j.pair.st == .syncing && j.pair.synced && j.pair.peerSynced && !j.pair.unacked.any (fun m => byteAt m.bytes 4 == 4) then s.setPair lead .paired else s

/-! Shadows (R386). -/

def shadowOf (j : Job) (req : Nat) : Option Nat := (j.pair.map.find? (·.1 == req)).map Prod.snd

/-- A shadow ends: its resources go back under R161. -/
def State.endShadow (s : State) (lead n : Nat) : State :=
  ((s.freeSeq lead n).entF lead n 2 2 0 4).modPair lead (fun p => { p with map := p.map.filter (·.2 != n), shadow := p.shadow.filter (·.1 != n) })

/-- A sequence that cannot be shadowed is counted. -/
def State.noShadow (s : State) (lead : Nat) : State := s.modPair lead (fun p => { p with unshadowed := p.unshadowed + 1 })

/-- What was held for the partner's request gives way: a shadow ends, and a sequence adopted from the partner ends with no record (R390). -/
def State.dropShadow (s : State) (lead req : Nat) : State :=
  match shadowOf (jobD s lead) req with
  | none => s
  | some n =>
    let e := ent s (jobD s lead) n
    if entState e == 5 then s.endShadow lead n
    else
      let s := if entActive e then s.endCore lead n 3 else s
      s.modPair lead (fun p => { p with map := p.map.filter (·.1 != req) })

/-- ADMIT (Table 15.9). -/
def State.shadowAdmit (s : State) (lead req : Nat) (w : List Word) : State :=
  let s := s.dropShadow lead req
  let j := jobD s lead
  match freeReq s j, admitItems j 0 with
  | some n, some (r, d, _) =>
    let s := s.modJob lead (fun j => ((j.take (.request n)).take (.root r)).take (.tlpage d))
    let s := (s.poke (rootAddr j r) (zeros 1024)).pokeWords (rootAddr j r) [BitVec.ofNat 32 n]
    let s := s.poke (tlAddr j d) (zeros 16384)
    let w2 := 5 + wfld (wAt w 2) 2 0 * 16 + b2n (wbit (wAt w 2) 8) * 256 + b2n (wbit (wAt w 2) 9) * 512
    let e : List Word := [wAt w 4, wAt w 5, BitVec.ofNat 32 w2, BitVec.ofNat 32 (wfld (wAt w 3) 7 0), 0#32, wAt w 6, wAt w 7, 0#32, 0#32, 0#32,
      lo32 (rootAddr j r), hi32 (rootAddr j r), lo32 (tlAddr j d), hi32 (tlAddr j d), 0xFFFFFFFF#32, BitVec.ofNat 32 (u64At w 13 % max (npc j) 1),
      wAt w 13, wAt w 14, wAt w 10, wAt w 11, wAt w 12] ++ List.replicate 11 0#32
    let s := (s.pokeWords (reqAddr j n) e).pokeWords (pairMapAt j req) [BitVec.ofNat 32 n]
    s.modPair lead (fun p => { p with map := p.map ++ [(req, n)], shadow := p.shadow ++ [(n, 1, u64At w 8)] })
  | _, _ => s.noShadow lead

/-- TOKENS: appended to the shadow's log; a committed token also moves LEN on. Without a page of the pool, the shadow is given up. -/
def State.shadowTokens (s : State) (lead n pos : Nat) (ts : List Word) : State :=
  let e := ent s (jobD s lead) n
  let dir := entTlog e
  let top := pos + ts.length
  let need := ((List.range (ceilDiv top 4096)).filter (fun i => decide (pos / 4096 ≤ i))).filter (fun i => (tlPage s dir i).isNone)
  let grown := need.foldl (fun (a : Option State) i => a.bind (fun s =>
    let j := jobD s lead
    (lowest j j.cfg.nTlPage .tlpage).map (fun q => (s.modJob lead (·.take (.tlpage q))).addTlPage lead dir i q))) (some s)
  match grown with
  | none => (s.endShadow lead n).noShadow lead
  | some s =>
    let s := (s.putTokens dir pos ts).entW lead n 9 (BitVec.ofNat 32 top)
    let s := s.entW lead n 7 (BitVec.ofNat 32 (top - entNprompt e))
    if entNprompt e ≤ pos && !ts.isEmpty then s.setLen lead n (top - 1) else s

/-- STATE: what the entry will take when it is adopted; CANCEL, RCOUNT and LEN. -/
def State.shadowState (s : State) (lead n : Nat) (w : List Word) : State :=
  let s := (s.entF lead n 2 10 10 (b2n (wbit (wAt w 2) 10))).entF lead n 2 27 24 (wfld (wAt w 2) 27 24)
  (s.setLen lead n (nAt w 3)).modPair lead (fun p => { p with shadow := p.shadow.map (fun x => if x.1 == n then (n, wfld (wAt w 2) 2 0, x.2.2) else x) })

/-- One record of a DELTA or SYNC. A record for a sequence that is not shadowed changes nothing. -/
def State.applyRec (s : State) (lead : Nat) (w : List Word) : State :=
  let req := wfld (wAt w 1) 15 0
  match wfld (wAt w 0) 7 0 with
  | 1 => s.shadowAdmit lead req w
  | 5 => s.modPair lead (fun p => { p with rings := p.rings.filter (·.1 != nAt w 2) ++ [(nAt w 2, nAt w 3, (w.drop 4).take 12)] })
  | k =>
    match shadowOf (jobD s lead) req with
    | none => s
    | some n =>
      if entState (ent s (jobD s lead) n) != 5 then s
      else match k with
        | 2 => s.shadowTokens lead n (nAt w 2) ((w.drop 4).take (nAt w 3))
        | 3 => s.shadowState lead n w
        | 4 => s.endShadow lead n
        | _ => s

/-- Records in turn: each says its length in units of 16 B. -/
def deltaRecs : Nat → List Byte → List (List Word)
  | 0, _ => []
  | n + 1, bs =>
    let u := leAt bs 0 4 / 256
    if u == 0 || bs.length < 16 * u then [] else bytesWords (4 * u) (bs.take (16 * u)) :: deltaRecs n (bs.drop (16 * u))

/-- The raw image of a compressed chunk (R196 to R202), none when it is malformed. -/
def decantRaw (tabBs : List Byte) (r : Nat) (bs : List Byte) : Option (List Byte) :=
  let nb := codecNB r
  let tab := codeTab tabBs (leAt bs 0x14 4 % 2)
  if leAt bs 0 4 != 0x4B574358 || leAt bs 4 6 != r || leAt bs 12 4 != nb then none
  else
    let blocks := (List.range nb).map (fun b =>
      let idx := (bs.drop (64 + 8 * b)).take 8
      decBlock tab r nb b idx (fun len => (bs.drop (codecDstart nb + 64 * leAt idx 0 4)).take len))
    if blocks.all Prod.snd then some (blocks.map Prod.fst).flatten else none

/-- Set the entry of a shadow chunk; what it held before goes back. -/
def State.shadowEntry (s : State) (lead n k : Nat) (ws : List Word) : Option State :=
  let j := jobD s lead
  let old := entryAt s (entRoot (ent s j n)) k
  (s.editPool lead (entRoot (ent s j n)) k ws 0).map (fun s => match old with
    | some b => if b.st == 1 then s.modJob lead (fun j => j.free (resOf b)) else s
    | none => s)

/-- CHUNK: into a frame of the shadow's homes, hashed against the carried record; without a frame or with a wrong hash it is DROPPED. -/
def State.shadowChunk (s : State) (lead : Nat) (w : List Word) (bs : List Byte) : State :=
  let j := jobD s lead
  match shadowOf j (wfld (wAt w 8) 15 0) with
  | none => s
  | some n =>
    let e := ent s j n
    let k := nAt w 9
    let fmt := wfld (wAt w 10) 7 0
    if entState e != 5 || 16384 ≤ k then s
    else
      let dig := (bs.drop 64).take (32 * j.cfg.layers)
      let pay := (bs.drop (64 + 32 * j.cfg.layers)).take (nAt w 11)
      let img := if wbit (wAt w 10) 8 then (if pay.length == chunkBytes j then some pay else none)
                 else decantRaw (peek s (pairRec j 0x30 8) 256) (chunkBytes j) pay
      let lost (s : State) : State := (s.shadowEntry lead n k [0#32, 2#32, 0#32, 0#32]).getD s
      match img, pickFrame s j (nAt e 15) k with
      | some raw, some (pc, f) =>
        let s := (s.poke (j.cfg.frame pc f) raw).poke (j.cfg.digest j.parts pc f 0) dig
        let per := j.cfg.kvHeads * j.cfg.pair
        let good := (List.range j.cfg.layers).all (fun l => sha3 ((raw.drop (l * per)).take per) == (dig.drop (32 * l)).take 32)
        if !good then lost s
        else
          let s := s.modJob lead (·.take (.frame pc f))
          match s.shadowEntry lead n k (sealedWords fmt pc f j.epoch) with
          | some s => s.modJob lead (fun j => { j with gens := modT j.gens (pc * 2 ^ 20 + f * 4) 0 (· + 1) })
          | none => s.modJob lead (·.untake (.frame pc f))
      | _, _ => lost s

/-! Takeover (R389). -/

/-- A free response-ring entry takes a shadowed ring of TYPE 1; a RESPONSE queue pair is opened to the frontend, with the address of the credit word in
its private data. None: the ring is unreachable. -/
def State.installRing (s : State) (lead last : Nat) (w : List Word) : Option (Nat × State) :=
  let j := jobD s lead
  if ringType w != 1 then none
  else match (List.range 256).find? (fun k => ringType (ringEnt s j k) == 0), freeQp s with
    | some k, some q =>
      let credit := pairRx j + pairRxSize j + 8 * k
      let addr : BitVec 128 := BitVec.ofNat 128 (nAt w 8 + nAt w 9 * 2 ^ 32 + nAt w 10 * 2 ^ 64 + nAt w 11 * 2 ^ 96)
      let s := s.poke credit (natBytes 8 last)
      let s := s.request q lead 2 0xFFFFFFFF (connPort s) addr (pairRec j 0x40 8) (padTo 92 (natBytes 8 credit))
      let e := [wset (wAt w 0) 29 16 q, wAt w 1, wAt w 2, wAt w 3, wAt w 4, lo32 credit, hi32 credit, 0#32]
      let s := s.setRing lead k e
      some (k, s.modJob lead (fun j => { j with ringP := putT j.ringP k last, ringC := putT j.ringC k last }))
    | _, _ => none

/-- One shadow becomes a sequence; `ring` is its local ring, none when it cannot be reached. -/
def State.adoptOne (s : State) (lead n st pack : Nat) (ring : Option Nat) : State :=
  let j := jobD s lead
  let e := ent s j n
  let again := entLen e % 64 != 0 || !(droppedOf s e).isEmpty
  let s := s.entF lead n 2 2 0 (if again then 3 else st)
  let s := if entLen e % 64 != 0 then s.entF lead n 2 12 12 1 else s
  let s := (s.entW lead n 16 (lo32 j.admits)).entW lead n 17 (hi32 j.admits)
  let s := s.modJob lead (fun j => { j with admits := j.admits + 1 })
  match ring with
  | none => (s.endCore lead n 3).bump .dbg lead 0x14C
  | some k =>
    let s := s.entF lead n 3 7 0 k
    match if pack == 0 then some 0 else livePack s (jobD s lead) pack with
    | none => s.endSeq lead n 6 5
    | some ad =>
      let s := s.entF lead n 3 31 16 ad
      let s := if ad == 0 then s else (s.entW lead n 4 (BitVec.ofNat 32 (adapGen (adap s (jobD s lead) ad)))).adapRefs lead ad (· + 1)
      if wbit (wAt e 2) 10 then s.endSeq lead n 3 else s

/-- Install the rings that shadows name; answers the partner's ring and the local one. -/
def State.installRings (s : State) (lead : Nat) (ns : List Nat) : List (Nat × Option Nat) × State :=
  let ks := (ns.map (fun n => entRing (ent s (jobD s lead) n))).dedup
  ks.foldl (fun (a : List (Nat × Option Nat) × State) k =>
    match (jobD a.2 lead).pair.rings.find? (·.1 == k) with
    | some (_, last, w) => match a.2.installRing lead last w with
      | some (q, s) => (a.1 ++ [(k, some q)], s)
      | none => (a.1 ++ [(k, none)], a.2.baristaEv lead 0x3302)
    | none => (a.1 ++ [(k, none)], a.2.baristaEv lead 0x3302)) ([], s)

/-- The partner is lost: its sequences are adopted. -/
def State.partnerGone (s : State) (lead : Nat) : State :=
  let s := s.raise { code := 0x4020, part := some lead }
  let s := s.releaseConfirm lead
  let s := s.modPair lead (fun p => { p with unacked := [] })
  let s := s.setPair lead .broken
  let s := s.modJob lead (fun j => { j with delta := [] })
  let ns := byAdmit s (jobD s lead) ((jobD s lead).pair.shadow.map (fun x => x.1))
  let (rings, s) := s.installRings lead ns
  let sh := (jobD s lead).pair.shadow
  let s := ns.foldl (fun s n =>
    let (_, st, pack) := (sh.find? (·.1 == n)).getD (n, 1, 0)
    s.adoptOne lead n st pack ((rings.find? (·.1 == entRing (ent s (jobD s lead) n))).bind Prod.snd)) s
  let s := s.modPair lead (fun p => { p with shadow := [], rings := [], taken := true })
  s.raise { code := 0x4021, part := some lead }

/-! Received messages. -/

/-- The pair ends because the partner left: shadows freed, nothing is answered. -/
def State.pairLeft (s : State) (lead : Nat) : State :=
  let s := ((jobD s lead).pair.shadow.map (fun x => x.1)).foldl (fun s n => s.endShadow lead n) s
  let s := (s.releaseConfirm lead).setPair lead .unpaired
  s.modJob lead (fun j => { j with delta := [], pair := { j.pair with unacked := [], rings := [], map := [], shadow := [], synced := false, peerSynced := false } })

/-- DEPART by its reason (Table 15.7). -/
def State.departed (s : State) (lead reason : Nat) : State :=
  let st := (jobD s lead).pair.st
  let up := st == .syncing || st == .paired
  if up && (reason == 1 || reason == 2) then s.pairLeft lead
  else if up && (reason == 3 || reason == 4) then s.partnerGone lead
  else if st == .connecting && reason == 5 then s.pairLeft lead
  else s

/-- HELLO: a matching geometry and MODEL begin the SYNC; otherwise the pair is refused. -/
def State.hello (s : State) (lead : Nat) (bs : List Byte) : State :=
  let j := jobD s lead
  let mine := helloBody j.cfg
  let body := bs.drop 64
  let same := body.take 11 == mine.take 11 && (body.drop 0x6C).take 32 == mine.drop 0x6C &&
    j.pair.qps.all (fun q => (qpOf s q).model == (jobModel s lead).toNat)
  if j.pair.st != .connecting then s
  else if !same then s.unpairJob lead 5
  else
    let s := (s.sendHello lead).setPair lead .syncing
    (s.modPair lead (fun p => { p with lastHeard := s.time.mono, taken := false })).sendSync lead

/-- Apply one message, in SEQNO order; numbers already applied are discarded. HEARTBEAT has no place in the order. -/
def State.decApply (s : State) (lead : Nat) (bs : List Byte) : State :=
  let w := bytesWords 16 bs
  let type := wfld (wAt w 1) 7 0
  let seq := nAt w 3
  let j := jobD s lead
  let live := j.pair.st == .syncing || j.pair.st == .paired
  let note (s : State) : State := if j.pair.st == .syncing then (s.modPair lead (fun p => { p with peerSynced := true })).pairCheck lead else s
  if type == 3 then note s
  else if seq < j.pair.seqIn then s
  else
    let s := s.modPair lead (fun p => { p with seqIn := seq + 1 })
    let s := s.trace { cls := 3, kind := 3, part := lead, data := [0, 0, bs.length, seq] }
    match type with
    | 1 => if live then note ((deltaRecs (nAt w 8) (bs.drop 64)).foldl (fun s r => s.applyRec lead r) s) else s
    | 2 => if live then s.shadowChunk lead w bs else s
    | 4 => if live then (deltaRecs (nAt w 8) (bs.drop 64)).foldl (fun s r => s.applyRec lead r) s else s
    | 5 => s.departed lead (nAt w 8)
    | 6 => s.hello lead bs
    | _ => s

/-- Type of a Decant message, none when its header is not one of Table 15.8. -/
def decType (bs : List Byte) : Option Nat :=
  if leAt bs 0 4 == 0x4B574443 && byteAt bs 5 == 1 && decide (64 ≤ bs.length) then some (byteAt bs 4) else none

/-- Room in the receive area for a message, counting those that wait: every message starts on a 4 KiB boundary. -/
def rxRoom (j : Job) (n : Nat) : Bool :=
  decide ((j.pair.inbox.map (fun b => roundUp b.length 4096)).foldl (· + ·) 0 + roundUp n 4096 ≤ pairRxSize j)

/-- A message of the stream arrives in the receive area and is applied; while the job is suspended, or in debug hold and allocates nothing, it
waits there (R98, R336). It wakes a sleeping job (Table 16.10). -/
def State.decArrive (s : State) (lead : Nat) (bs : List Byte) : State :=
  let j := jobD s lead
  let n := roundUp bs.length 4096
  let at_ := if pairRxSize j < j.pair.rxPos + n then 0 else j.pair.rxPos
  let s := (s.wakeJob lead).poke (pairRx j + at_) bs
  let s := s.modPair lead (fun p => { p with rxPos := at_ + n, lastHeard := s.time.mono })
  if decType bs == some 3 then s.decApply lead bs
  else if j.saved.isSome || inHold j then s.modPair lead (fun p => { p with inbox := p.inbox ++ [bs] })
  else s.decApply lead bs

/-- Messages that waited for the job to be resumed or released. -/
def State.applyInbox (s : State) (lead : Nat) : State :=
  (jobD s lead).pair.inbox.foldl (fun s bs => s.decApply lead bs) (s.modPair lead (fun p => { p with inbox := [] }))

/-! Heartbeats, loss, retries. -/

/-- A HEARTBEAT on both queue pairs; it takes no message number. -/
def heartbeatOut (s : State) (lead : Nat) : State :=
  let j := jobD s lead
  j.pair.qps.foldl (fun s q =>
    if !qpReady s q then s
    else
      let bs := wordsBytes (decHeader s lead 3 0 0 (b2n j.pair.taken) 0)
      s.issue q { psn := 0, last := 0, kind := 0, va := 0, rkey := 0, imm := none, len := bs.length, data := bs, d := none, ring := none, seqno := none }) s

def execHeartbeatSend (lead : Nat) (s : State) : Host.Outcome State Fault Refusal :=
  .next (match job? s lead with
    | none => s
    | some j => if pairLive j && !s.fatal then touchServ s (heartbeatOut s lead) else s)

/-- 3 ms without a message on either queue pair; a suspended job, or one in debug hold, is dealt with when it goes on (R98, R336). -/
def execPartnerLost (lead : Nat) (s : State) : Host.Outcome State Fault Refusal :=
  .next (match job? s lead with
    | none => s
    | some j => if pairLive j && !s.fatal && j.saved.isNone && !inHold j && decide (j.pair.lastHeard + 3000000 ≤ s.time.mono) then touchServ s (s.partnerGone lead) else s)

/-- A BROKEN pair, or one whose setup has not come about, tries again: a queue pair still waiting after PRT_CFG.HOLD µs starts afresh. -/
def pairTry (s : State) (lead : Nat) (j : Job) : State :=
  let stale (q : Nat) : Bool := decide ((qpOf s q).setup - 1 + holdNs s lead ≤ s.time.mono)
  let drop := j.pair.qps.filter (fun q => (j.pair.st == .broken || !qpReady s q) && stale q)
  let s := drop.foldl (fun s q => s.modQp q (fun _ => {})) s
  s.pairConnect lead

def execPairRetry (lead : Nat) (s : State) : Host.Outcome State Fault Refusal :=
  .next (match job? s lead with
    | none => s
    | some j => if (j.pair.st == .connecting || j.pair.st == .broken) && !s.fatal then touchServ s (pairTry s lead j) else s)

end Sys2Proof.Machine
end

