-- ==== Sys2Proof/Machine/Partitions.lean ====
section
/-! DEFINITION. Jobs as the registers of a partition command them (chapter 13): FORM (R324), DISSOLVE (R325), SUSPEND and RESUME (R335 to
R338), HOLD and RELEASE (R95), the request doorbell (R258), host flag changes (R308), PRT_RINGSET (R261) and the regulators (R329). -/

namespace Sys2Proof.Machine

/-- A class other than a VF, which may write fields whose description says PF (R339). -/
def notVf (c : RClass) : Bool := match c with | .vf _ => false | .bmcU => false | _ => true

/-- PRT_ARG of a partition in a class's copy. -/
def argOf (s : State) (c : RClass) (p : Nat) : Nat :=
  (rawW s ⟨.prt, p, 0x00C, copyOf c⟩).toNat + fld (rawW s ⟨.prt, p, 0x010, copyOf c⟩).toNat 15 0 * 2 ^ 32

def isLead (s : State) (p : Nat) : Bool := (part s p).lead == some p
/-- A partition of a job that is not its lead. -/
def isMember (s : State) (p : Nat) : Bool := match (part s p).lead with | some l => l != p | none => false

def setResult (s : State) (p r : Nat) : State := s.setRegF .prt p 0x008 11 8 r

/-- A write of PRT_JOBCTL with GO: the command is stored; by a VF, or while RESULT is 7 but for DISSOLVE, nothing happens. It wakes a sleeping job
(Table 16.10). -/
def jobctl (s : State) (c : RClass) (p cmd : Nat) (f : State → State) : State :=
  if !reaches s c p || !notVf c || (regF s .prt p 0x008 11 8 == 7 && cmd != 2) then s
  else touchServ s (f ((s.setRegF .prt p 0x008 2 0 cmd).wakeJob p))

/-! FORM (R324). -/

def cfgOf (a : Nat) (b : List Byte) : JobCfg :=
  { raw := b, addr := a, parts := leAt b 4 2, flags := leAt b 6 2, commitFlag := leAt b 8 2, ringLog := leAt b 10 1, tokBudget := leAt b 0xC 4,
    reqTab := leAt b 0x10 8, ring := leAt b 0x18 8, respTab := leAt b 0x20 8, btBuf := leAt b 0x28 8, inTok := leAt b 0x30 8, outTok := leAt b 0x38 8,
    cArea := leAt b 0x40 8, stepRing := leAt b 0x48 8, nStepRec := leAt b 0x50 4, maxLen := leAt b 0x54 4, layers := leAt b 0x58 2,
    kvHeads := leAt b 0x5A 1, oFmt := leAt b 0x5B 1, hDim := leAt b 0x5C 2, sFmt := leAt b 0x5E 1, demote := leAt b 0x5F 1, kvOff := leAt b 0x60 4,
    nFrame := leAt b 0x64 4, digestBase := leAt b 0x68 8, openPool := leAt b 0x70 8, nOpen := leAt b 0x78 4, nRoot := leAt b 0x7C 4,
    rootPool := leAt b 0x80 8, pagePool := leAt b 0x88 8, nPage := leAt b 0x90 4, nTlPage := leAt b 0x94 4, tlPool := leAt b 0x98 8,
    adapTab := leAt b 0xA0 8, packPool := leAt b 0xA8 8, nPack := leAt b 0xB0 4, pChunk := leAt b 0xB4 4, spread := leAt b 0xB8 4,
    lowWater := leAt b 0xBC 4, eos := ((List.range 8).map (fun i => BitVec.ofNat 32 (leAt b (0xC0 + 4 * i) 4))).filter (· != 0xFFFFFFFF#32),
    progs := (List.range 8).map (fun i => (BitVec.ofNat 32 (leAt b (0x100 + 16 * i) 4), leAt b (0x104 + 16 * i) 4, leAt b (0x108 + 16 * i) 4,
      leAt b (0x10C + 16 * i) 4)) }

def pow2In (x lo hi : Nat) : Bool := decide (lo ≤ x) && decide (x ≤ hi) && x == 2 ^ Nat.log2 x
def between (x lo hi : Nat) : Bool := decide (lo ≤ x) && decide (x ≤ hi)

/-- The areas of Table 11.1: address and size. -/
def areasOf (g : JobCfg) (npc : Nat) : List (Nat × Nat) :=
  [(g.reqTab, 65536 * 128), (g.ring, 4096 * 2 ^ g.ringLog), (g.respTab, 256 * 32), (g.btBuf, 0x200000), (g.inTok, 0x40000), (g.outTok, 0x10000),
   (g.cArea, 0x4000000), (g.stepRing, 64 * g.nStepRec), (g.digestBase, npc * g.nFrame * (1 + g.demote) * g.layers * 32), (g.openPool, g.nOpen * g.obuf),
   (g.rootPool, 1024 * g.nRoot), (g.pagePool, 4096 * g.nPage), (g.tlPool, 16384 * g.nTlPage), (g.adapTab, 65536 * 32),
   (g.packPool, g.nPack * roundUp (64 + 128 * g.layers) 64)]

def disjoint (xs : List (Nat × Nat)) : Bool :=
  xs.zipIdx.all (fun (x, i) => (xs.drop (i + 1)).all (fun y => x.2 == 0 || y.2 == 0 || decide (x.1 + x.2 ≤ y.1) || decide (y.1 + y.2 ≤ x.1)))

/-- The ranges of Table 11.1 and Table 07.1, the page reserve of R277, and R256's disjoint areas. -/
def cfgOk (b : List Byte) (g : JobCfg) (p : Nat) : Bool :=
  let ps := maskParts g.parts
  let npc := 80 * ps.length
  leAt b 0 4 == 0x4B574A43 && ps.head? == some p && fld g.flags 7 2 == 0 && fld g.flags 15 12 == 0 && byteAt b 0xB == 0 && leAt b 0xE0 32 == 0 &&
  leAt b 0x180 128 == 0 && between g.commitFlag 2048 4095 && between g.ringLog 4 16 && decide (g.tokBudget ≤ 65536) && pow2In g.nStepRec 16 65536 &&
  between g.maxLen 2 1048576 && between g.layers 1 256 && between g.kvHeads 1 255 && [64, 128, 192, 256].contains g.hDim && [1, 3, 4].contains g.oFmt &&
  [1, 3, 4].contains g.sFmt && decide (g.demote ≤ 1) && (g.demote == 0 || g.sFmt != 1) && (!bitN g.flags 1 || g.demote == 1) &&
  g.kvOff % 16384 == 0 && decide (g.kvOff < 2 ^ 30) && between g.nFrame 1 65536 && decide (g.kvOff + g.nFrame * g.fsize ≤ 2 ^ 30) && g.digestBase % 256 == 0 &&
  between g.nPack 1 65535 && g.pChunk % 64 == 0 && between g.pChunk 64 65536 && between g.spread 1 npc && decide (512 ≤ g.nPage) && disjoint (areasOf g npc)

/-- Frames lie wholly in Crema-class bank groups (R146). -/
def framesCrema (s : State) (g : JobCfg) : Bool :=
  (List.range 4).all (fun bg => decide (g.kvOff + g.nFrame * g.fsize ≤ bg * 2 ^ 28) || decide ((bg + 1) * 2 ^ 28 ≤ g.kvOff) || isCremaIdx s bg)

/-- A range of every pseudo-channel of the job lies in bank-local regions of the job (R216). -/
def framesOwned (s : State) (ps : List Nat) (lo hi : Nat) : Bool :=
  let es := (ratAll s).filter (fun e => e.window == 1 && ps.contains e.owner && (maskParts e.pcsel).all ps.contains)
  ps.all (fun p => (List.range 512).all (fun i =>
    let a := i * 0x200000
    decide (hi ≤ a) || decide (a + 0x200000 ≤ lo) || es.any (fun e => bitN e.pcsel p && decide (e.base ≤ a) && decide (a < e.base + e.size))))

/-- The partition-layout class (R407). -/
def layoutOk (s : State) (ps : List Nat) : Bool :=
  let g := 16 / 2 ^ (min s.fuse.layout 4)
  ps.all (fun p => p / g == ps.headD 0 / g)

/-- RESULT of a FORM, with the record when it is accepted (Table 13.4). -/
def formCheck (s : State) (a p : Nat) (b : List Byte) : Nat × JobCfg :=
  let g := cfgOf a b
  let ps := maskParts g.parts
  if !(leAt b 0 4 == 0x4B574A43 && ps.head? == some p) then (2, g)
  else if ps.any (fun q => pState s q != pFree) then (1, g)
  else if !cfgOk b g p || !framesCrema s g || !layoutOk s ps then (2, g)
  else if !(areasOf g (80 * ps.length)).all (fun x => x.2 == 0 || spreadIn s ps.contains x.1 x.2) ||
          !framesOwned s ps g.kvOff (g.kvOff + g.nFrame * g.fsize) then (3, g)
  else (0, g)

def State.formJob (s : State) (p : Nat) (g : JobCfg) : State :=
  let ps := maskParts g.parts
  let j : Job := { cfg := g, parts := ps, formedAt := s.time.now, idleSince := s.time.mono }
  let s := s.setJob p j
  let s := (s.poke g.reqTab (zeros (65536 * 128))).poke g.adapTab (zeros (65536 * 32))
  -- the runtime settings of R256, and the count of R78
  let s := ((s.setReg .prt p 0x050 g.tokBudget).setReg .prt p 0x054 g.pChunk).setReg .prt p 0x058 g.lowWater
  let s := (s.setReg .prt p 0x05C (fld g.flags 11 8 * 256 + fld g.flags 1 1 * 2)).setReg .prt p 0x118 0
  ps.foldl (fun s q =>
    let s := s.modPart q (fun x => { x with lead := some p, asleep := false, deep := false })
    (s.setRegF .prt q 0x000 20 16 (16 + p)).setPState q pIdle) s

/-- A FREE partition takes FORM; one that leads a job answers RESULT 1. -/
def execForm (cls : RClass) (p : Nat) (s : State) : Host.Outcome State Fault Refusal :=
  .next (jobctl s cls p 1 (fun s =>
    if pState s p != pFree then setResult s p 1
    else
      let a := argOf s cls p
      let s := s.seen a 512
      let x := formCheck s a p (peek s a 512)
      setResult (if x.1 == 0 then s.formJob p x.2 else s) p x.1))

/-! DISSOLVE (R325). -/

/-- The state of a job that is suspended, or on its way there, is discarded: no step runs any more. -/
def State.abandon (s : State) (lead : Nat) : State :=
  let j := jobD s lead
  let s := j.runs.foldl (fun s r => (s.letGo lead r.no).forgetMsgs (ofRun lead r.no)) s
  let s := j.parts.foldl (fun s p => s.clearFaults p 2 (fun _ => true)) s
  s.modJob lead (fun j => { j with saved := none, pendingRes := [], runs := [], formed := none })

def execDissolve (cls : RClass) (p : Nat) (s : State) : Host.Outcome State Fault Refusal :=
  .next (jobctl s cls p 2 (fun s =>
    if !isLead s p then setResult s p 4
    else if (jobD s p).dissolving then s
    else
      let s := setResult s p 7
      let s := if suspending s p then s.abandon p else s
      let s := (s.wakeJob p).withdrawFormed p
      (s.modJob p (fun j => { j with dissolving := true })).dissolveGo p))

/-! SUSPEND and RESUME (R335 to R338). -/

def saveBase (s : State) (p : Nat) : Nat := reg s .prt p 0x014 / 4096 * 4096 + regF s .prt p 0x018 15 0 * 2 ^ 32
def saveSize : Nat := 0x9400000

/-- Every member's save area is spread memory of the job's regions with read and write permission. -/
def saveOk (s : State) (j : Job) : Bool :=
  j.parts.all (fun p =>
    let a := saveBase s p
    decide (a + saveSize ≤ spreadTop s) && (List.range (saveSize / 4096)).all (fun i => ratJob s 0 j.parts (a + 4096 * i) && ratJob s 1 j.parts (a + 4096 * i)))

/-- The opaque header of a save area. -/
def saveHeader (k p : Nat) : List Byte := (List.range 0x100000).map (fun i => Config.freeByte k (2 ^ 44 + p * 2 ^ 24 + i))

def scrAt (s : State) (p c : Nat) : Nat := saveBase s p + 0x100000 + c * 0x500000
def cafAt (s : State) (p u : Nat) : Nat := saveBase s p + 0x7100000 + u * 0x70000

/-- Address in a save area of lane `k` of the accumulator stores, and of the accumulator files of a partition's units. -/
def accSave (s : State) (k : Nat) : Nat :=
  let core := k / 128 / 2048
  scrAt s (core / 16) (core % 16) + 0x400000 + (k / 128 % 2048) * 512 + k % 128 * 4
def cafSave (s : State) (k : Nat) : Nat :=
  let pc := k / 64 / 1536
  cafAt s (pc % 16) (pc / 16) + (k / 64 % 1536) * 256 + k % 64 * 4

def accOfJob (j : Job) (k : Nat) : Bool := j.parts.contains (k / 128 / 2048 / 16)
def cafOfJob (j : Job) (k : Nat) : Bool := j.parts.contains (k / 64 / 1536 % 16)

/-- Where the preload of each queued piece lies in the input buffer, and in the save area behind the accumulator file: in queue order, each at the
next multiple of 64 B (R242, Table 13.5). -/
def bufOffs (q : List Piece) : List Nat := (List.range q.length).map (fun i => ((q.take i).map (fun p => roundUp p.inbuf.length 64)).foldl (· + ·) 0)

def bufImage (q : List Piece) : List Byte := padTo 0x10000 ((q.map (fun p => padTo (roundUp p.inbuf.length 64) p.inbuf)).flatten.take 0x10000)

/-- The pieces with the preloads that the save area holds. -/
def bufBack (img : List Byte) (q : List Piece) : List Piece :=
  (q.zip (bufOffs q)).map (fun (p, o) => { p with inbuf := (img.drop o).take p.inbuf.length ++ p.inbuf.drop (0x10000 - o) })

/-- Save area of a pseudo-channel's unit for its input buffer. -/
def bufSave (s : State) (pc : Nat) : Nat := cafAt s (pc % 16) (pc / 16) + 0x60000

/-- Write one partition's areas (Table 13.5). -/
def State.saveParts (s : State) (j : Job) : State :=
  let s := j.parts.foldl (fun s p =>
    let s := s.poke (saveBase s p) (saveHeader s.free p)
    let s := (List.range 16).foldl (fun s c => (s.poke (scrAt s p c) (getScratch s p (c * 2 ^ 22) 0x400000)).poke (scrAt s p c + 0x400000) (zeros 0x100000)) s
    let s := s.poke (saveBase s p + 0x5100000) (getPbuf s p 0 0x2000000)
    (List.range 80).foldl (fun s u => s.poke (cafAt s p u) (zeros 0x60000 ++ bufImage (cunit s (u * 16 + p)).queue)) s) s
  let s := (s.mem.acc.filter (fun e => accOfJob j e.1)).foldl (fun s (k, c) => s.poke (accSave s k) (wordBytes c.val)) s
  (s.mem.caf.filter (fun e => cafOfJob j e.1)).foldl (fun s (k, c) => s.poke (cafSave s k) (wordBytes c.val)) s

def State.loadParts (s : State) (j : Job) (x : Saved) : State :=
  let s := j.parts.foldl (fun s p => s.seen (saveBase s p) saveSize) s
  let s := j.parts.foldl (fun s p =>
    let s := (List.range 16).foldl (fun s c => s.putScratch p (c * 2 ^ 22) (peek s (scrAt s p c) 0x400000)) s
    s.putPbuf p 0 (peek s (saveBase s p + 0x5100000) 0x2000000)) s
  let val (a : Nat) (c : AccCell) : AccCell := { c with val := BitVec.ofNat 32 (peekW s a) }
  { s with mem := { s.mem with acc := x.acc.foldl (fun t (k, c) => putT t k (val (accSave s k) c)) s.mem.acc,
                               caf := x.caf.foldl (fun t (k, c) => putT t k (val (cafSave s k) c)) s.mem.caf } }

/-- Elapsed clocks of the running waits of a job: step, descriptor, count (R337). -/
def waitsOf (s : State) (j : Job) : List (Nat × Nat × Nat) :=
  (j.runs.map (fun r => match progOf j r.prog with
    | none => []
    | some p => (r.runs.filter (fun (i, d) => d.stat == .running && descOp (p.descs.getD i []) == 0x21)).map (fun (i, d) =>
        (r.no, i, s.time.clk - d.startClk)))).flatten

/-- Waits that have found their flag end before the stop. -/
def State.satisfyAll (s : State) (lead : Nat) : State :=
  (waitsOf s (jobD s lead)).foldl (fun s (no, i, _) =>
    let j := jobD s lead
    match (runOf j no).bind (fun r => (progOf j r.prog).map (fun p => (r, p))) with
    | some (r, p) => satisfied s j r (cxOf s j r p lead i)
    | none => s) s

def jobUnits (j : Job) (s : State) : Tbl CUnit := s.units.filter (fun (pc, _) => j.parts.contains (pc % 16))
def jobCores (j : Job) (k : Nat) : Bool := j.parts.contains (k / 16)

/-- Steps 3 and 4 of R335, once every packet sent is acknowledged. -/
def State.suspendDone (s : State) (lead : Nat) : State :=
  let j := jobD s lead
  let s := s.flushWhere (fun e => e.parts.any j.parts.contains)
  let x : Saved := {
    vecs := s.vecs.filter (fun e => jobCores j e.1), atts := s.atts.filter (fun e => jobCores j e.1),
    pieces := (jobUnits j s).map (fun (k, u) => (k, u.queue)), waits := (jobUnits j s).map (fun (k, u) => (k, u.waiting)),
    elapsed := waitsOf s j, paused := j.parts.filter (fun p => !(part s p).faults.isEmpty || j.stopped), at_ := s.time.mono, draw := s.free,
    acc := s.mem.acc.filter (fun e => accOfJob j e.1), caf := s.mem.caf.filter (fun e => cafOfJob j e.1) }
  let s := s.saveParts j
  let s : State := { s with vecs := s.vecs.filter (fun e => !jobCores j e.1), atts := s.atts.filter (fun e => !jobCores j e.1),
                            units := s.units.map (fun (k, u) => (k, if j.parts.contains (k % 16) then { u with queue := [], waiting := [] } else u)) }
  let s := s.modJob lead (fun j => { j with saved := some x })
  let s := j.parts.foldl (fun s p =>
    let s := (s.modPart p (fun q => { q with asleep := true })).setPState p pSuspended
    s.trace { cls := 7, kind := 3, part := p, data := [pSuspended] }) s
  setResult s lead 0

/-- A suspension under way completes when nothing is awaited any more. -/
def State.suspendGo (s : State) (lead : Nat) : State :=
  if pState s lead == pSuspending && !jobAwaits s lead then s.suspendDone lead else s

/-- Packets have been acknowledged or given up: stops of steps that waited for them end (R334), and suspensions go on (R335). -/
def State.settleNet (s : State) : State :=
  s.jobs.foldl (fun s (lead, j) =>
    let s := (j.runs.filter (·.stopping.isSome)).foldl (fun s r => (s.stopDone lead r.no).dissolveGo lead) s
    s.suspendGo lead) s

def State.suspendBegin (s : State) (lead : Nat) : State :=
  let s := (s.wakeJob lead).withdrawFormed lead
  let s := s.satisfyAll lead
  let s := (partsOf s lead).foldl (fun s p =>
    let s := s.trace { cls := 7, kind := 0, part := p, data := [pState s p] }
    (s.setPState p pSuspending).trace { cls := 7, kind := 2, part := p, data := [pSuspending] }) s
  (setResult s lead 7).suspendGo lead

def execSuspend (cls : RClass) (p : Nat) (s : State) : Host.Outcome State Fault Refusal :=
  .next (jobctl s cls p 3 (fun s =>
    match job? s p with
    | none => setResult s p 5
    | some j =>
      if !(pState s p == pIdle || pState s p == pRunning || pState s p == pPaused) || j.dissolving || j.debugHold then setResult s p 5
      else if !saveOk s j then setResult s p 6
      else s.suspendBegin p))

/-- The opaque headers stand in the save areas as SUSPEND wrote them (R337). -/
def headersStand (s : State) (j : Job) (x : Saved) : Bool :=
  j.parts.all (fun q => peek s (saveBase s q) 0x100000 == saveHeader x.draw q)

/-- Messages of the pair that no queue pair carries are sent: those made while the job was suspended. -/
def State.resendDelta (s : State) (lead : Nat) : State :=
  let out := (outMsgs s).filterMap (fun p => if (qpOf s p.1).job == lead then p.2.seqno else none)
  ((jobD s lead).pair.unacked.filter (fun m => !out.contains m.seqno)).foldl (fun s m => s.decantOut lead m) s

/-- RESUME restores every area of Table 13.5; resolutions written meanwhile apply before any descriptor starts (R337, R338). -/
def State.resumeJob (s : State) (lead : Nat) (x : Saved) : State :=
  let j := jobD s lead
  let ns := s.time.mono - x.at_
  let s := j.parts.foldl (fun s p => s.setPState p pResuming) s
  let s := s.loadParts j x
  let s : State := { s with
    vecs := x.vecs.foldl (fun t (k, v) => putT t k v) s.vecs, atts := x.atts.foldl (fun t (k, v) => putT t k v) s.atts,
    units := x.waits.foldl (fun t (k, w) => modT t k {} (fun u => { u with waiting := w }))
      (x.pieces.foldl (fun t (k, q) => modT t k {} (fun u => { u with queue := bufBack (peek s (bufSave s k) 0x10000) q })) s.units) }
  let s := s.modJob lead (fun j => { j.settle s.time.clk with saved := none, pendingRes := [], late := [], lateQps := [] })
  let s := x.elapsed.foldl (fun s (no, i, n) => s.modD ⟨lead, no, i⟩ (fun d => { d with startClk := s.time.clk - n })) s
  let s := j.parts.foldl (fun s p =>
    let s := s.modPart p (fun q => { q with asleep := false, faults := q.faults.map (fun f => { f with since := f.since + ns }) })
    let s := s.addWide .prt p 0x110 ns
    let s := s.setPState p (if x.paused.contains p then pPaused else if j.runs.isEmpty then pIdle else pRunning)
    s.trace { cls := 7, kind := 1, part := p, data := [pState s p] }) s
  let s := j.pendingRes.foldl (fun s (p, f, a) =>
    match (part s p).faults.find? (fun g => g.words == f.words && g.d == f.d && g.inst == f.inst) with
    | some g => s.resolve p g a
    | none => s) s
  -- what could not be sent or dealt with meanwhile
  let s := j.lateQps.foldl (fun s q => s.qpDown lead q) s
  let s := j.late.foldl (fun s h => s.respond lead h.ring h.req h.words) s
  let s := s.resendDelta lead
  setResult ((s.applyLate lead).applyInbox lead) lead 0

def execJobResume (cls : RClass) (p : Nat) (s : State) : Host.Outcome State Fault Refusal :=
  .next (jobctl s cls p 4 (fun s =>
    match job? s p with
    | none => setResult s p 5
    | some j => match j.saved with
      | none => setResult s p 5
      | some x =>
        if !saveOk s j || !headersStand s j x then setResult s p 6
        else s.resumeJob p x))

/-! HOLD and RELEASE (R95). -/

/-- Debug hold begins when no step is in flight; until then RESULT is 7. A step formed and not launched is withdrawn. -/
def execHold (cls : RClass) (p : Nat) (s : State) : Host.Outcome State Fault Refusal :=
  .next (jobctl s cls p 5 (fun s =>
    match job? s p with
    | none => setResult s p 5
    | some j =>
      if !(pState s p == pIdle || pState s p == pRunning) || j.dissolving || j.debugHold then setResult s p 5
      else (((setResult s p 7).withdrawFormed p).modJob p (fun j => { j with debugHold := true })).idleIfDone p))

def execRelease (cls : RClass) (p : Nat) (s : State) : Host.Outcome State Fault Refusal :=
  .next (jobctl s cls p 6 (fun s =>
    match job? s p with
    | none => setResult s p 5
    | some j =>
      if pState s p != pDebug || !j.runs.isEmpty then setResult s p 5
      else
        let s := s.modJob p (fun j => { j with debugHold := false })
        let s := j.parts.foldl (fun s q => s.setPState q pIdle) s
        setResult ((s.applyLate p).applyInbox p) p 0))

/-! Doorbells and host flag changes. -/

/-- A command of the lead partition's registers. -/
def leadCmd (s : State) (c : RClass) (p : Nat) (f : State → Job → State) : State :=
  if !reaches s c p || !isLead s p then s
  else match job? s p with
    | some j => touchServ s (f s j)
    | none => s

/-- A spread range readable by the job. -/
def jobReads (s : State) (j : Job) (a n : Nat) : Bool :=
  decide (a + n ≤ spreadTop s) && (segRuns a n).all (fun r => ratJob s 0 j.parts r.1)

/-- The PCIe function of a class: 0 the PF, p + 1 a VF. -/
def fnOf : RClass → Option Nat
  | .pf => some 0
  | .vf p => some (p + 1)
  | _ => none

/-- Earlier writes of the PCIe function to a BAR2 window are performed everywhere (R306). -/
def State.fnFlush (s : State) (c : RClass) : State :=
  match fnOf c with
  | some f => s.flushWhere (·.fns.contains f)
  | none => s

/-- A job-flag or doorbell register of the lead partition: the function's earlier writes come first (R306), and the job may wake (R30, Table 16.10). -/
def bellCmd (s : State) (c : RClass) (p : Nat) (wakes : Bool) (f : State → Job → State) : State :=
  leadCmd s c p (fun s j => f (if wakes then (s.fnFlush c).wakeJob p else s.fnFlush c) j)

/-- PRT_REQDB: the record enters the request ring; a full ring sets REQREF (R258). The uncore reads the record (R220). -/
def execPrtReqdb (cls : RClass) (p : Nat) (s : State) : Host.Outcome State Fault Refusal :=
  .next (bellCmd s cls p true (fun s j =>
    let a := argOf s cls p
    if !jobReads s j a 4096 then s
    else if ringFull j then ((s.markRC .prt p 0x028 1).msiPart p 4).hostViol 8
    else (s.seen a 4096).ringPut p (peek s a 4096)))

/-- PRT_FLAGSET: a job flag is set or cleared by the host, 8 clocks on; other flags are dropped (R308). -/
def hostFlag (s : State) (c : RClass) (p f : Nat) (set : Bool) : State :=
  bellCmd s c p set (fun s _ => if 2048 ≤ f && f ≤ 4095 then s.flagChange p f set none else s)

def execPrtFlagsetSet (cls : RClass) (p flag : Nat) (s : State) : Host.Outcome State Fault Refusal := .next (hostFlag s cls p flag true)
def execPrtFlagsetClear (cls : RClass) (p flag : Nat) (s : State) : Host.Outcome State Fault Refusal := .next (hostFlag s cls p flag false)

/-- PRT_RINGSET: the 32-byte entry at ARG becomes ring entry RING, or REFUSED is set (R261). -/
def execPrtRingset (cls : RClass) (p ring : Nat) (s : State) : Host.Outcome State Fault Refusal :=
  .next (leadCmd s cls p (fun s j =>
    let k := ring % 256
    let s := s.setRegF .prt p 0x064 7 0 k
    let a := argOf s cls p
    let e := peekWords s a 8
    let s := if jobReads s j a 32 then s.seen a 32 else s
    if !jobReads s j a 32 || !ringEntryOk e || ringBusy s j k then s.markRC .prt p 0x064 8 else s.setRing p k e))

/-! Regulators (R329). -/

def refillOne (s : State) (p r : Nat) : State :=
  let rate := regF s .prt p (0x080 + 8 * r) 19 0
  if rate == 0 then s
  else
    let burst := max (regF s .prt p (0x084 + 8 * r) 23 0) rate
    s.modPart p (fun q => { q with buckets := q.buckets.set r (min (q.buckets.getD r 0 + rate) burst) })

/-- Every 256 uncore clocks each bucket gains RATE units, capped at BURST. -/
def execRegulatorRefill (s : State) : Host.Outcome State Fault Refusal :=
  .next { s with parts := ((List.range 16).foldl (fun s p => (List.range 3).foldl (fun s r => refillOne s p r) s) s).parts }

end Sys2Proof.Machine
end

