-- ==== Sys2Proof/Machine/Image.lean ====
section
/-! DEFINITION. Program images as the loader sees them: parsing (Tables 03.1, 03.2), the opcode table (Table 03.7) and the slots a descriptor
uses, tensors at their declared maximum (R85), memory ranges against the RAT, and the graphs H and G (R87, R90). -/

namespace Sys2Proof.Machine

/-! Memory ranges of a job. -/

/-- Is every byte of a range mapped and inside regions of the job that carry a permission (0 RD, 1 WR, 6 CRM)? Regions and bank-group
quarters start and end at multiples of 2 MiB, so one address of each 2 MiB tells (R214, R216). -/
def rangeOk (s : State) (perm : Nat) (parts : List Nat) (a n : Nat) : Bool :=
  (List.range (n / 0x200000 + 2)).all (fun i =>
    let x := if i == 0 then a else (a / 0x200000 + i) * 0x200000
    decide (a + n ≤ x) || (ratOk s perm parts.contains parts.contains x && (stackKey s x).isSome))

/-! Parsing. -/

def sliceB (bs : List Byte) (o n : Nat) : List Byte := (bs.drop o).take n

/-- `n` entries of `k` words from a section. -/
def sectionWords (bs : List Byte) (off n k : Nat) : List (List Word) :=
  (List.range n).map (fun i => bytesWords k (sliceB bs (off + 4 * k * i) (4 * k)))

/-- Header words (Table 03.2). -/
def headerOf (bs : List Byte) : List Word := bytesWords 64 (bs.take 256)

def hField (h : List Word) (i : Nat) : Nat := nAt h i
def hCount13 (h : List Word) (i : Nat) : Nat := wfld (wAt h i) 12 0

/-- The parsed program (R52 to R55). -/
def parseImage (id : Word) (addr : Nat) (bs : List Byte) : Prog :=
  let h := headerOf bs
  { id := id, image := addr, size := bs.length, model := BitVec.ofNat 64 (u64At h 18), slotmax := wfld (wAt h 16) 15 0, tokmax := hField h 17,
    descs := sectionWords bs (hField h 10) (hField h 4) 32, tens := sectionWords bs (hField h 11) (hField h 5) 16,
    lanes := sectionWords bs (hField h 12) (hCount13 h 6) 144, pcsets := sectionWords bs (hField h 13) (hCount13 h 7) 40,
    codecs := sectionWords bs (hField h 14) (hCount13 h 8) 4, constOff := hField h 15, constSz := hField h 9,
    caps := [] }

/-! Opcodes (Table 03.7). -/

structure OpInfo where
  engines : List Nat
  split : Bool
  /-- parameter words from W12 on: the bits that Tables 03.8 to 03.12 name -/
  bits : List Nat
  deriving DecidableEq, Repr

def allB : Nat := 0xFFFFFFFF
def attBits (w12 w17 w18 : Nat) : List Nat := [w12, allB, allB, allB, 0x3FFFFFF, w17, w18]

def opInfo : Nat → Option OpInfo
  | 0x01 => some ⟨[0], true, [0x07FF0F0F, allB, 1]⟩
  | 0x02 => some ⟨[2], true, attBits 0x00FF03FF 0 0⟩
  | 0x03 => some ⟨[2], true, attBits 0x00FF13FF 0x1F 0xF1F⟩
  | 0x04 => some ⟨[3], true, [0xFF, 0xFFFF00FF, 0xF1F]⟩
  | 0x05 => some ⟨[3], true, [0xFFFFFF, 0x1FFFFFF, 0xF1F]⟩
  | 0x08 => some ⟨[1], true, [0xFFF, allB, allB, allB, allB, allB, allB, allB, allB, allB]⟩
  | 0x09 => some ⟨[1], true, [3, 0xFFFF, 0xF1F]⟩
  | 0x0A => some ⟨[0], true, [0xFFFF, 0x7FF]⟩
  | 0x10 => some ⟨[3], true, [0x7FFF]⟩
  | 0x11 => some ⟨[3], true, [0x37]⟩
  | 0x12 => some ⟨[3], true, [0x37]⟩
  | 0x14 => some ⟨[3], false, [1]⟩
  | 0x15 => some ⟨[3], false, []⟩
  | 0x16 => some ⟨[3], true, []⟩
  | 0x18 => some ⟨[2], false, [allB, 0xFFFF, 0xFFFF, 0x7FF]⟩
  | 0x19 => some ⟨[2], false, [0xF, 0x7FF]⟩
  | 0x20 => some ⟨[0, 1, 2, 3], false, [allB, 1]⟩
  | 0x21 => some ⟨[0, 1, 2, 3], false, [allB, allB, 1]⟩
  | 0x22 => some ⟨[0, 1, 2, 3], false, [0x30F]⟩
  | 0x23 => some ⟨[3], false, [7]⟩
  | 0x24 => some ⟨[3], false, [0x10F, allB, allB]⟩
  | 0x28 => some ⟨[3], false, [0x13FFF, allB, allB, allB, allB]⟩
  | 0x29 => some ⟨[3], false, [0x03FFF, allB, allB, allB, allB]⟩
  | 0x2A => some ⟨[3], false, [0x13FFF, 0, 0, 0, allB]⟩
  | 0x30 => some ⟨[3], false, [allB, 0xF3, allB, 0xF]⟩
  | 0x3F => some ⟨[3], false, []⟩
  | _ => none

/-- Some reserved bit of a descriptor is set (R8): W0[31:20], and what the opcode's parameter tables do not name. -/
def descReserved (w : List Word) : Bool :=
  wfld (wAt w 0) 31 20 != 0 ||
  (match opInfo (descOp w) with
   | none => false
   | some o => (List.range 20).any (fun i => Nat.land (nAt w (12 + i)) (allB - o.bits.getD i 0) != 0))

/-- How a slot's tensor is used. -/
inductive Use where
  | r | w | rw
  deriving DecidableEq, Repr

def Use.reads : Use → Bool | .w => false | _ => true
def Use.writes : Use → Bool | .r => false | _ => true

/-- Tensor index of slot k. -/
def slotOf_ (w : List Word) (k : Nat) : Nat := let x := wAt w (8 + k / 2); if k % 2 == 0 then wfld x 15 0 else wfld x 31 16

def lprogIdx (w : List Word) : Nat := wfld (wAt w 12) 11 0
def laneSrd (l : List Word) : Nat := wfld (wAt l 0) 11 8
def laneSwr (l : List Word) : Nat := wfld (wAt l 0) 15 12

/-- The descriptor's context with every extent at its declared maximum (R85). -/
def declCx (p : Prog) (parts : List Nat) (cfg : JobCfg) (i : Nat) : Cx :=
  let q : Prog := { p with tens := p.tens.map (fun t => t.set 2 (wset (wAt t 2) 21 19 0)) }
  let w := p.descs.getD i []
  { d := ⟨0, 0, i⟩, prog := q, w := w, parts := parts, part := descPart w, cores := descCores w, engine := descEngine w, opcode := descOp w,
    bt := 0, hdr := [], core := (descCores w).headD 0, cfg := cfg }

/-- Slots that name a tensor, with their use (Table 03.7); `ws` are the commands of a CREMA_SEQ. -/
def usedSlots (p : Prog) (w : List Word) (ws : List (List Word)) : List (Nat × Use) :=
  let acc : Use := if wbit (wAt w 0) 18 then .rw else .w
  match descOp w with
  | 0x01 => [(0, .r), (1, .r)] ++ (if wbit (wAt w 12) 3 then [] else [(2, .w)]) ++ (if needsT3 (wfld (wAt w 12) 11 8) then [(3, .r)] else [])
  | 0x02 => [(0, .r), (1, .r), (2, .w)]
  | 0x03 => [(0, .r), (2, .w), (3, .rw)]
  | 0x04 => [(0, .r), (1, .r)]
  | 0x08 =>
    let l := p.lanes.getD (lprogIdx w) []
    (List.range 4).filterMap (fun k =>
      match bitN (laneSrd l) k, bitN (laneSwr l) k with
      | true, true => some (k, Use.rw)
      | true, false => some (k, .r)
      | false, true => some (k, .w)
      | _, _ => none)
  | 0x09 => [(0, .r), (2, .w)] ++ (if slotOf_ w 3 != 0 then [(3, .w)] else [])
  | 0x0A => [(0, .rw), (1, .r), (2, .r), (3, .r)]
  | 0x10 => [(0, .r), (2, acc)]
  | 0x11 => [(0, .r), (1, .r), (2, acc)]
  | 0x12 => [(0, .r), (1, .r), (2, acc)]
  | 0x14 => [(0, .r), (2, .w)]
  | 0x15 => [(0, .r), (2, .w)]
  | 0x16 => [(0, .r), (2, .w)]
  | 0x18 => (seqSlots ws).map (fun k =>
      let wr := ws.any (fun c => (cwOp c == 5 || cwOp c == 6) && cwOpnd c == k)
      let rd := ws.any (fun c => (cwOp c == 1 && cwOpnd c == k) || (usesX c && cwX c == k))
      (k, if wr && rd then .rw else if wr then .w else .r))
  | 0x19 => [(0, .r), (1, .r), (2, .w)]
  | 0x24 => (0, .rw) :: (if wbit (wAt w 12) 8 then [(2, .w)] else [])
  | 0x28 => [(0, .r)]
  | 0x29 => [(2, .w)]
  | 0x2A => [(0, .r)]
  | 0x30 => [(0, .r)]
  | _ => []

/-- Slots that Table 03.7 gives the opcode although its parameters may leave them without an operand: VFY_TENSOR_REF does not apply to them, the
opcode's chapter decides (R57). -/
def looseSlots (op : Nat) : List Nat :=
  match op with
  | 0x01 => [2, 3]
  | 0x08 => [0, 1, 2, 3]
  | 0x09 => [3]
  | 0x18 => [0, 1, 2, 3]
  | 0x24 => [2]
  | _ => []

/-- The command words of a CREMA_SEQ as the image holds them; none when they do not lie in the constant section (R241). -/
def seqOf (p : Prog) (bs : List Byte) (w : List Word) : Option (List (List Word)) :=
  let a := addrAt w 12
  let n := wfld (wAt w 14) 15 0
  let lo := p.image + p.constOff
  if descOp w != 0x18 then some []
  else if lo ≤ a && a + 32 * n ≤ lo + p.constSz then some (sectionWords bs (a - p.image) n 8)
  else none

/-! Reach of a tensor (R85, R196). -/

/-- Lowest and highest byte at the declared extents; relative to the constant section for an IREL tensor. -/
def reachOf (w : List Word) : Int × Int :=
  let b : Int := TV.base w
  if TV.comp w then
    let nb := codecNB (rawSize w (elemsMax w))
    (b, b + codecDstart nb + 4096 * nb - 1)
  else
    let span (neg : Bool) : Int := (List.range (TV.rank w)).foldl (fun a k =>
      let x : Int := (((TV.dims w).getD k 1 : Nat) - 1 : Int) * TV.stride w k
      if neg then a + min x 0 else a + max x 0) 0
    let n : Int := fmtBits (TV.fmt w)
    let lo := b + span true * n / 8
    let hi := b + (span false * n + n - 1) / 8
    if fmtIsMx (TV.fmt w) then (lo, max hi (b + scaleOff w + ceilDiv (elemsMax w) 32 - 1)) else (lo, hi)

/-- Gaps below this many bits never hold a whole 2 MiB block, the unit in which regions and quarters are laid out. -/
def gapBits : Nat := 8 * 0x200000

/-- Runs of bits, as (start, length) from BASE, that hold every bit of the elements of a tensor and no gap with a whole 2 MiB block in it: dimensions
by growing stride; one whose gaps are small makes each run longer, another multiplies the runs. -/
def bitRuns (w : List Word) : List (Int × Nat) :=
  let n := fmtBits (TV.fmt w)
  let ks := ((List.range (TV.rank w)).map (fun k => (TV.stride w k * (n : Int), (TV.dims w).getD k 1))).mergeSort
    (fun a b => decide (a.1.natAbs ≤ b.1.natAbs))
  let runs := ks.foldl (fun (a : List Int × Nat) (st, d) =>
    if st.natAbs < a.2 + gapBits then (a.1.map (· + min 0 (st * ((d : Int) - 1))), a.2 + st.natAbs * (d - 1))
    else ((a.1.map (fun x => (List.range d).map (fun i => x + st * (i : Int)))).flatten, a.2)) ([0], n)
  runs.1.map (fun x => (x, runs.2))

/-- Lowest and highest bytes of runs that hold every byte the tensor reaches (R61; log entry 140). -/
def reachRuns (w : List Word) : List (Int × Int) :=
  let b : Int := TV.base w
  if TV.comp w then [reachOf w]
  else
    (bitRuns w).map (fun (x, n) => (b + x / 8, b + (x + n - 1) / 8)) ++
    (if fmtIsMx (TV.fmt w) then [(b + scaleOff w, b + scaleOff w + ceilDiv (elemsMax w) 32 - 1)] else [])

/-- Dense in the sense of R35. -/
def denseW (w : List Word) : Bool :=
  (List.range (TV.rank w)).all (fun k => TV.stride w k == (prodL ((TV.dims w).take k) : Int))

/-- R86: does a written tensor fail the collision test? -/
def collides (w : List Word) : Bool :=
  let ks := ((List.range (TV.rank w)).filter (fun k => decide (1 < (TV.dims w).getD k 1))).map (fun k => ((TV.stride w k).natAbs, (TV.dims w).getD k 1))
  ((ks.mergeSort (fun a b => decide (a.1 ≤ b.1))).foldl (fun (a : Bool × Nat) (st, d) => (a.1 || decide (st ≤ a.2), a.2 + st * (d - 1))) (false, 0)).1

/-! The graphs H and G (R87, R90). -/

/-- Flag of a flag word when it names a program-local flag. -/
def localFlag (w : Word) : Option Nat := if wbit w 31 && wfld w 11 0 < 2048 then some (wfld w 11 0) else none

def setsFlag (w : List Word) (f : Nat) : Bool :=
  localFlag (wAt w 10) == some f || (descOp w == 0x20 && !wbit (wAt w 13) 0 && localFlag (wAt w 12) == some f)

/-- A wait on a program-local flag: the flag. -/
def waitsFlag (w : List Word) : Option Nat := if descOp w == 0x21 then localFlag (wAt w 12) else none

/-- Does a FENCE (word b) cover an earlier descriptor (R68)? -/
def fenceCovers (b a : List Word) : Bool :=
  let m := wAt b 12
  wbit m 9 || (wbit m 8 && descPart a == descPart b) ||
  (wbit m (descEngine a) && decide (descEngine a < 4) && descPart a == descPart b && (descCores a).any (descCores b).contains)

/-- Is `a` the last descriptor before `i` on one of the queues of descriptor i? -/
def lastOnQueue (ds : List (List Word)) (i a : Nat) : Bool :=
  let w := ds.getD i []
  let v := ds.getD a []
  descEngine v == descEngine w && descPart v == descPart w &&
  (descCores w).any (fun c => (descCores v).contains c &&
    !(List.range i).any (fun k => decide (a < k) && (let u := ds.getD k []
      descEngine u == descEngine w && descPart u == descPart w && (descCores u).contains c)))

/-- Edges into descriptor i, with those of G's queues when `g` is set. -/
def edgesInto (ds : List (List Word)) (g : Bool) (i : Nat) : List Nat :=
  let w := ds.getD i []
  (List.range ds.length).filter (fun a =>
    let v := ds.getD a []
    (decide (a < i) && ((descPreds w).contains (wAt v 1) ||
      (descOp w == 0x22 && fenceCovers w v) ||
      ((g || descEngine w ≤ 1) && lastOnQueue ds i a))) ||
    (match waitsFlag w with | some f => setsFlag v f | none => false))

/-- The edges of H or G: for each descriptor, what it comes after. -/
def graphOf (ds : List (List Word)) (g : Bool) : List (List Nat) := (List.range ds.length).map (edgesInto ds g)

/-- Everything reached backwards from a set of nodes, in at most `n` rounds. -/
def backReach (into : List (List Nat)) : Nat → List Nat → List Nat → List Nat
  | 0, _, seen => seen
  | n + 1, front, seen =>
    let new := ((front.map (fun i => into.getD i [])).flatten.dedup).filter (fun a => !seen.contains a)
    if new.isEmpty then seen else backReach into n new (seen ++ new)

/-- What comes before a descriptor. -/
def before (into : List (List Nat)) (i : Nat) : List Nat := backReach into into.length [i] []

/-- A path from a to b. -/
def reaches_ (into : List (List Nat)) (a b : Nat) : Bool := (before into b).contains a

end Sys2Proof.Machine
end

