-- ==== Sys2Proof/Machine/Verify.lean ====
section
/-! DEFINITION. The loader's checks: phases 1 to 6 of Table 04.3 in order, each stopping at its first violation (R83). Within one tensor or
descriptor the codes are taken in the order written here (log entry 44). -/

namespace Sys2Proof.Machine

/-- What a verification report says (Table 04.2), VTIME apart. -/
structure Rep where
  code : Nat
  phase : Nat
  program : Word := 0#32
  dindex : Option Nat := none
  dindex2 : Option Nat := none
  tindex : Option Nat := none
  tindex2 : Option Nat := none
  /-- LPROG, OPIDX, SHORTFALL -/
  lane : Option (Nat × Nat × Nat) := none
  flag : Word := 0#32
  deriving DecidableEq, Repr

/-- Bytes of a report. -/
def Rep.bytes (r : Rep) (vtime : Nat) : List Byte :=
  let w0 := b2n r.lane.isSome * 2 ^ 26 + b2n r.tindex2.isSome * 2 ^ 25 + b2n r.tindex.isSome * 2 ^ 24 + r.phase * 65536 + r.code
  let (lp, oi, sf) := r.lane.getD (0, 0, 0)
  wordsBytes ([BitVec.ofNat 32 w0, r.program, BitVec.ofNat 32 (r.dindex.getD 0xFFFFFFFF), BitVec.ofNat 32 (r.dindex2.getD 0xFFFFFFFF),
    BitVec.ofNat 32 (r.tindex2.getD 0 * 65536 + r.tindex.getD 0), BitVec.ofNat 32 (sf * 2 ^ 24 + oi * 4096 + lp), r.flag, BitVec.ofNat 32 vtime])

/-- First entry whose test holds. -/
def firstBad (l : List (Bool × Rep)) : Option Rep := (l.find? (·.1)).map Prod.snd

def firstSome {α : Type} (l : List α) (f : α → Option Rep) : Option Rep := l.findSome? f

/-! Codes. -/

def vHEADER : Nat := 0x3201
def vDIGEST : Nat := 0x3202
def vPARTS : Nat := 0x3203
def vLIMIT : Nat := 0x3204
def vRESERVED : Nat := 0x3205
def vID : Nat := 0x3206
def vOPCODE : Nat := 0x3207
def vPLACEMENT : Nat := 0x3208
def vTENSORREF : Nat := 0x3209
def vFORMAT : Nat := 0x320A
def vLAYOUT : Nat := 0x320B
def vSHAPE : Nat := 0x320C
def vRANGE : Nat := 0x320D
def vRAT : Nat := 0x320E
def vBIND : Nat := 0x320F
def vDSTCOLLIDE : Nat := 0x3210
def vOVERLAP : Nat := 0x3211
def vNOSET : Nat := 0x3212
def vCONSUME : Nat := 0x3213
def vDEADLOCK : Nat := 0x3214
def vLANEFORMAT : Nat := 0x3215
def vHAZARD : Nat := 0x3216
def vWAW : Nat := 0x3217
def vKVFMT : Nat := 0x3218
def vCODEC : Nat := 0x3219
def vWATCH : Nat := 0x321A
def vSTEPEND : Nat := 0x321B
def vPARAM : Nat := 0x321C
def vCOMPLEX : Nat := 0x321D
def vNOSLOT : Nat := 0x321E

/-- What the checks look at. -/
structure VX where
  s : State
  j : Job
  lead : Nat
  p : Prog
  img : List Byte
  /-- commands of each descriptor that is a CREMA_SEQ in the constant section -/
  seqs : List (Option (List (List Word)))

def VX.ws (x : VX) (i : Nat) : List (List Word) := (x.seqs.getD i none).getD []
def VX.uses (x : VX) (i : Nat) : List (Nat × Use) := usedSlots x.p (x.p.descs.getD i []) (x.ws i)
/-- Tensor words of slot k of descriptor i. -/
def VX.tw (x : VX) (i k : Nat) : List Word := x.p.tens.getD (slotOf_ (x.p.descs.getD i []) k) []
def VX.ti (x : VX) (i k : Nat) : Nat := slotOf_ (x.p.descs.getD i []) k
def VX.cx (x : VX) (i : Nat) : Cx := declCx x.p x.j.parts x.j.cfg i

/-! Phase 1 (R52, R54, R80). -/

def reqReserved (w : List Word) : Bool :=
  wfld (wAt w 1) 31 16 != 0 || wfld (wAt w 3) 31 1 != 0 || wfld (wAt w 6) 31 16 != 0 || wAt w 7 != 0#32

def reqImage (w : List Word) : Nat := addrAt w 0
def reqSize (w : List Word) : Nat := nAt w 2
def reqUnload (w : List Word) : Bool := wbit (wAt w 3) 0
def reqReport (w : List Word) : Nat := addrAt w 5

/-- May the whole image be read through regions of the job? It must lie in the spread window (Table 04.1). -/
def imageRead (s : State) (j : Job) (w : List Word) : Bool :=
  decide (reqImage w + reqSize w ≤ spreadTop s) && rangeOk s 0 j.parts (reqImage w) (reqSize w)

/-- Sections: offset, bytes (Table 03.1). -/
def sectionsOf (h : List Word) : List (Nat × Nat) :=
  [(hField h 10, 128 * hField h 4), (hField h 11, 64 * hField h 5), (hField h 12, 576 * hCount13 h 6), (hField h 13, 160 * hCount13 h 7),
   (hField h 14, 16 * hCount13 h 8), (hField h 15, hField h 9)]

def headerBad (h : List Word) (size : Nat) : Bool :=
  let secs := sectionsOf h
  nAt h 0 != 0x4B575350 || wfld (wAt h 1) 15 0 != 1 || wfld (wAt h 1) 31 16 != 0 || hField h 2 != size || decide (150994944 < size) ||
  wfld (wAt h 3) 31 16 != 0 || [6, 7, 8].any (fun i => wfld (wAt h i) 31 13 != 0) || wfld (wAt h 16) 31 16 != 0 ||
  [20, 21, 22, 23].any (fun i => wAt h i != 0#32) || (List.range 24).any (fun i => wAt h (40 + i) != 0#32) ||
  secs.any (fun x => x.1 % 4096 != 0 || (x.2 == 0 && x.1 != 0) || (x.2 != 0 && x.1 == 0) || decide (size < x.1 + x.2)) || !disjoint secs

def limitBad (h : List Word) : Bool :=
  !between (hField h 4) 1 1048576 || !between (hField h 5) 1 65536 || decide (4096 < hCount13 h 6) || decide (4094 < hCount13 h 7) ||
  decide (4096 < hCount13 h 8) || decide (8388608 < hField h 9) || !between (wfld (wAt h 16) 15 0) 1 8192 || !between (hField h 17) 1 65536

/-- Phase 1; the image's bytes are read only when they may be. -/
def phase1 (s : State) (j : Job) (w : List Word) (img : List Byte) : Option Rep :=
  let h := headerOf img
  let size := reqSize w
  let r (c : Nat) : Rep := { code := c, phase := 1 }
  if reqReserved w || wAt w 4 != 0#32 then some (r vRESERVED)
  else if !imageRead s j w then some (r vRAT)
  else if size < 256 || headerBad h size then some (r vHEADER)
  else if sha3 (img.drop 256) != sliceB img 128 32 then some (r vDIGEST)
  else if maskParts (wfld (wAt h 3) 15 0) != j.parts then some (r vPARTS)
  else if limitBad h then some (r vLIMIT)
  else if 8 ≤ j.progs.length then some (r vNOSLOT)
  else none

/-! Phase 2: lane programs (R91, R92, R122, R136). -/

/-- How an operation uses its fields (Table 06.4, R136). -/
structure LaneUse where
  /-- TYPE 0 and TYPE 1 allowed; neither: TYPE unused -/
  ty0 : Bool := false
  ty1 : Bool := false
  /-- destination: 0 none, 1 vector, 2 mask -/
  dst : Nat := 0
  /-- operands A, B, C: 0 unused, 1 value, 2 mask -/
  a : Nat := 0
  b : Nat := 0
  c : Nat := 0
  /-- stream: 0 none, 1 read, 2 written -/
  str : Nat := 0
  lat : Nat := 0
  deriving DecidableEq, Repr

def luFI (dst a b lat : Nat) : LaneUse := { ty0 := true, ty1 := true, dst := dst, a := a, b := b, lat := lat }
def luI (dst a b lat : Nat) : LaneUse := { ty1 := true, dst := dst, a := a, b := b, lat := lat }
def luF (lat : Nat) : LaneUse := { ty0 := true, dst := 1, a := 1, lat := lat }

def laneUse : Nat → Option LaneUse
  | 0x00 => some {}
  | 0x01 => some (luFI 1 1 1 3)
  | 0x02 => some (luFI 1 1 1 3)
  | 0x03 => some (luFI 1 1 1 4)
  | 0x04 => some { luFI 1 1 1 4 with c := 1 }
  | 0x05 => some (luFI 1 1 1 3)
  | 0x06 => some (luFI 1 1 1 3)
  | 0x07 => some (luFI 1 1 0 3)
  | 0x08 => some (luFI 1 1 0 3)
  | 0x09 => some (luFI 1 1 0 3)
  | 0x0A => some { luFI 1 1 1 3 with c := 2 }
  | 0x0B => some (luI 1 1 1 3)
  | 0x0C => some (luI 1 1 1 3)
  | 0x0D => some (luI 1 1 1 3)
  | 0x0E => some (luI 1 1 1 3)
  | 0x0F => some (luI 1 1 1 3)
  | 0x10 => some (luI 1 1 1 3)
  | 0x11 => some (luFI 2 1 1 3)
  | 0x12 => some { dst := 2, a := 2, b := 2, lat := 3 }
  | 0x13 => some (luI 1 0 0 3)
  | 0x14 => some (luF 8)
  | 0x15 => some (luF 8)
  | 0x16 => some (luF 8)
  | 0x17 => some (luF 8)
  | 0x18 => some (luFI 1 1 0 3)
  | 0x20 => some (luFI 1 1 1 6)
  | 0x21 => some (luFI 1 1 1 7)
  | 0x22 => some (luFI 1 1 0 5)
  | 0x23 => some (luFI 1 1 0 5)
  | 0x28 => some { luFI 1 0 0 6 with str := 1 }
  | 0x29 => some { luFI 1 0 0 6 with str := 1 }
  | 0x2A => some (luFI 1 0 0 6)
  | 0x2C => some { luFI 0 1 0 0 with str := 2 }
  | 0x2D => some { luFI 0 1 0 0 with str := 2 }
  | 0x2E => some { luFI 0 1 0 0 with str := 2 }
  | _ => none

/-- MLOG's functions 4 to 6 leave operands unused. -/
def laneUseOf (op : Nat) (o : LaneOp) : Option LaneUse :=
  (laneUse op).map (fun u => if op == 0x12 then { u with a := if o.imm8 ≤ 4 then 2 else 0, b := if o.imm8 ≤ 3 then 2 else 0 } else u)

def immOk (op imm : Nat) : Bool :=
  match op with
  | 0x11 => imm ≤ 7
  | 0x12 => imm ≤ 6
  | 0x18 => imm ≤ 4
  | 0x20 => imm < 16 && imm % 4 ≤ 2
  | 0x21 => imm < 64 && imm % 4 ≤ 2 && !bitN imm 3 && 16 ≤ imm
  | 0x28 => imm ≤ 1
  | 0x2C => imm ≤ 1
  | 0x29 => true
  | 0x2D => true
  | _ => imm == 0

/-- Parts of a packed register for a format: 2 of 16-bit, 4 of 8-bit elements (R119). -/
def partsOfFmt (f : Nat) : Nat := match f with | 1 => 2 | 2 => 2 | 3 => 4 | 4 => 4 | 9 => 4 | 12 => 4 | _ => 0

/-- Table 06.3: 0 when the selector fits a value operand of the TYPE, else the condition of R136. -/
def valCond (sel ty : Nat) : Nat :=
  if sel < 32 || (36 ≤ sel && sel ≤ 46) || sel == 48 || sel == 49 then 0
  else if sel == 47 then (if ty == 1 then 4 else 0)
  else if 50 ≤ sel && sel ≤ 52 then (if ty == 1 then 0 else 4)
  else 2

def operandCond (kind sel ty : Nat) : Nat :=
  match kind with
  | 0 => if sel == 0 then 0 else 2
  | 1 => valCond sel ty
  | _ => if 32 ≤ sel && sel ≤ 35 then 0 else 2

def firstNz (l : List Nat) : Nat := (l.find? (· != 0)).getD 0
def cnd (b : Bool) (n : Nat) : Nat := if b then n else 0

/-- The condition of R136 that one operation breaks in phase 2; 0 for none. -/
def laneCond (hdr : Word) (op : Nat) (o : LaneOp) (hi : Word) : Nat :=
  if wfld hi 31 24 != 0 then 2
  else match laneUseOf op o with
  | none => 2
  | some u =>
    if op == 0 then cnd (o != {}) 2
    else
      let kind := o.imm8
      let raw := (op == 0x28 || op == 0x2C) && bitN o.imm8 0
      let cvtUsed := (op == 0x18 && kind != 3) || (op == 0x2C && !raw) || op == 0x2D || op == 0x2E
      let fmtOk2 := match kind with | 2 => [1, 2, 3, 4].contains o.fmt | 3 => partsOfFmt o.fmt != 0 | 4 => partsOfFmt o.fmt != 0 | _ => o.fmt == 0
      let ty2 := match kind with | 0 => 0 | 1 => 1 | 2 => 0 | _ => b2n (fmtIsInt o.fmt)
      firstNz [
        cnd (u.ty0 && !u.ty1 && o.ty == 1) 4, cnd (u.ty1 && !u.ty0 && o.ty == 0) 4, cnd (!u.ty0 && !u.ty1 && o.ty != 0) 2,
        cnd ((o.msel == 0 && o.minv != 0) || (op == 0x12 && (o.msel != 0 || o.minv != 0))) 2,
        operandCond u.a o.a o.ty, operandCond u.b o.b o.ty, operandCond u.c o.c o.ty,
        (match u.dst with
          | 0 => cnd (o.d != 0) 2
          | 1 => cnd (32 ≤ o.d) (if o.d < 36 then 3 else 2)
          | _ => cnd (!(33 ≤ o.d && o.d ≤ 35)) (if o.d ≤ 32 then 3 else 2)),
        cnd (!immOk op o.imm8) 2,
        (match u.str with
          | 0 => cnd (o.stream != 0) 2
          | 1 => cnd (!bitN (wfld hdr 11 8) o.stream) 5
          | _ => cnd (!bitN (wfld hdr 15 12) o.stream) 5),
        cnd (o.cvt != 0 && !cvtUsed) 2,
        (if op == 0x18 then firstNz [cnd (!fmtOk2) 4, cnd (o.ty != ty2) 4,
            if 3 ≤ kind then cnd (partsOfFmt o.fmt ≤ o.part) 2 else cnd (o.part != 0) 2]
         else firstNz [cnd (o.fmt != 0) 2, cnd (o.part != 0 && !raw) 2]),
        cnd (op == 0x2A && !wbit hdr 17) 6]

/-- Registers read: V0 to V31 as 0 to 31, MK1 to MK3 as 33 to 35. A masked write does not read its destination (R121). -/
def laneReads (op : Nat) (o : LaneOp) : List Nat :=
  match laneUseOf op o with
  | none => []
  | some u =>
    let rd (k sel : Nat) : List Nat := match k with | 1 => if sel < 32 then [sel] else [] | 2 => if 33 ≤ sel then [sel] else [] | _ => []
    rd u.a o.a ++ rd u.b o.b ++ rd u.c o.c ++ (if o.msel != 0 then [32 + o.msel] else []) ++ (if op == 0x21 then [32 + fld o.imm8 5 4] else [])

def laneWrites (op : Nat) (o : LaneOp) : Option Nat :=
  match laneUseOf op o with
  | none => none
  | some u => if u.dst == 0 then none else some o.d

def laneLat (op : Nat) : Nat := match laneUse op with | some u => u.lat | none => 0

/-- Nearest earlier writer of a register in cyclic order before operation j; an operation is its own writer one iteration back. -/
def prevWriter (ops : List (Nat × LaneOp)) (reg j : Nat) : Option Nat :=
  let n := ops.length
  ((List.range n).map (fun k => (j + n - 1 - k) % n)).find? (fun i => match ops[i]? with | some (op, o) => laneWrites op o == some reg | none => false)

/-- One lane program. -/
def laneProgram (lp : Nat) (l : List Word) : Option Rep :=
  let r (c oi sf : Nat) : Rep := { code := c, phase := 2, lane := some (lp, oi, sf) }
  let h := wAt l 0
  let n := wfld h 6 0
  let slot (j : Nat) : Word × Word := (wAt l (16 + 2 * j), wAt l (17 + 2 * j))
  let ops := (List.range n).map (fun j => laneOpOf (slot j).1 (slot j).2)
  if !between n 1 64 then some (r vLANEFORMAT 0 1)
  else match (List.range 64).find? (fun j => n ≤ j && slot j != (0#32, 0#32)) with
  | some j => some (r vLANEFORMAT j 1)
  | none =>
    if wfld h 31 18 != 0 || wbit h 7 || wfld (wAt l 1) 31 11 != 0 || (List.range 14).any (fun i => wAt l (2 + i) != 0#32) then some (r vLANEFORMAT 0 2)
    else if !bitN (laneSrd l) 0 && !bitN (laneSwr l) 0 then some (r vLANEFORMAT 0 7)
    else
      match (List.range n).findSome? (fun j => match ops[j]? with
        | some (op, o) => let c := laneCond h op o (slot j).2; if c == 0 then none else some (r vLANEFORMAT j c)
        | none => none) with
      | some x => some x
      | none =>
        (List.range n).findSome? (fun j => match ops[j]? with
          | none => none
          | some (op, o) =>
            let lat (i : Nat) : Nat := match ops[i]? with | some (p, _) => laneLat p | none => 0
            let haz := (laneReads op o).findSome? (fun reg => match prevWriter ops reg j with
              | none => none
              | some i =>
                let d := if i < j then j - i else j + n - i
                if d < lat i then some (r vHAZARD j (lat i - d)) else none)
            match haz with
            | some x => some x
            | none => match laneWrites op o with
              | none => none
              | some reg => match prevWriter ops reg j with
                | none => none
                | some i =>
                  let land1 : Int := (if i < j then (i : Int) else i - n) + lat i
                  let land2 : Int := (j : Int) + lat j
                  if i != j && land2 < land1 then some (r vWAW j (land1 - land2).toNat) else none)

def phase2 (p : Prog) : Option Rep := firstSome p.lanes.zipIdx (fun (l, i) => laneProgram i l)

/-! Phase 3: tensors (R32, R35, R36, R59 to R62, R75, R85, R181, R195, R242). -/

/-- Slots of descriptors that name tensor t: descriptor, slot, use. -/
def VX.refs (x : VX) (t : Nat) : List (Nat × Nat × Use) :=
  ((List.range x.p.descs.length).map (fun i => ((x.uses i).filter (fun u => x.ti i u.1 == t)).map (fun u => (i, u.1, u.2)))).flatten

def tensReserved (w : List Word) : Bool :=
  wfld (wAt w 0) 31 24 != 0 || wbit (wAt w 0) 15 || wbit (wAt w 0) 3 || wfld (wAt w 2) 31 22 != 0 || wfld (wAt w 13) 31 20 != 0 || wfld (wAt w 15) 31 16 != 0

def tensLayoutBad (w : List Word) : Bool :=
  let rk := TV.rank w
  let f := TV.fmt w
  let g := match fmtBits f with | 4 => 2 | 6 => 4 | _ => 1
  decide (4 < TV.space w) || (decide (TV.space w ≤ 1) && TV.part w != 0) || !between rk 1 5 ||
  (List.range 5).any (fun k => decide (rk ≤ k) && ((TV.dims w).getD k 1 != 1 || TV.stride w k != 0)) || (TV.dims w).any (· == 0) ||
  (TV.dims w).headD 0 % g != 0 || (List.range rk).any (fun k => decide (1 ≤ k) && decide (1 < (TV.dims w).getD k 1) && TV.stride w k % (g : Int) != 0) ||
  (fmtIsMx f && ((TV.dims w).headD 0 % 32 != 0 || !denseW w)) || (TV.comp w && (TV.pad w || !denseW w))

def tensBindBad (p : Prog) (w : List Word) : Bool :=
  let b := TV.bsrc w
  let cap := match b with | 1 => p.slotmax | 3 => p.slotmax | 2 => p.tokmax | 4 => p.tokmax | _ => 65535
  (b == 0 && TV.bdim w != 0) || decide (5 < b) || (b != 0 && (decide (TV.rank w ≤ TV.bdim w) || decide (cap < (TV.dims w).getD (TV.bdim w) 0)))

def codecEntry (p : Prog) (w : List Word) : List Word := p.codecs.getD (TV.codec w) []

/-- The table of a codec directory entry lies in the job's ranges (R197: 256 B). -/
def tableOk (x : VX) (e : List Word) : Bool :=
  let a := nAt e 0 + wfld (wAt e 1) 15 0 * 2 ^ 32
  let n := max (nAt e 2) 256
  if wbit (wAt e 1) 31 then decide (a + n ≤ x.p.constSz) else decide (a + n ≤ spreadTop x.s) && rangeOk x.s 0 x.j.parts a n

/-- Least and greatest extent and source of a dimension (R180). -/
def extOf (w : List Word) (k : Nat) : Nat × Nat × Nat :=
  let n := (TV.dims w).getD k 1
  if TV.rank w ≤ k then (1, 1, 0) else if TV.bsrc w != 0 && TV.bdim w == k then (1, n, TV.bsrc w) else (n, n, 0)

/-- A source extent that no step makes longer than the destination's: at most its least value, or bound to the same batch value. -/
def neverCrops (src dst : Nat × Nat × Nat) : Bool := decide (src.2.1 ≤ dst.1) || (src.2.2 != 0 && src.2.2 == dst.2.2)

/-- Table 08.5. -/
def compressedUse (x : VX) (w : List Word) (i k : Nat) (u : Use) : Bool :=
  let d := x.p.descs.getD i []
  let sp := TV.space w
  match descOp d with
  | 0x15 => k == 2 && (sp == 0 || sp == 4)
  | 0x16 => k == 0 && (sp == 0 || sp == 4)
  | 0x10 => k == 0 && sp == 0 && wfld (wAt d 12) 14 0 == 0x4688 &&
      (List.range 5).all (fun n => neverCrops (extOf w n) (extOf (x.tw i 2) n))
  | 0x01 => sp == 0 && u == .r
  | 0x08 => sp == 0 && u == .r
  | _ => false

def tensCodecBad (x : VX) (t : Nat) (w : List Word) : Bool :=
  let rs := x.refs t
  if TV.comp w then
    !(TV.space w == 0 || TV.space w == 4) || decide (x.p.codecs.length ≤ TV.codec w) || !tableOk x (codecEntry x.p w) ||
    rs.any (fun (i, k, u) => !compressedUse x w i k u)
  else
    TV.codec w != 0 || rs.any (fun (i, k, _) => let o := descOp (x.p.descs.getD i []); (o == 0x15 && k == 2) || (o == 0x16 && k == 0))

def codecReserved (e : List Word) : Bool := wfld (wAt e 1) 30 16 != 0 || wfld (wAt e 3) 31 1 != 0

/-- Displacements of the units of a Crema operand (R242); none for other tensors. -/
def cremaUnits (x : VX) (i k : Nat) : Option (List Nat) :=
  let d := x.p.descs.getD i []
  let ps := (x.cx i).pcset
  if TV.space (x.tw i k) == 1 && (descOp d == 0x18 || (descOp d == 0x19 && k == 0)) then some (ps.map (fun pc => (pc - ps.headD 0) * 2 ^ 30)) else none

/-- A Crema operand lies wholly in the lowest pseudo-channel of PCSET (R242). -/
def inPc0 (x : VX) (i : Nat) (lo hi : Int) : Bool :=
  let b : Int := bankBase + (x.cx i).pcset.headD 0 * 2 ^ 30
  decide (b ≤ lo) && decide (hi < b + 2 ^ 30)

/-- The valid range of its space (R61, R85). -/
def spaceOk (x : VX) (w : List Word) (lo hi : Int) : Bool :=
  decide (0 ≤ lo) &&
  match TV.space w with
  | 0 => decide (hi < spreadTop x.s)
  | 1 => decide ((bankBase : Int) ≤ lo) && decide (hi < bankTop)
  | 2 => x.j.parts.contains (TV.part w) && decide (hi < 0x2000000)
  | 3 => x.j.parts.contains (TV.part w) && decide (hi < 0x4000000)
  | _ => true

/-- Permission bits a use of slot k of descriptor i needs, with the displacements of its accesses. -/
def permNeeds (x : VX) (i k : Nat) (u : Use) : List (Nat × Nat) :=
  match cremaUnits x i k with
  | some ds => ds.map (fun d => (6, d))
  | none => (if u.reads then [(0, 0)] else []) ++ (if u.writes then [(1, 0)] else [])

/-- Slots whose engine has no path to host memory (Table 01.8, R103) where the opcode's chapter names no space of its own (log entry 141). -/
def noHostPath (op k : Nat) : Bool :=
  op == 0x01 || op == 0x02 || (op == 0x09 && k != 0) || (op == 0x0A && (k == 1 || k == 2))

/-- A codec directory entry that no compressed tensor names (R8, R197; log entry 44). -/
def codecCheck (x : VX) (e : List Word) : Option Rep :=
  let r (c : Nat) : Rep := { code := c, phase := 3 }
  firstBad [(codecReserved e, r vRESERVED), (!tableOk x e, r vCODEC)]

/-- One tensor. -/
def tensorCheck (x : VX) (t : Nat) (w : List Word) : Option Rep :=
  let r (c : Nat) : Rep := { code := c, phase := 3, tindex := some t }
  let f := TV.fmt w
  let rs := x.refs t
  let (lo, hi) := reachOf w
  let runs := reachRuns w
  let sp := TV.space w
  match firstBad [
    (tensReserved w || (TV.comp w && decide (TV.codec w < x.p.codecs.length) && codecReserved (codecEntry x.p w)), r vRESERVED),
    (!fmtOk f, r vFORMAT), (tensLayoutBad w, r vLAYOUT), (tensBindBad x.p w, r vBIND), (tensCodecBad x t w, r vCODEC),
    (TV.irel w && (sp != 0 || decide (lo < 0) || decide ((x.p.constSz : Int) ≤ hi) || rs.any (·.2.2.writes)), r vRANGE),
    (!TV.irel w && !spaceOk x w lo hi, r vRANGE),
    (!TV.irel w && rs.any (fun (i, k, _) => match cremaUnits x i k with
      | some ds => !inPc0 x i lo hi || ds.any (fun d => !spaceOk x w (lo + d) (hi + d))
      | none => false), r vRANGE),
    (!TV.irel w && decide (sp ≤ 1) && rs.any (fun (i, k, u) =>
      (permNeeds x i k u).any (fun q => runs.any (fun v => !rangeOk x.s q.1 x.j.parts (v.1 + q.2).toNat (v.2 - v.1 + 1).toNat))), r vRAT)] with
  | some z => some z
  | none => rs.findSome? (fun (i, k, _) =>
      let d := x.p.descs.getD i []
      let o := descOp d
      firstBad [
        (sp == 4 && (noHostPath o k || (k == 2 && wbit (wAt d 0) 18 && (o == 0x10 || o == 0x11 || o == 0x12))), { r vRANGE with dindex := some i }),
        (o == 0x10 && k == 2 && TV.padSup w && (fmtIsMx f || f == 10), { r vLAYOUT with dindex := some i })])

/-- Tensors in table order, the codec directory, then the place of each CREMA_SEQ's sequence (R241). -/
def phase3 (x : VX) : Option Rep :=
  match (firstSome x.p.tens.zipIdx (fun (w, t) => tensorCheck x t w)).or (firstSome x.p.codecs (codecCheck x)) with
  | some r => some r
  | none => (List.range x.p.descs.length).findSome? (fun i =>
      if (x.seqs.getD i none).isNone then some { code := vRANGE, phase := 3, dindex := some i } else none)

/-! Phase 4: descriptors. -/

abbrev Chk := List (Bool × Rep)

def dimN (w : List Word) (k : Nat) : Nat := (TV.dims w).getD k 1
def foldN (w : List Word) : Nat := prodL ((TV.dims w).drop 1)
def dim12 (w : List Word) : Nat × Nat := (dimN w 0, foldN w)
/-- Bound to a batch source in a dimension. -/
def boundTo (w : List Word) (b d : Nat) : Bool := TV.bsrc w == b && TV.bdim w == d

def rj (c i : Nat) : Rep := { code := c, phase := 4, dindex := some i }
def VX.rjT (x : VX) (c i k : Nat) : Rep := { rj c i with tindex := some (x.ti i k) }

/-- R65. With NSHARE 0 or 1 there are no parts and PSHARE is not tested (log entry 142). -/
def shareBad (sw : Word) : Bool := decide (16 < wfld sw 4 0) || (decide (2 ≤ wfld sw 4 0) && decide (wfld sw 4 0 ≤ wfld sw 11 8))

/-- Accumulator rows of a MATMUL's run on one core (R108, R115). -/
def mmRun (c : Cx) : Nat :=
  let q := c.mm
  if q.keep || q.accin then q.nb * q.m
  else q.step * min (if q.splitM then ceilDiv q.m c.cores.length else q.m) ((2048 - q.accRow) / q.step)

/-- A row group of no rows (EPI 4 at ACC_ROW 2,047) is rejected with VFY_PARAM (log entry 143). -/
def ckMatmul (x : VX) (i : Nat) : Chk × Chk × Chk :=
  let c := x.cx i
  let q := c.mm
  let t (k : Nat) := x.tw i k
  let kb := if q.tb then dimN (t 1) 0 else foldN (t 1)
  let mxBad (k : Nat) (off : Bool) : Bool := fmtIsMx (TV.fmt (t k)) && (off || q.k % 32 != 0)
  let want : Nat × Nat := if q.epi == 8 then (q.m, 1) else if q.epi == 2 || q.epi == 3 then (q.n, q.m) else (q.n, 1)
  ([(decide (11 ≤ q.epi) || (q.keep && (q.epi != 0 || q.scale != 0x3F800000#32 || x.ti i 2 != 0 || x.ti i 3 != 0)), rj vPARAM i),
    ((q.keep || q.accin) && decide (1 < c.cores.length), rj vPARAM i),
    ((q.keep || q.accin) && decide (2048 < q.nb * q.m + q.accRow), rj vPARAM i),
    (!(q.keep || q.accin) && mmRun c == 0, rj vPARAM i)],
   [(!between (TV.fmt (t 0)) 1 10, x.rjT vFORMAT i 0), (!between (TV.fmt (t 1)) 1 10, x.rjT vFORMAT i 1),
    (fmtIsInt (TV.fmt (t 0)) != fmtIsInt (TV.fmt (t 1)), { x.rjT vFORMAT i 0 with tindex2 := some (x.ti i 1) }),
    (!q.keep && !([0, 1, 2, 3, 4, 9, 11].contains (TV.fmt (t 2))), x.rjT vFORMAT i 2),
    (needsT3 q.epi && !([0, 1].contains (TV.fmt (t 3))), x.rjT vFORMAT i 3)],
   [(mxBad 0 q.ta, x.rjT vSHAPE i 0), (mxBad 1 (!q.tb), x.rjT vSHAPE i 1), (q.k != kb, rj vSHAPE i),
    (!q.keep && (foldN (t 2) != q.m || dimN (t 2) 0 != (if q.epi == 4 then q.n / 2 else q.n) || (q.epi == 4 && q.n % 256 != 0)), x.rjT vSHAPE i 2),
    (needsT3 q.epi && dim12 (t 3) != want, x.rjT vSHAPE i 3), (!needsT3 q.epi && !q.keep && x.ti i 3 != 0, x.rjT vSHAPE i 3)])

/-- Rows of STEER's group on one core (R118). -/
def steerRun (x : VX) (i : Nat) : Nat :=
  let c := x.cx i
  2 * min (ceilDiv (foldN (x.tw i 0)) (max c.cores.length 1)) ((2048 - wfld (wAt c.w 13) 10 0) / 2)

/-- T0 is a matrix of W columns, T1 and T2 hold NBASIS vectors of W in dimension 1 (R116); a group of no rows as in `ckMatmul` (log entry 143). -/
def ckSteer (x : VX) (i : Nat) : Chk × Chk × Chk :=
  let w := x.p.descs.getD i []
  let nb := wfld (wAt w 12) 15 8
  let t (k : Nat) := x.tw i k
  let basis := [dimN (t 0) 0, nb, 1, 1, 1]
  ([(!between nb 1 64, rj vPARAM i), (steerRun x i == 0, rj vPARAM i)],
   [(!([0, 1].contains (TV.fmt (t 0))), x.rjT vFORMAT i 0), (TV.fmt (t 1) != 1, x.rjT vFORMAT i 1), (TV.fmt (t 2) != 1, x.rjT vFORMAT i 2)],
   [(!([2, 3].contains (TV.space (t 0))) || foldN (t 0) != dimN (t 0) 1, x.rjT vSHAPE i 0), (TV.dims (t 1) != basis, x.rjT vSHAPE i 1),
    (TV.dims (t 2) != basis, x.rjT vSHAPE i 2), (TV.space (t 3) != 0, x.rjT vSHAPE i 3)])

/-- One past the highest accumulator row that ACCLD reads (R135). -/
def accTop (x : VX) (i : Nat) (l : List Word) : Nat :=
  let (c0, rows) := dim12 (x.tw i 0)
  wfld (wAt l 1) 10 0 + (ceilDiv c0 64 - 1) / 2 * rows + rows

def vecFmt (f : Nat) : Bool := [0, 1, 2, 3, 4, 9, 11, 12].contains f

def ckVlane (x : VX) (i : Nat) : Chk × Chk × Chk :=
  let w := x.p.descs.getD i []
  let lp := lprogIdx w
  match x.p.lanes[lp]? with
  | none => ([(true, rj vPARAM i)], [], [])
  | some l =>
    let ops := (List.range (wfld (wAt l 0) 6 0)).map (fun j => (j, laneOpOf (wAt l (16 + 2 * j)) (wAt l (17 + 2 * j))))
    let us := x.uses i
    let rows := foldN (x.tw i 0)
    let streams := ops.filter (fun (_, op, _) => [0x28, 0x29, 0x2C, 0x2D, 0x2E].contains op)
    let tf (o : LaneOp) : Nat := TV.fmt (x.tw i o.stream)
    ([(wbit (wAt l 0) 17 && decide (2048 < accTop x i l), rj vPARAM i)],
     us.map (fun u => (!vecFmt (TV.fmt (x.tw i u.1)), x.rjT vFORMAT i u.1)) ++
     (streams.map (fun (j, op, o) =>
       let r (n : Nat) : Rep := { rj vLANEFORMAT i with lane := some (lp, j, n) }
       [((op == 0x28 || op == 0x2C) && bitN o.imm8 0 && decide (partsOfFmt (tf o) ≤ o.part), r 6), (o.ty != b2n (fmtIsInt (tf o)), r 8)])).flatten,
     us.map (fun u => let t := x.tw i u.1
                      (decide (3 < TV.space t) || !(foldN t == rows || foldN t == 1) || (u.2.writes && foldN t != rows), x.rjT vSHAPE i u.1)) ++
     streams.map (fun (_, op, o) => let t := x.tw i o.stream
                                    (if op == 0x29 || op == 0x2D then decide (dimN t 0 ≤ o.imm8) else dimN t 0 != dimN (x.tw i 0) 0, x.rjT vSHAPE i o.stream)))

def ckSample (x : VX) (i : Nat) : Chk × Chk × Chk :=
  let w := x.p.descs.getD i []
  let mode := wfld (wAt w 12) 1 0
  let kmax := wfld (wAt w 13) 15 0
  let t (k : Nat) := x.tw i k
  let rows := foldN (t 0)
  let lp := x.ti i 3 != 0
  let out (k : Nat) : Bool := TV.rank (t k) != 1 || dimN (t k) 0 != rows
  ([(decide (1 < mode) || (if mode == 0 then kmax != 0 else !between kmax 1 1024), rj vPARAM i), (shareBad (wAt w 14), rj vPARAM i)],
   [(!([0, 1, 2].contains (TV.fmt (t 0))), x.rjT vFORMAT i 0), (TV.fmt (t 2) != 11, x.rjT vFORMAT i 2), (lp && TV.fmt (t 3) != 0, x.rjT vFORMAT i 3)],
   [(out 2, x.rjT vSHAPE i 2), (lp && out 3, x.rjT vSHAPE i 3),
    (decide (3 < TV.space (t 0)) || (mode == 1 && (TV.bsrc (t 0) != 1 || TV.bdim (t 0) == 0 || rows != dimN (t 0) (TV.bdim (t 0)))), x.rjT vSHAPE i 0)])

/-- Widths by which key-value formats rank (R93). -/
def kvWidth : Nat → Option Nat | 8 => some 4 | 3 => some 8 | 4 => some 8 | 1 => some 16 | _ => none

def sealCovers (w : List Word) (layer : Nat) : Bool :=
  let lf := wfld (wAt w 12) 7 0
  decide (lf ≤ layer) && decide (layer < lf + wfld (wAt w 12) 15 8)

/-- A declaration narrower than what is sealed. -/
def kvClash (att sl : List Word) : Bool :=
  sealCovers sl (wfld (wAt att 12) 7 0) &&
  (match kvWidth (wfld (wAt sl 12) 23 16), kvWidth (wfld (wAt att 12) 23 16) with | some a, some b => decide (b < a) | _, _ => false)

def isAtt (w : List Word) : Bool := descOp w == 0x02 || descOp w == 0x03

/-- Bytes of the partial area of an ATTN_DECODE (Table 07.7). -/
def scrLen (x : VX) (i : Nat) : Nat :=
  let a := (x.cx i).att
  dimN (x.tw i 0) 2 * a.kvh * a.nparts * a.kk * a.recsz

/-- A clash is reported by the descriptor of the pair that stands first in the table, the other as DINDEX2 (log entry 44). -/
def pcClash (x : VX) (i : Nat) (f : List Word → List Word → Bool) : Chk :=
  x.p.descs.zipIdx.map (fun (v, k) => (f (x.p.descs.getD i []) v, { rj vKVFMT i with dindex2 := some k }))

def ckAttn (x : VX) (i : Nat) : Chk × Chk × Chk × Chk :=
  let w := x.p.descs.getD i []
  let dec := descOp w == 0x03
  let p12 := wAt w 12
  let (qh, kvh, hd) := (wfld (wAt w 13) 7 0, wfld (wAt w 13) 15 8, wfld (wAt w 13) 31 16)
  let crema := dec && !wbit p12 12
  let nsplit := wfld (wAt w 17) 4 0
  let scr := wfld (wAt w 16) 25 0
  let t (k : Nat) := x.tw i k
  let g := x.j.cfg
  let ok := kvh != 0 && qh % max kvh 1 == 0 && hd % 64 == 0 && between hd 64 256
  let rs := (x.cx i).att.recsz
  let qo (k heads b : Nat) : Bool := TV.rank (t k) != 3 || (TV.dims (t k)).take 2 != [hd, heads] || !boundTo (t k) b 2
  let b := if dec then 3 else 2
  let qf := if crema then [1, 3, 4] else [1, 2, 3, 4]
  ([(wfld p12 9 8 == 3, rj vPARAM i), (crema && nsplit != 0, rj vPARAM i),
    (dec && !crema && (!between nsplit 1 16 || (decide (1 < nsplit) && (descCores w).length != nsplit)), rj vPARAM i),
    (dec && shareBad (wAt w 18), rj vPARAM i), (!dec && decide (0x3C0000 < scr), rj vPARAM i),
    (dec && ok && TV.rank (t 0) == 3 && decide (0x2000000 < scr + scrLen x i), rj vPARAM i)],
   [(!qf.contains (TV.fmt (t 0)), x.rjT vFORMAT i 0), (!dec && !([1, 2, 3, 4].contains (TV.fmt (t 1))), x.rjT vFORMAT i 1),
    (!([0, 1].contains (TV.fmt (t 2))), x.rjT vFORMAT i 2), (dec && TV.fmt (t 3) != 12, x.rjT vFORMAT i 3)],
   [(!ok || (wfld p12 9 8 == 1) != (wAt w 14 != 0#32), rj vSHAPE i),
    (kvh != g.kvHeads || hd != g.hDim || decide (g.layers ≤ wfld p12 7 0), rj vSHAPE i),
    (qo 0 qh b || (dec && !([0, 2, 3].contains (TV.space (t 0)))), x.rjT vSHAPE i 0),
    (!dec && qo 1 (2 * kvh) 2, x.rjT vSHAPE i 1),
    (qo 2 qh b || (dec && !([0, 2, 3].contains (TV.space (t 2)))) || dimN (t 2) 2 != dimN (t 0) 2, x.rjT vSHAPE i 2),
    (dec && (TV.rank (t 3) != 1 || TV.space (t 3) != 2 || TV.part (t 3) != descPart w || dimN (t 3) 0 % max rs 1 != 0 || decide (dimN (t 3) 0 < 64 * rs)),
      x.rjT vSHAPE i 3)],
   ((kvWidth (wfld p12 23 16)).isNone, rj vKVFMT i) :: pcClash x i (fun w v => descOp v == 0x05 && kvClash w v))

def ckAppend (x : VX) (i : Nat) : Chk × Chk × Chk :=
  let w := x.p.descs.getD i []
  let kvh := wfld (wAt w 13) 7 0
  let hd := wfld (wAt w 13) 31 16
  let g := x.j.cfg
  let t (k : Nat) := x.tw i k
  let bad (k : Nat) : Bool := !([0, 2, 3].contains (TV.space (t k))) || TV.rank (t k) != 3 || (TV.dims (t k)).take 2 != [hd, kvh] || !boundTo (t k) 2 2
  ([(shareBad (wAt w 14), rj vPARAM i)],
   [(!([1, 2, 3, 4].contains (TV.fmt (t 0))), x.rjT vFORMAT i 0), (!([1, 2, 3, 4].contains (TV.fmt (t 1))), x.rjT vFORMAT i 1)],
   [(bad 0, x.rjT vSHAPE i 0), (bad 1, x.rjT vSHAPE i 1), (kvh != g.kvHeads || hd != g.hDim || decide (g.layers ≤ wfld (wAt w 12) 7 0), rj vSHAPE i)])

/-- Bytes an instance of KV_SEAL stages (R155). -/
def sealStage (g : JobCfg) : Nat := 2 * g.pair

def ckSeal (x : VX) (i : Nat) : Chk × Chk × Chk × Chk :=
  let w := x.p.descs.getD i []
  let lf := wfld (wAt w 12) 7 0
  let lc := wfld (wAt w 12) 15 8
  let f := wfld (wAt w 12) 23 16
  let g := x.j.cfg
  ([(lc == 0 || !([1, 3, 4].contains f), rj vPARAM i), (shareBad (wAt w 14), rj vPARAM i),
    (decide (0x2000000 < wfld (wAt w 13) 24 0 + (descCores w).length * sealStage g), rj vPARAM i)],
   [], [(f != g.sFmt || decide (g.layers < lf + lc), rj vSHAPE i)],
   (decide (256 < lf + lc), rj vKVFMT i) :: pcClash x i (fun w v => isAtt v && kvClash v w))

def accDst (x : VX) (i : Nat) : Chk :=
  [(wbit (wAt (x.p.descs.getD i []) 0) 18 && !([0, 1, 2, 11].contains (TV.fmt (x.tw i 2))), x.rjT vFORMAT i 2)]

def permOf (w : List Word) (k : Nat) : Nat := fld (wfld (wAt w 12) 14 0) (3 * k + 2) (3 * k)

def ckMove (x : VX) (i : Nat) : Chk × Chk × Chk :=
  let w := x.p.descs.getD i []
  let src := x.tw i 0
  let dst := x.tw i 2
  ([(!(List.range 5).all (fun v => (List.range 5).any (fun k => permOf w k == v)), rj vPARAM i)],
   accDst x i ++ [(permOf w 0 != 0 && (fmtIsMx (TV.fmt src) || TV.fmt src == 10), x.rjT vFORMAT i 0)],
   (List.range 5).map (fun k =>
     let (dl, dh, db) := extOf dst k
     let (sl, sh, sb) := extOf src (permOf w k)
     let same := dl == sl && dh == sh && (dl == dh || db == sb)
     (!same && ((decide (sl < dh) && !TV.pad src) || (decide (dl < sh) && !TV.pad dst)), rj vSHAPE i)))

def ckGs (x : VX) (i : Nat) : Chk × Chk × Chk :=
  let w := x.p.descs.getD i []
  let a := wfld (wAt w 12) 2 0
  let t (k : Nat) := x.tw i k
  let f (k : Nat) : Bool := fmtIsMx (TV.fmt (t k)) || (TV.fmt (t k) == 10 && a == 0)
  let sel := if descOp w == 0x11 then t 2 else t 0
  ([(decide (TV.rank (t 0) ≤ a) || wfld (wAt w 12) 5 4 == 3, rj vPARAM i)],
   accDst x i ++ [(f 0, x.rjT vFORMAT i 0), (f 2, x.rjT vFORMAT i 2), (TV.fmt (t 1) != 11, x.rjT vFORMAT i 1)],
   [(TV.rank (t 1) != 1 || !([0, 2, 3].contains (TV.space (t 1))) || TV.rank (t 2) != TV.rank (t 0) ||
     (List.range 5).any (fun k => k != a && dimN (t 2) k != dimN (t 0) k) || dimN sel a != dimN (t 1) 0, rj vSHAPE i)])

def ckCodec (x : VX) (i : Nat) : Chk × Chk × Chk :=
  let t (k : Nat) := x.tw i k
  let same := TV.fmt (t 2) == TV.fmt (t 0) && TV.dims (t 2) == TV.dims (t 0)
  let srcBad := TV.comp (t 0) || !denseW (t 0) || decide (3 < TV.space (t 0))
  match descOp (x.p.descs.getD i []) with
  | 0x14 => ([], [(TV.fmt (t 2) != 12, x.rjT vFORMAT i 2)],
      [(srcBad, x.rjT vSHAPE i 0), (TV.rank (t 2) != 1 || dimN (t 2) 0 != 256 || TV.space (t 2) != 0, x.rjT vSHAPE i 2)])
  | 0x15 => ([], [], [(srcBad, x.rjT vSHAPE i 0), (!same, x.rjT vSHAPE i 2)])
  | _ => ([], [], [(!same || decide (3 < TV.space (t 2)) || (TV.fmt (t 2) == 10 && !denseW (t 2)), x.rjT vSHAPE i 2)])

/-! Crema (R241 to R244, R249). -/

/-- Does a tensor have the shape of a memory operand; `fp32` when it may be FP32 (written only by STORE)? -/
def memOperandOk (w : List Word) (fp32 : Bool) : Bool :=
  let f := TV.fmt w
  TV.space w == 1 && ([1, 3, 4, 8].contains f || (fp32 && f == 0)) && dimN w 0 == 64 && TV.stride w 0 == 1 && TV.base w % 64 == 0 &&
  (fmtIsMx f || (List.range (TV.rank w)).all (fun k => k == 0 || dimN w k == 1 || (TV.stride w k * (fmtBits f : Int)) % 512 == 0))

def rowsN (w : List Word) : Nat := foldN w

/-- FN codes of Table 10.3. -/
def fnOk (op fn : Nat) : Bool :=
  match op with
  | 0 => fn == 0 | 1 => fn ≤ 6 | 2 => fn ≤ 10 | 3 => fn ≤ 6 | 4 => fn < 8 && fn % 4 ≤ 2 | 5 => fn == 0 | 6 => fn ≤ 1 | _ => false

/-- Bits that Table 10.2 does not name. -/
def cmdReserved (w : List Word) : Bool :=
  wfld (wAt w 0) 31 20 != 0 || [1, 2].any (fun k => wfld (wAt w k) 31 27 != 0 || wfld (wAt w k) 15 11 != 0) || wfld (wAt w 3) 31 24 != 0 ||
  wfld (wAt w 5) 31 16 != 0 || wAt w 7 != 0#32

/-- Role of operand k of a sequence: named by STREAM or STORE, as scalars, by EMIT. -/
def roleMem (ws : List (List Word)) (k : Nat) : Bool := ws.any (fun c => (cwOp c == 1 || cwOp c == 5) && cwOpnd c == k)
def roleX (ws : List (List Word)) (k : Nat) : Bool := ws.any (fun c => usesX c && cwX c == k)
def roleEmit (ws : List (List Word)) (k : Nat) : Bool := ws.any (fun c => cwOp c == 6 && cwOpnd c == k)
def isRecord (c : List Word) : Bool := cwOp c == 6 && cwFn c == 1

/-- Some check of R244 fails for a command. -/
def cmdBad (x : VX) (i : Nat) (ws : List (List Word)) (c : List Word) : Bool :=
  let q := cremaCmdOf (x.cx i) (wfld (wAt (x.p.descs.getD i []) 15) 10 0) 0 [] c
  let t := x.tw i (cwOpnd c)
  let xt := x.tw i (cwX c)
  let grp := wfld (wAt c 5) 15 0
  let lo := wfld (wAt c 6) 6 0
  let hi := wfld (wAt c 6) 14 8
  let _ := ws
  !fnOk q.op q.fn || cmdReserved c || (q.np != 0 && q.op != 1 && !isRecord c) || (q.stepd && q.op != 1) ||
  (q.op != 0 && q.count == 0) || (q.op == 1 && (q.fn == 2 || q.fn == 3) && q.np != 0) ||
  (rowsRead q ++ rowsWritten q).any (fun r => decide (1536 < r.1 + r.2)) ||
  ((q.op == 1 || q.op == 5) && TV.space t != 1) || (q.op == 6 && TV.space t != 2) || (usesX c && !([0, 2, 3].contains (TV.space xt))) ||
  ((q.op == 1 || q.op == 5 || (q.op == 6 && q.fn == 0)) && decide (rowsN t < q.mrow + q.count)) ||
  (isRecord c && decide (elemsMax t < 64 * q.mrow + roundUp ((q.np + 1) * (8 + 256 * grp)) 64)) ||
  (usesX c && decide (elemsMax xt < q.xoff + q.count * (q.np + 1))) ||
  (q.op == 2 && q.fn == 10 && (lo == 0 || hi == 0 || decide (hi < lo) || decide (64 < hi))) ||
  (((q.op == 4 && q.fn % 4 == 2) || isRecord c) && grp == 0)

/-- Bytes of the preloads, each from the end of the one before rounded up to 64 B (R242). -/
def preloadBytes (x : VX) (i : Nat) (ws : List (List Word)) : Nat :=
  (preloads (x.cx i) ws).foldl (fun a k => roundUp a 64 + elemsMax (x.tw i k) * fmtBits (TV.fmt (x.tw i k)) / 8) 0

def ckCremaSeq (x : VX) (i : Nat) : Chk × Chk × Chk :=
  let ws := x.ws i
  let streamed (k : Nat) : Bool := ws.any (fun c => cwOp c == 1 && cwOpnd c == k)
  let stored (k : Nat) : Bool := ws.any (fun c => cwOp c == 5 && cwOpnd c == k)
  let slots := seqSlots ws
  let operBad (k : Nat) : Bool :=
    let t := x.tw i k
    match TV.space t with
    | 1 => !memOperandOk t (!streamed k)
    | 4 => true
    | sp =>
      if roleEmit ws k then
        sp == 2 && ((ws.any (fun c => isRecord c && cwOpnd c == k) && TV.fmt t != 12) ||
          (ws.any (fun c => cwOp c == 6 && cwFn c == 0 && cwOpnd c == k) && (dimN t 0 != 64 || !([0, 1].contains (TV.fmt t)))))
      else !([1, 3, 4].contains (TV.fmt t))
  ([(!between (wfld (wAt (x.p.descs.getD i []) 14) 15 0) 1 4096, rj vPARAM i),
    (decide (1535 < wfld (wAt (x.p.descs.getD i []) 15) 10 0), rj vPARAM i),
    (slots.any (fun k => roleEmit ws k && roleX ws k), rj vPARAM i), (ws.any (cmdBad x i ws), rj vPARAM i)],
   slots.map (fun k => (stored k && fmtIsMx (TV.fmt (x.tw i k)), x.rjT vFORMAT i k)), slots.map (fun k => (operBad k, x.rjT vSHAPE i k)) ++ [(decide (65536 < preloadBytes x i ws), rj vSHAPE i)])

def ckCremaGemv (x : VX) (i : Nat) : Chk × Chk × Chk :=
  let w := x.p.descs.getD i []
  let nv := wfld (wAt w 12) 3 0
  let t (k : Nat) := x.tw i k
  let nt := dimN (t 0) 2
  let units := (x.cx i).pcset.length
  let sl := dimN (t 1) 2
  ([(!between nv 1 8 || decide (1536 < wfld (wAt w 13) 10 0 + nv * nt), rj vPARAM i)], [],
   [(!memOperandOk (t 0) false || TV.rank (t 0) != 3, x.rjT vSHAPE i 0),
    (!([1, 3, 4].contains (TV.fmt (t 1))) || !([0, 2, 3].contains (TV.space (t 1))) || (TV.dims (t 1)).take 2 != [dimN (t 0) 1, nv] ||
      units % max sl 1 != 0, x.rjT vSHAPE i 1),
    (!([0, 1].contains (TV.fmt (t 2))) || TV.space (t 2) != 2 || (TV.dims (t 2)).take 3 != [64 * nt, nv, units], x.rjT vSHAPE i 2)])

def ckAtomic (x : VX) (i : Nat) : Chk × Chk × Chk :=
  let w := x.p.descs.getD i []
  let op := wfld (wAt w 12) 3 0
  let t (k : Nat) := x.tw i k
  let one (k : Nat) : Bool := TV.rank (t k) == 1 && dimN (t k) 0 == 1
  ([(decide (6 < op), rj vPARAM i)],
   [(!([0, 11].contains (TV.fmt (t 0))) || (decide (5 ≤ op) && TV.fmt (t 0) != 11), x.rjT vFORMAT i 0)],
   [(!one 0 || !([0, 2].contains (TV.space (t 0))), x.rjT vSHAPE i 0),
    (wbit (wAt w 12) 8 && (!one 2 || TV.fmt (t 2) != TV.fmt (t 0) || !([0, 2, 3].contains (TV.space (t 2)))), x.rjT vSHAPE i 2)])

def ckWatch (x : VX) (i : Nat) : Chk :=
  let m := wAt (x.p.descs.getD i []) 13
  [(wfld m 1 0 == 3 || decide (9 < wfld m 7 4) || (decide (wfld m 1 0 ≤ 1) && wfld m 7 4 != 0), rj vPARAM i)]

/-- The checks of an opcode's chapter: PARAM, FORMAT, SHAPE, KVFMT. -/
def opChecks (x : VX) (i : Nat) : Chk :=
  let cat (c : Chk × Chk × Chk) : Chk := c.1 ++ c.2.1 ++ c.2.2
  let cat4 (c : Chk × Chk × Chk × Chk) : Chk := c.1 ++ c.2.1 ++ c.2.2.1 ++ c.2.2.2
  let w := x.p.descs.getD i []
  match descOp w with
  | 0x01 => cat (ckMatmul x i)
  | 0x02 => cat4 (ckAttn x i)
  | 0x03 => cat4 (ckAttn x i)
  | 0x04 => cat (ckAppend x i)
  | 0x05 => cat4 (ckSeal x i)
  | 0x08 => cat (ckVlane x i)
  | 0x09 => cat (ckSample x i)
  | 0x0A => cat (ckSteer x i)
  | 0x10 => cat (ckMove x i)
  | 0x11 => cat (ckGs x i)
  | 0x12 => cat (ckGs x i)
  | 0x14 => cat (ckCodec x i)
  | 0x15 => cat (ckCodec x i)
  | 0x16 => cat (ckCodec x i)
  | 0x18 => cat (ckCremaSeq x i)
  | 0x19 => cat (ckCremaGemv x i)
  | 0x22 => [(!wbit (wAt w 12) 9 && !wbit (wAt w 12) 8 && wfld (wAt w 12) 3 0 == 0, rj vPARAM i)]
  | 0x24 => cat (ckAtomic x i)
  | 0x30 => ckWatch x i
  | _ => []

/-- R56. -/
def idBad (x : VX) (i : Nat) : Bool :=
  let ds := x.p.descs
  let w := ds.getD i []
  let id := wAt w 1
  let ids := (List.range 6).map (fun k => wAt w (2 + k))
  let nd := min (wfld (wAt w 0) 14 12) 6
  let used := ids.take nd
  id == 0xFFFFFFFF#32 || (decide (1 ≤ i) && decide (id.toNat ≤ nAt (ds.getD (i - 1) []) 1)) || used.dedup.length != nd ||
  used.any (fun p => p == 0xFFFFFFFF#32 || !(ds.take i).any (fun v => wAt v 1 == p)) || (ids.drop nd).any (· != 0xFFFFFFFF#32)

/-- The flag words of a descriptor. -/
def flagWords (w : List Word) : List Word := wAt w 10 :: (if descOp w == 0x20 || descOp w == 0x21 then [wAt w 12] else [])

def refBad (x : VX) (i : Nat) : Bool :=
  let w := x.p.descs.getD i []
  let op := descOp w
  let us := (x.uses i).map Prod.fst
  if op == 0x08 && x.p.lanes.length ≤ lprogIdx w then false
  else (List.range 4).any (fun k =>
    let t := slotOf_ w k
    if us.contains k then decide (x.p.tens.length ≤ t) else t != 0 && !(looseSlots op).contains k)

def placeBad (x : VX) (i : Nat) : Bool :=
  let w := x.p.descs.getD i []
  let op := descOp w
  let ps := wfld (wAt w 11) 31 20
  let crema := op == 0x18 || op == 0x19 || (op == 0x03 && !wbit (wAt w 12) 12)
  let cores := descCores w
  !x.j.parts.contains (descPart w) || cores.isEmpty || (decide (1 < cores.length) && !(match opInfo op with | some o => o.split | none => false)) ||
  ((ps != 0) != crema) || (decide (2 ≤ ps) && decide (x.p.pcsets.length ≤ ps - 2)) || !(x.cx i).pcset.all (fun pc => x.j.parts.contains (pc % 16))

def watchBad (x : VX) (i : Nat) : Bool :=
  let ds := x.p.descs
  let w := ds.getD i []
  (descOp w == 0x30 && !((descPreds w).contains (wAt w 12) && ds.any (fun v => wAt v 1 == wAt w 12 && wbit (wAt v 0) 15))) ||
  (wbit (wAt w 0) 15 && !ds.any (fun v => descOp v == 0x30 && wAt v 12 == wAt w 1))

def stepEndBad (x : VX) (i : Nat) : Bool :=
  let w := x.p.descs.getD i []
  let last := i + 1 == x.p.descs.length
  ((descOp w == 0x3F) != last) || (last && (wfld (wAt w 0) 14 12 != 0 || (descCores w).length != 1 || descPart w != x.lead))

def descCheck (x : VX) (i : Nat) : Option Rep :=
  let w := x.p.descs.getD i []
  let op := descOp w
  let fws := flagWords w
  let r := rj
  let badFlag (c : Nat) (f : Word → Bool) : Chk := fws.map (fun v => (f v, { r c i with flag := v }))
  match firstBad ([
    (idBad x i, r vID i), ((match opInfo op with | some o => !o.engines.contains (descEngine w) | none => true), r vOPCODE i),
    (descReserved w, r vRESERVED i)] ++ badFlag vRESERVED (fun f => wbit f 31 && wfld f 30 12 != 0) ++
    [(refBad x i, r vTENSORREF i), (placeBad x i, r vPLACEMENT i), (wfld (wAt w 0) 14 12 == 7, r vPARAM i)] ++
    badFlag vPARAM (fun f => !wbit f 31 && f != 0#32) ++
    [((op == 0x20 || op == 0x21) && !wbit (wAt w 12) 31, { r vPARAM i with flag := wAt w 12 }),
     (wbit (wAt w 0) 18 && !([0x10, 0x11, 0x12].contains op), r vPARAM i)]) with
  | some z => some z
  | none => firstBad (opChecks x i ++ [(watchBad x i, r vWATCH i), (stepEndBad x i, r vSTEPEND i)])

def phase4 (x : VX) : Option Rep := (List.range x.p.descs.length).findSome? (descCheck x)

/-! Phase 5 (R89, R90). -/

def waitCheck (p : Prog) (g : List (List Nat)) (i : Nat) : Option Rep :=
  let ds := p.descs
  let w := ds.getD i []
  match waitsFlag w with
  | none => none
  | some f =>
    let r (c : Nat) : Rep := { code := c, phase := 5, dindex := some i, flag := wAt w 12 }
    let setters := (List.range ds.length).filter (fun k => setsFlag (ds.getD k []) f)
    let waits := (List.range ds.length).filter (fun k => waitsFlag (ds.getD k []) == some f)
    if setters.isEmpty then some (r vNOSET)
    else if decide (1 < waits.length) && waits.any (fun k => wbit (wAt (ds.getD k []) 14) 0) then some { r vCONSUME with dindex2 := waits.find? (· != i) }
    else match setters.find? (fun k => k == i || reaches_ g i k) with
      | some k => some { r vDEADLOCK with dindex2 := some k }
      | none => none

def phase5 (p : Prog) : Option Rep :=
  let g := graphOf p.descs true
  (List.range p.descs.length).findSome? (waitCheck p g)

/-! Phase 6 (R65, R86, R88, R111, R155, R175, R176, R185, R205, R244). -/

/-- A byte range a descriptor touches: space (0 stacks, 2 and 3 of a partition, 4 an aperture, 5 a core's accumulator rows, 6 a unit's), the
slot it comes from if any. -/
structure Span where
  space : Nat
  inst : Nat
  lo : Int
  hi : Int
  use : Use
  slot : Option Nat := none
  deriving DecidableEq, Repr

def spanKey (w : List Word) (part : Nat) : Nat × Nat :=
  match TV.space w with
  | 0 => (0, 0) | 1 => (0, 0) | 4 => (4, 16 * part + TV.part w) | sp => (sp, TV.part w)

def tensorSpans (x : VX) (i : Nat) : List Span :=
  let part := descPart (x.p.descs.getD i [])
  ((x.uses i).map (fun (k, u) =>
    let w := x.tw i k
    let (lo, hi) := reachOf w
    let base : Int := if TV.irel w then x.p.image + x.p.constOff else 0
    let (sp, inst) := spanKey w part
    let own := match cremaUnits x i k with
      | some ds => ds.map (fun d => (⟨sp, inst, lo + d, hi + d, u, some k⟩ : Span))
      | none => [⟨sp, inst, base + lo, base + hi, u, some k⟩]
    let e := codecEntry x.p w
    let a : Int := nAt e 0 + wfld (wAt e 1) 15 0 * 2 ^ 32
    own ++ (if TV.comp w && !wbit (wAt e 1) 31 then [⟨0, 0, a, a + 255, .r, none⟩] else []))).flatten

/-- Rows as a range of 512 or 256 B each. -/
def rowSpan (space inst first n bytes : Nat) (u : Use) : Span := ⟨space, inst, first * bytes, (first + n) * bytes - 1, u, none⟩

/-- Accumulator rows, files and staging areas (R111, R155, R176, R244, Table 07.7). -/
def areaSpans (x : VX) (i : Nat) : List Span :=
  let c := x.cx i
  let w := c.w
  let cores := c.cores.map (fun k => 16 * c.part + k)
  match descOp w with
  | 0x01 => cores.map (fun k => rowSpan 5 k c.mm.accRow (mmRun c) 512 (if c.mm.accin then .rw else .w))
  | 0x0A => cores.map (fun k => rowSpan 5 k (wfld (wAt w 13) 10 0) (steerRun x i) 512 .w)
  | 0x08 =>
    let l := x.p.lanes.getD (lprogIdx w) []
    if wbit (wAt l 0) 17 then cores.map (fun k => rowSpan 5 k (wfld (wAt l 1) 10 0) (accTop x i l - wfld (wAt l 1) 10 0) 512 .r) else []
  | 0x05 => [⟨2, c.part, wfld (wAt w 13) 24 0, wfld (wAt w 13) 24 0 + c.cores.length * sealStage x.j.cfg - 1, .w, none⟩]
  | 0x02 => c.cores.map (fun k => (⟨3, c.part, k * 0x400000 + wfld (wAt w 16) 25 0, k * 0x400000 + wfld (wAt w 16) 25 0 + 0x3FFFF, .w, none⟩ : Span)) ++
      cores.map (fun k => rowSpan 5 k 1536 512 512 .w)
  | 0x03 => ⟨2, c.part, wfld (wAt w 16) 25 0, wfld (wAt w 16) 25 0 + scrLen x i - 1, .w, none⟩ :: c.pcset.map (fun pc => rowSpan 6 pc 0 1136 256 .w)
  | 0x18 =>
    let q := (x.ws i).map (cremaCmdOf c (wfld (wAt w 15) 10 0) 0 [])
    (c.pcset.map (fun pc => (q.map (fun m => (rowsRead m).map (fun r => rowSpan 6 pc r.1 r.2 256 .r) ++
      (rowsWritten m).map (fun r => rowSpan 6 pc r.1 r.2 256 .w))).flatten)).flatten
  | 0x19 => c.pcset.map (fun pc => rowSpan 6 pc (wfld (wAt w 13) 10 0) (wfld (wAt w 12) 3 0 * dimN (x.tw i 0) 2) 256 .w)
  | _ => []

def Span.meets (a b : Span) : Bool :=
  a.space == b.space && a.inst == b.inst && (a.use.writes || b.use.writes) && decide (a.lo ≤ b.hi) && decide (b.lo ≤ a.hi) &&
  decide (a.lo ≤ a.hi) && decide (b.lo ≤ b.hi)

/-- Share word of an opcode that has one (R65). -/
def shareWord (w : List Word) : Option Word := match descOp w with | 0x03 => some (wAt w 18) | 0x09 => some (wAt w 14) | _ => none

/-- Is a span indexed by work unit: ATTN_DECODE's T0, T2 and partial area, SAMPLE's T0, T2 and T3 (R65)? -/
def unitSpan (op : Nat) (a : Span) : Bool :=
  match op, a.slot with
  | 0x03, some k => k == 0 || k == 2
  | 0x03, none => a.space == 2
  | 0x09, some k => k == 0 || k == 2 || k == 3
  | _, _ => false

def shareExempt (v w : List Word) (a b : Span) : Bool :=
  descOp v == descOp w && unitSpan (descOp v) a && unitSpan (descOp w) b &&
  (match shareWord v, shareWord w with
   | some p, some q => decide (2 ≤ wfld p 4 0) && wfld p 4 0 == wfld q 4 0 && wfld p 11 8 != wfld q 11 8
   | _, _ => false)

/-- Spans of a descriptor for R88; ATOMIC targets are exempt. -/
def spansOf (x : VX) (i : Nat) : List Span :=
  (tensorSpans x i ++ areaSpans x i).filter (fun a => !(descOp (x.p.descs.getD i []) == 0x24 && a.slot == some 0))

/-- The first meeting pair of spans of two descriptors. -/
def meeting (x : VX) (sp : List (List Span)) (a b : Nat) : Option (Span × Span) :=
  let v := x.p.descs.getD a []
  let w := x.p.descs.getD b []
  (sp.getD a []).findSome? (fun u => ((sp.getD b []).find? (fun z => u.meets z && !shareExempt v w u z)).map (fun z => (u, z)))

/-- Candidate pairs of R88, in table order: a pair of descriptors counts once, however many of their ranges meet and whether or not they are
ordered (log entry 144). -/
def candidates (x : VX) : List (Nat × Nat × Span × Span) :=
  let n := x.p.descs.length
  let sp := (List.range n).map (spansOf x)
  ((List.range n).map (fun a => (List.range n).filterMap (fun b =>
    if a < b then (meeting x sp a b).map (fun m => (a, b, m.1, m.2)) else none))).flatten

/-- R86 and R185 for one descriptor. -/
def selfCheck (x : VX) (i : Nat) : Option Rep :=
  let w := x.p.descs.getD i []
  let r (c : Nat) : Rep := { code := c, phase := 6, dindex := some i }
  let us := x.uses i
  match us.find? (fun u => u.2.writes && !wbit (wAt w 0) 18 && collides (x.tw i u.1)) with
  | some u => some { r vDSTCOLLIDE with tindex := some (x.ti i u.1) }
  | none =>
    if !([0x10, 0x11, 0x12].contains (descOp w)) then none
    else
      let sp := tensorSpans x i
      let dst := sp.filter (fun a => a.slot == some 2)
      dst.findSome? (fun a => (sp.find? (fun b => b.slot.isSome && b.slot != some 2 && a.meets b)).map (fun b =>
        { r vOVERLAP with dindex2 := some i, tindex := some (x.ti i 2), tindex2 := b.slot.map (x.ti i) }))

/-- An unordered candidate pair (R88). -/
def pairCheck (x : VX) (h : List (List Nat)) : Nat × Nat × Span × Span → Option Rep
  | (a, b, u, z) =>
    if reaches_ h a b || reaches_ h b a then none
    else some { code := vOVERLAP, phase := 6, dindex := some a, dindex2 := some b, tindex := u.slot.map (x.ti a), tindex2 := z.slot.map (x.ti b) }

/-- Phase 6 with the number of candidate pairs: descriptors in table order, each with its own checks and then its pairs with later ones. With too
many candidates no pair is tested (log entry 44). -/
def phase6 (x : VX) : Option Rep × Nat :=
  let n := x.p.descs.length
  let cs := candidates x
  if 4194304 < cs.length then (((List.range n).findSome? (selfCheck x)).or (some { code := vCOMPLEX, phase := 6 }), cs.length)
  else
    let h := graphOf x.p.descs false
    ((List.range n).findSome? (fun i => (selfCheck x i).or ((cs.filter (·.1 == i)).findSome? (pairCheck x h))), cs.length)

/-! The whole verification (R83). -/

/-- The report's contents, the verified program if it is accepted (with `id`), and the number of candidate pairs. -/
def verify (s : State) (lead : Nat) (j : Job) (w : List Word) (id : Word) : Rep × Option Prog × Nat :=
  let img := if imageRead s j w && reqSize w ≤ 150994944 then peek s (reqImage w) (reqSize w) else []
  match phase1 s j w img with
  | some r => (r, none, 0)
  | none =>
    let p := parseImage id (reqImage w) img
    let x : VX := { s := s, j := j, lead := lead, p := p, img := img, seqs := p.descs.map (seqOf p img) }
    match phase2 p with
    | some r => (r, none, 0)
    | none => match phase3 x with
      | some r => (r, none, 0)
      | none => match phase4 x with
        | some r => (r, none, 0)
        | none => match phase5 p with
          | some r => (r, none, 0)
          | none => match phase6 x with
            | (some r, n) => (r, none, n)
            | (none, n) => ({ code := 0, phase := 0, program := id }, some p, n)

end Sys2Proof.Machine
end

