-- ==== Sys2Proof/Machine/Loader.lean ====
section
/-! DEFINITION. The loader's queue (R80 to R83, R94): posting a request, serving a load, serving an unload (R53); and truncated runs
(R95 to R98). -/

namespace Sys2Proof.Machine

/-- Device firmware runs (MGT_FWSTATE 1 starting, 2 running, 5 writing the image slot). -/
def fwUp (s : State) : Bool := let x := regF s .mgt 0 0 3 0; (x == 1 || x == 2 || x == 5) && !s.fatal

/-- Write a report and tell the lead partition (Table 04.2, Table 14.8). -/
def State.report (s : State) (lead : Nat) (w : List Word) (bs : List Byte) : State := (s.poke (reqReport w) bs).msiPart lead 3

/-- Post a request: an accepted load protects its image; a 17th request is refused unexamined (R81, R82). -/
def State.postLoad (s : State) (lead : Nat) (j : Job) (w : List Word) : State :=
  if 16 ≤ s.fw.loadq.length then
    (((s.markRC .prt lead 0x028 0).msiPart lead 4).hostViol 8).report lead w (wordsBytes (0x9101#32 :: List.replicate 7 0#32))
  else
    let sized : Bool := !reqUnload w && imageRead s j w
    { s with fw := { s.fw with loadq := s.fw.loadq ++ [⟨lead, w, reqImage w, if sized then reqSize w else 0⟩] } }

/-- What the loader's commands can change beside what a descriptor's can: the queue of requests. -/
def touchLoad (s t : State) : State := { touchDesc s t with fw := { s.fw with protDrops := t.fw.protDrops, sealedR := t.fw.sealedR, loadq := t.fw.loadq } }

/-- PRT_LOADDB: device firmware reads the record (R80, R220) and the job may wake (Table 16.10). With no job, or a record the job may not read, nothing is
posted and no report is written (log entry 103). -/
def execPrtLoaddb (cls : RClass) (p : Nat) (s : State) : Host.Outcome State Fault Refusal :=
  .next (if !reaches s cls p || !isLead s p then s
    else match job? s p with
      | none => s
      | some j =>
        let a := argOf s cls p
        let s' := (s.fnFlush cls).wakeJob p
        touchLoad s (if jobReads s j a 32 then (s'.seen a 32).postLoad p j (bytesWords 8 (peek s' a 32)) else s'))

/-- A nonzero ID that no loaded program has. -/
def freshProgram (s : State) : Word :=
  let ids := (s.jobs.map (fun (_, j) => j.progs.map (·.id))).flatten
  let c (k : Nat) : Word := Config.programId s.free + BitVec.ofNat 32 k
  match (List.range (ids.length + 2)).find? (fun k => c k != 0#32 && !ids.contains (c k)) with
  | some k => c k
  | none => 1#32

/-- The bound of R94 in microseconds. -/
def verifyBound (h : List Word) (size pairs : Nat) : Nat :=
  2000 + size / 1000 + 6 * hField h 4 / 10 + 4 * hField h 5 / 10 + 2 * hCount13 h 6 + 5 * pairs / 100

/-- The load at the head of the queue is verified: its program is taken over by the job, or the report names the first violation. -/
def State.serveLoad (s : State) (q : LoadReq) (rest : List LoadReq) : State :=
  let j := jobD s q.lead
  let (r, p, n) := verify s q.lead j q.words (freshProgram s)
  let h := if q.size == 0 then [] else headerOf (peek s q.image 256)
  let s : State := { s with fw := { s.fw with loadq := rest } }
  let s := match p with
    | some p => s.modJob q.lead (fun j => { j with progs := j.progs ++ [p] })
    | none => s
  let s := s.report q.lead q.words (r.bytes (min (Config.verifyUs s.free) (verifyBound h q.size n)))
  if r.code == 0 then s else s.raise { code := r.code, part := some q.lead }

def execLoad (s : State) : Host.Outcome State Fault Refusal :=
  .next (match s.fw.loadq with
    | q :: rest => if reqUnload q.words || !fwUp s then s else touchLoad s (s.serveLoad q rest)
    | [] => s)

/-- Is a program run by a step of the job, formed or in flight (R53)? -/
def progBusy (j : Job) (id : Word) : Bool := (j.runs ++ j.formed.toList).any (fun r => r.prog == id)

/-- The unload at the head of the queue: malformed (R80), of a program the job does not hold (R82), waiting for the steps that run it, or done. While it
waits, Barista forms no step with the program (`closing`; log entry 105). -/
def State.serveUnload (s : State) (q : LoadReq) (rest : List LoadReq) : State :=
  let j := jobD s q.lead
  let id := wAt q.words 4
  let done (s : State) (r : Rep) : State :=
    ({ s with fw := { s.fw with loadq := rest } } : State).report q.lead q.words (r.bytes (min (Config.verifyUs s.free) (verifyBound [] 0 0)))
  if reqReserved q.words || reqImage q.words != 0 || reqSize q.words != 0 then
    (done s { code := vRESERVED, phase := 1 }).raise { code := vRESERVED, part := some q.lead }
  else match progOf j id with
    | none => done s { code := 0x9102, phase := 0 }
    | some _ =>
      if progBusy j id then
        s.modJob q.lead (fun j => { j with progs := j.progs.map (fun p => if p.id == id then { p with closing := true } else p) })
      else done (s.modJob q.lead (fun j => { j with progs := j.progs.filter (·.id != id) })) { code := 0, phase := 0 }

def execUnload (s : State) : Host.Outcome State Fault Refusal :=
  .next (match s.fw.loadq with
    | q :: rest => if reqUnload q.words && fwUp s then touchLoad s (s.serveUnload q rest) else s
    | [] => s)

/-! Truncated runs (R95 to R98). -/

/-- Descriptors that a truncated run withholds: IDs above the cut, and what those reach in G; never STEP_END (R96). -/
def withheld (p : Prog) (cut : Word) : List Nat :=
  let g := graphOf p.descs true
  let cutOff := (List.range p.descs.length).filter (fun i => decide (cut.toNat < nAt (p.descs.getD i []) 1))
  (List.range p.descs.length).filter (fun i =>
    descOp (p.descs.getD i []) != 0x3F && (cutOff.contains i || (before g i).any cutOff.contains))

/-- Launch a truncated run with the batch table at `bt` (R96, R98). -/
def State.truncLaunch (s : State) (lead : Nat) (j : Job) (p : Prog) (bt : Nat) (cut : Word) (nonet : Bool) : State :=
  let hdr := peekWords s bt 16
  let s := ({ s.seen bt 64 with launches := s.launches + 1 } : State).wakeJob lead
  let out := withheld p cut
  let r : StepRun := { no := u64At hdr 0, uid := s.launches, epoch := nAt hdr 2, prog := p.id, buf := j.stepNo % 2, bt := bt, launched := true,
                       trunc := some (cut.toNat, nonet), tlaunch := s.time.now,
                       runs := out.map (fun i => (i, { stat := .notRun, status := 4 })) }
  let s := s.modJob lead (fun j => { j with runs := [r] })
  let s := out.foldl (fun s i => s.complRec j r p i 4) s
  s.trace { cls := 1, kind := 0, part := lead, step := r.no,
            data := [p.id.toNat, r.epoch, nAt hdr 3 % 2 ^ 14, nAt hdr 4 % 2 ^ 17] }

/-- PRT_TRUNC_CTL with GO: refused unless the job is in debug hold with no step in flight and holds the program (R95). -/
def execPrtTruncCtl (cls : RClass) (p : Nat) (nonet : Bool) (s : State) : Host.Outcome State Fault Refusal :=
  .next (if reaches s cls p && (part s p).lead.isNone then touchServ s (s.markRC .prt p 0x048 1)
  else leadCmd s cls p (fun s j =>
    let s := s.setRegF .prt p 0x048 0 0 (b2n nonet)
    match progOf j (BitVec.ofNat 32 (reg s .prt p 0x040)) with
    | some q =>
      if pState s p == pDebug && j.runs.isEmpty && !q.closing then
        s.truncLaunch p j q (argOf s cls p) (BitVec.ofNat 32 (reg s .prt p 0x044)) nonet
      else s.markRC .prt p 0x048 1
    | none => s.markRC .prt p 0x048 1))

end Sys2Proof.Machine
end

