-- ==== Sys2Proof/Machine/Firm.lean ====
section
/-! DEFINITION. Device firmware's shared operations: reader classes in force (R418), the configuration check's reference (R425, R426), the
coupling digest (R348), and answering a firmware request (R423, R424). -/

namespace Sys2Proof.Machine

/-- MGT pages: 0 PF and shared registers, 1 BMC, 2 + p the request page of VF p + 1 (R423, R428). -/
def mgtInst : RClass → Nat
  | .bmc => 1 | .bmcU => 1 | .vf p => 2 + p | _ => 0

/-- MGT_AUTH.SESSION of the BMC. -/
def session (s : State) : Bool := bitN (reg s .mgt 1 0x038) 0

/-- The class in force: a BMC without a session is not authenticated; JTAG reaches registers in test mode only (R418, R462). -/
def classNow (s : State) (c : RClass) : Option RClass :=
  if s.pin.stopped then none
  else match c with
  | .bmc => some (if session s then .bmc else .bmcU)
  | .jtag => if s.pin.testEn then some .jtag else none
  | .vf p => if vfUp s p then some (.vf p) else none
  | .pf => if s.pcie.perstLow then none else some .pf
  | c => some c

/-- Classes that read and write GRD fields. -/
def grdClass (s : State) (c : RClass) : Bool :=
  match classNow s c with
  | some .fw => true
  | some .bmc => true
  | some .jtag => true
  | _ => false

/-! The configuration check. -/

/-- The words of Table 17.6 in checking order. -/
def cfgKeys : List RegKey :=
  (List.range 8).map (fun i => ⟨.mgt, 0, 0x040 + 4 * i, 0⟩) ++
  [⟨.tim, 0, 0x028, 0⟩, ⟨.tim, 0, 0x02C, 0⟩, ⟨.tim, 0, 0x030, 0⟩, ⟨.stkc, 0, 0x000, 0⟩, ⟨.stkc, 0, 0x008, 0⟩] ++
  ((List.range 64).map (fun n => (List.range 5).map (fun i => (⟨.stkc, 0, 0x800 + 32 * n + 4 * i, 0⟩ : RegKey)))).flatten ++
  [⟨.crmc, 0, 0x000, 0⟩, ⟨.crmc, 0, 0x008, 0⟩] ++
  ((List.range 4).map (fun d => [0x004, 0x010, 0x014, 0x018, 0x01C, 0x020, 0x024].map (fun o => (⟨.net, d, o, 0⟩ : RegKey)))).flatten ++
  [0x1000, 0x1004, 0x1008, 0x100C, 0x1010, 0x1014].map (fun o => ⟨.net, 0, o, 0⟩)

/-- The included fields: all but reserved ones; of CRM_BUDGET only RAMP. -/
def cfgMask (k : RegKey) : Nat :=
  if k.blk = .crmc && k.off == 0 then 0x8000 else match findReg k.blk k.off with | some r => maskOf r.fields | none => 0

/-- CRC-32C of the words as `f` reads them (R426). -/
def cfgCrc (f : RegKey → Word) : Word :=
  crc32c (wordsBytes (cfgKeys.map (fun k => BitVec.ofNat 32 (Nat.land (f k).toNat (cfgMask k)))))

/-- Device firmware's own copy of a configuration register (R420). -/
def fwCopy (s : State) (k : RegKey) : Word := (lookupR s.fw.regCopy k).getD (resetW k)

/-- Device firmware writes a register; a configuration register's copy follows (R420). -/
def State.fwSet (s : State) (b : Blk) (i off v : Nat) : State :=
  let k : RegKey := ⟨b, i, off, 0⟩
  let s := s.setReg b i off v
  if cfgKeys.contains k then { s with fw := { s.fw with regCopy := storeR s.fw.regCopy k (BitVec.ofNat 32 v) } } else s

/-- The coupling block (Table 14.5). -/
def couplingBlock (s : State) : List Byte :=
  wordsBytes [0x4B574342#32, 1#32, BitVec.ofNat 32 s.fw.devCount] ++
  [BitVec.ofNat 8 (regF s .tim 0 0x028 23 16), BitVec.ofNat 8 (regF s .net 0 0x010 2 0), BitVec.ofNat 8 (regF s .net 0 0x010 5 3),
   BitVec.ofNat 8 (regF s .net 0 0x010 15 8)] ++
  wordsBytes ([0x1000, 0x1004, 0x1008, 0x100C, 0x1010, 0x1014].map (fun o => BitVec.ofNat 32 (reg s .net 0 o))) ++
  sha3 s.fw.sysRec ++ zeros 184

/-- The coupling digest is rebuilt (R348) and is no longer stale (R350). -/
def State.rebuildDigest (s : State) : State :=
  (s.setWide ⟨.net, 0, 0x1020, 0⟩ (leNat (sha3 (couplingBlock s)))).setRegF .net 0 0x1040 0 0 0

/-- Commit the reference (R425); the digest's source fields may have changed with it. -/
def State.commitCfg (s : State) : State :=
  let s := s.setReg .glb 0 0x0C4 (cfgCrc (fwCopy s)).toNat
  let s := s.setReg .glb 0 0x0CC (reg s .glb 0 0x0CC + 1)
  let s := s.setRegF .glb 0 0x0C8 0 0 0
  ({ s with fw := { s.fw with scanDiffs := 0 } } : State).rebuildDigest

/-! Requests. -/

/-- Authority letters of Table 17.4: P 1, V 2, B 4, U 8. -/
def authBit (s : State) : RClass → Nat
  | .pf => 1
  | .vf _ => 2
  | .bmc => if session s then 4 else 8
  | .bmcU => 8
  | _ => 0

def stOk : Nat := 0
def stNoAuthority : Nat := 1
def stMalformed : Nat := 2
def stRefused : Nat := 3
def stFull : Nat := 4
def stFailed : Nat := 5

/-- What serving a request gives: STATUS, DETAIL, payload, state, fuses. -/
structure Served where
  status : Nat
  detail : Nat := 0
  payload : List Byte := []
  s : State
  /-- the fuses, where the request programs one -/
  fuse : Option Fuses := none

/-- The response: MGT_RSPBUF, REQSTAT.STATUS and DONE, BUSY cleared; vector 1,034 for the PF (R423). -/
def State.respondFw (s : State) (h : FwHdr) (code : Nat) (r : FwRsp) : State :=
  let i := mgtInst h.cls
  let s := s.setReg .mgt i 0x034 (2 ^ 31 + r.status)
  let s := s.setRegF .mgt i 0x030 30 30 0
  let s : State := { s with fw := { s.fw with rsp := s.fw.rsp.filter (fun x => mgtInst x.1 != i) ++ [(h.cls, { r with code := code })] } }
  match h.cls with | .pf => s.msix 0 1034 | _ => s

/-- The kinds of state that a firmware request may change: not the queue, time, temperature, pins, mailboxes, on-die repair or fuses. -/
def touchFw (s t : State) : State :=
  { touchDesc s t with fw := t.fw }

/-- The BMC makes its requests by SMBus transactions (R421). -/
def State.smbUsed (s : State) (c : RClass) : State :=
  match c with
  | .bmc => { s with fw := { s.fw with lastSmb := s.time.mono } }
  | .bmcU => { s with fw := { s.fw with lastSmb := s.time.mono } }
  | _ => s

/-- Serve a request: a class without a request page makes none, a class without authority gets NO_AUTHORITY, firmware that does not run serves
nothing. -/
def fwReq (s : State) (h : FwHdr) (code auth : Nat) (f : State → Served) : State :=
  match classNow s h.cls with
  | none => s
  | some c =>
    let b := authBit s c
    if b == 0 || !fwUp s then s
    else if Nat.land b auth == 0 then touchFw s ((s.respondFw h code ⟨code, stNoAuthority, h.tag, 0, []⟩).smbUsed c)
    else
      let r := f s
      { touchFw s ((r.s.respondFw h code ⟨code, r.status, h.tag, r.detail, r.payload⟩).smbUsed c) with fuse := r.fuse.getD s.fuse }

end Sys2Proof.Machine
end

