-- ==== Sys2Proof/Machine/HostLink.lean ====
section
/-! DEFINITION. The host link (R355 to R360, R465): PF access through BAR2, completions of the device's own reads, function-level resets, PERST#, the link
itself, and malformed requests. -/

namespace Sys2Proof.Machine

/-! PF BAR2 (R356). -/

def bar2Base (s : State) : Nat := reg s .glb 0 0x080 / 2 ^ 21 * 2 ^ 21 + regF s .glb 0 0x084 15 0 * 2 ^ 32

/-- An access that reaches nothing is counted, as a violation of Table 14.9. -/
def State.bar2Miss (s : State) : State := ({ s with pcie := { s.pcie with bar2Bad := s.pcie.bar2Bad + 1 } } : State).hostViol 5

/-- A completion goes back to the host. -/
def State.complete (s : State) (bs : List Byte) (poisoned : Bool) : State := { s with pcie := { s.pcie with cpl := [(bs, poisoned)] } }

/-- Write of PCIe function `f` through a BAR: runs that `ok` allows are written, under R81 and R377; the others are dropped, and the access is counted. A
write-combining entry keeps the function that wrote it (R306). -/
def State.barWrite (s : State) (f : Nat) (ok : Nat → Bool) (a : Nat) (bs : List Byte) : State :=
  let rs := segRuns a bs.length
  let (s, _) := rs.foldl (fun (x : State × List Byte) (r : Nat × Nat) =>
    (match hostKey x.1 r.1 with
     | some k => if ok r.1 then x.1.writeGuard r.1 k (x.2.take r.2) { fn := some f } else x.1
     | none => x.1, x.2.drop r.2)) (s, bs)
  if rs.all (fun r => ok r.1 && (hostKey s r.1).isSome) then s else s.bar2Miss

/-- Read through a BAR: what is not reached reads zero; an uncorrectable word poisons the completion (R373). -/
def State.barRead (s : State) (ok : Nat → Bool) (a n : Nat) : State :=
  let rs := segRuns a n
  let (bs, bad, s) := rs.foldl (fun (x : List Byte × Bool × State) (r : Nat × Nat) =>
    match hostKey x.2.2 r.1 with
    | some k =>
      if ok r.1 then let (b, ue, s) := readRun x.2.2 k r.2; (x.1 ++ b, x.2.1 || ue.isSome, s) else (x.1 ++ zeros r.2, x.2.1, x.2.2)
    | none => (x.1 ++ zeros r.2, x.2.1, x.2.2)) ([], false, s)
  let s := if rs.all (fun r => ok r.1 && (hostKey s r.1).isSome) then s else s.bar2Miss
  let s := if bad then ({ s with pcie := { s.pcie with aer := s.pcie.aer ++ [3] } } : State).raise { code := 0x1005, detail := [a % 2 ^ 32, a / 2 ^ 32] } else s
  s.complete bs bad

/-- The access counts as use of the stacks (R412). -/
def State.hostTouch (s : State) : State := { s with stk := { s.stk with lastAccess := s.time.mono } }

/-- In recovery BAR2 maps partition 0's buffer from offset 0 (R400). -/
def recovBar2 (s : State) (off : Nat) (write : Option (List Byte)) (n : Nat) : State :=
  match write with
  | some bs => s.putPbuf 0 off (bs.take (0x2000000 - off))
  | none => s.complete ((List.range n).map (fun i => if off + i < 0x2000000 then getB s.mem.pbuf (off + i) else 0#8)) false

/-- An access of the PF through BAR2: a write of bytes, or a read of `len` bytes. -/
def execPfBar2Access (off : Nat) (write : Option (List Byte)) (len : Nat) (s : State) : Host.Outcome State Fault Refusal :=
  .next (
    let n := match write with | some bs => bs.length | none => len
    if s.pcie.perstLow || s.pin.stopped || 2 ^ 30 < off + n then s
    else if inRecovery s then touchDesc s (recovBar2 s off write n)
    else
      let a := bar2Base s + off
      touchDesc s (match write with
        | some bs => s.hostTouch.barWrite 0 (fun _ => true) a bs
        | none => s.hostTouch.barRead (fun _ => true) a n))

/-! The device's own reads (R357). -/

/-- A descriptor whose read failed faults with 0x5001 at the instance that waits for it. -/
def State.readFault (s : State) (r : HostRd) : State :=
  match r.d.bind (fun d => (job? s d.lead).bind (fun j => (runOf j d.step).bind (fun q => (progOf j q.prog).map (fun p => (dRun q d.idx, cxOf s j q p d.lead d.idx))))) with
  | none => s
  | some (dr, c) =>
    if dr.stat != .running && dr.stat != .resumed && dr.stat != .faulted then s
    else
      let l := dr.left.getD []
      match l.find? (fun x => x.1 == r.inst) with
      | none => s
      | some (i, k) =>
        let s := s.modD c.d (fun x => { x with stat := .faulted, left := some (l.filter (fun y => y.1 != r.inst)) })
        s.descFault { c with inst := i, core := c.cores.getD i 0 } k { code := 0x5001, addr := r.addr }

def State.dropRead (s : State) (tag : Nat) : State := { s with pcie := { s.pcie with reads := s.pcie.reads.filter (fun r => r.tag != tag) } }

def State.readFailed (s : State) (r : HostRd) : State := ((s.dropRead r.tag).hostViol 7).readFault r

/-- Data arrives for a read, or the completion has UR or CA status. -/
def execHostReadCompletion (tag : Nat) (ok : Bool) (data : List Byte) (s : State) : Host.Outcome State Fault Refusal :=
  .next (match s.pcie.reads.find? (fun r => r.tag == tag) with
    | none => s
    | some r =>
      touchDesc s (
        if !ok then s.readFailed r
        else
          let s := s.dropRead tag
          match r.d with
          | none => s
          | some d =>
            let cells := (data.take r.len).zipIdx.map (fun (b, i) => (r.addr + i, b))
            let s : State := { s with pcie := { s.pcie with arrived := s.pcie.arrived ++ [(d, cells)] } }
            s.modD d (fun x => if x.stat == .running then { x with stat := .resumed } else x)))

def execCompletionTimeout (tag : Nat) (s : State) : Host.Outcome State Fault Refusal :=
  .next (match s.pcie.reads.find? (fun r => r.tag == tag) with
    | none => s
    | some r => touchDesc s (s.readFailed r))

/-! Function-level resets (R328, R358) and PERST# (R465). -/

/-- MSI-X state of a function returns to reset. -/
def State.msixReset (s : State) (p : Nat → Bool) : State :=
  { s with pcie := { s.pcie with masked := s.pcie.masked.filter (fun x => !p x.1), pend := s.pcie.pend.filter (fun x => !p x.1) } }

/-- A VF's copies of RC fields, its PRT_ARG and its doorbell latches. -/
def State.vfClear (s : State) (p : Nat) : State :=
  { s with regs := s.regs.filter (fun x => !(x.1.blk = .prt && x.1.inst == p && x.1.cls == 1)) }

def execVfFlr (p : Nat) (s : State) : Host.Outcome State Fault Refusal :=
  .next (if vfUp s p && !s.pin.stopped then touchDesc s (((s.vfClear p).msixReset (· == p + 1)).raise { code := 0x5003, part := some p }) else s)

/-- The PF's copies: of RC fields, of PRT_ARG, its mailbox; and the BAR2 window base. -/
def pfCopyReset (x : RegKey × Word) : RegKey × Word :=
  if x.1.cls != 0 then x
  else if (x.1.blk = .prt && (x.1.off == 0x00C || x.1.off == 0x010)) || (x.1.blk = .glb && (x.1.off == 0x080 || x.1.off == 0x084)) then (x.1, 0#32)
  else match findReg x.1.blk x.1.off with
    | none => x
    | some r => (x.1, BitVec.ofNat 32 ((r.fields.filter (fun f => f.acc == .rc)).foldl (fun w f => setFld w f.hi f.lo 0) x.2.toNat))

/-- The mailbox instance of the PF at reset (R358, R422). -/
def mbxReset (s : State) : List (RClass × Mbx) := s.mbx.filter (fun x => x.1 != .pf)

/-- The PF's mailbox registers at reset. -/
def State.mbxRegReset (s : State) : State :=
  { s with regs := s.regs.filter (fun x => !(x.1.blk = .glb && x.1.cls == 0 && decide (0x020 ≤ x.1.off) && decide (x.1.off < 0x060))) }

/-- What a function-level reset of the PF returns to reset, and PERST# too: the PF's copies, every VF, MSI-X. -/
def State.endpointReset (s : State) : State :=
  let s : State := { s with regs := s.regs.map pfCopyReset, wide := s.wide.filter (fun x => !(x.1.blk = .stk && x.1.cls == 0 && (x.1.off == 0x018 || x.1.off == 0x020))) }
  let s : State := { s with pcie := { s.pcie with vfsEnabled := false } }
  let s := (List.range 16).foldl (fun s p => s.vfClear p) s
  (s.msixReset (fun _ => true)).mbxRegReset

/-- The endpoint is reset, with event 0x5003. -/
def flrDone (s : State) : State := { touchDesc s (s.endpointReset.raise { code := 0x5003 }) with mbx := mbxReset s }

def execPfFlr (s : State) : Host.Outcome State Fault Refusal :=
  .next (if s.pcie.perstLow || s.pin.stopped then s else flrDone s)

/-- PERST# falls: the endpoint is reset and stays so; it rises: the link trains again. Without clocks only the pin's level changes (R465). -/
def execPerst (low : Bool) (s : State) : Host.Outcome State Fault Refusal :=
  .next (if low == s.pcie.perstLow then s
    else if s.pin.stopped then { s with pcie := { s.pcie with perstLow := low } }
    else if low then { flrDone s with pcie := { (flrDone s).pcie with perstLow := true } }
    else { s with pcie := { s.pcie with perstLow := false, gen := 5, width := 8 } })

/-! The link (R355, R360). -/

/-- Line 0 a malformed TLP, 1 a poisoned write, 2 a BAR0 access of wrong size or alignment, which is completed with UR: logged in AER, nothing done. -/
def execMalformedTlp (line : Nat) (s : State) : Host.Outcome State Fault Refusal :=
  .next (if s.pcie.perstLow || s.pin.stopped || 2 < line then s
    else touchDesc s (({ s with pcie := { s.pcie with aer := s.pcie.aer ++ [line], cpl := if line == 2 then [] else s.pcie.cpl } } : State).hostViol (if line == 2 then 2 else 1)))

def execLinkRetrain (gen width : Nat) (s : State) : Host.Outcome State Fault Refusal :=
  .next (if s.pcie.perstLow || s.pin.stopped || gen < 3 || 5 < gen || !([1, 2, 4, 8].contains width) then s
    else
      let t : State := { s with pcie := { s.pcie with gen := gen, width := width } }
      touchDesc s (if gen < s.pcie.gen || width < s.pcie.width then t.raise { code := 0x5004, detail := [gen, width] } else t))

end Sys2Proof.Machine
end

