-- ==== Sys2Proof/Machine/Network.lean ====
section
/-! DEFINITION. The network as commands reach it (chapter 14): received RoCEv2 messages (R344 to R346, R354), acknowledgements and what follows them
(R321, R351, R352), congestion (R353), pause (R343), connection setup (R347 to R350), ports (R340, R341), and the received messages of a pair. -/

namespace Sys2Proof.Machine

/-! Violations (R354). -/

/-- Count a violation in its register and raise 0x4004 with its row. -/
def State.viol (s : State) (die row off : Nat) : State :=
  (s.bump .net (if off < 0x1000 then die else 0) off).raise { code := 0x4004, die := 21 + die, detail := [row], limit := some row }

/-! Answers. -/

/-- A packet of payload length n leaves by a queue pair's port: a congestion notification at its own priority (R342). -/
def State.answer (s : State) (q n : Nat) (t : NetTx) : State :=
  let p := (qpOf s q).port
  match t with
  | .cnp _ => s.sendOn p (cnpPrio s p) n t
  | _ => s.sendRoce p n t

/-- A NAK that moves the responder's queue pair to ERROR. -/
def State.refuse (s : State) (h : NetHdr) (code row off : Nat) : State :=
  let die := (qpOf s h.qp).port / 4
  (((s.answer h.qp 0 (.nak h.qp h.psn code)).viol die row off).qpError h.qp false).settleNet

/-- The message is taken: its PSNs are used up and it is acknowledged. -/
def State.taken (s : State) (h : NetHdr) (n : Nat) : State :=
  let last := seqAdd h.psn (n - 1)
  (s.modQp h.qp (fun x => { x with rcvPsn := seqAdd last 1 })).answer h.qp 0 (.ack h.qp last)

/-- A packet marked CE: a notification to the sender, at most one per CNPGAP µs. -/
def State.marked (s : State) (q : Nat) : State :=
  let gap := 1000 * regF s .net 0 0x100C 7 0
  let x := qpOf s q
  if regF s .net 0 0x1000 1 1 == 1 && (x.cnpLast == 0 || decide (x.cnpLast - 1 + gap ≤ s.time.mono)) then
    (s.modQp q (fun x => { x with cnpLast := s.time.mono + 1 })).answer q 0 (.cnp q)
  else s

/-- Checks of Table 14.6 that come before any operation: rows 3, 4 and 5. `again` answers a duplicate. -/
def State.arrive (s : State) (h : NetHdr) (bytes : Nat) (again f : State → State) : State :=
  let x := qpOf s h.qp
  if !(x.st == .rtr || x.st == .rts) || h.src != x.addr then s.viol (x.port / 4) 3 0x1044
  else
    let s := s.addWide .net (x.port / 4) 0x040 (Config.wireBytes bytes)
    let s := if h.ce then s.marked h.qp else s
    let d := seqSub h.psn x.rcvPsn
    if d == 0 then
      let s := s.modQp h.qp (fun x => { x with nakSent := false })
      f (s.trace { cls := 3, kind := 2, part := x.job, data := [h.qp, h.psn, bytes] })
    else if d < 2 ^ 23 then
      let s := if x.nakSent then s else (s.modQp h.qp (fun x => { x with nakSent := true })).answer h.qp 0 (.nak h.qp x.rcvPsn 0)
      s.viol (x.port / 4) 4 0x1044
    else again s

/-- A duplicate of a message other than READ: acknowledged again. -/
def State.reAck (s : State) (q : Nat) : State := s.answer q 0 (.ack q (seqSub (qpOf s q).rcvPsn 1))

/-- Immediate data as a flag word (R345); a flag that is set wakes the job (Table 16.10). -/
def State.immediate (s : State) (h : NetHdr) (w : Word) : State :=
  let x := qpOf s h.qp
  if !wbit w 31 then s
  else if 2048 ≤ wfld w 11 0 && wfld w 30 12 == 0 then (s.wakeJob x.job).flagChange x.job (wfld w 11 0) true none
  else s.viol (x.port / 4) 8 0x1050

/-! SEND and the Decant stream (R345, R386). -/

/-- The first request wakes a sleeping job (R30). -/
def State.reqArrive (s : State) (h : NetHdr) (lead : Nat) (data : List Byte) : State :=
  ((s.wakeJob lead).ringPut lead data).taken h (pkts data.length)

def State.rnr (s : State) (h : NetHdr) : State := s.answer h.qp 0 (.rnrNak h.qp h.psn (regF s .net 0 0x1004 23 16))

def sendMsg (s : State) (h : NetHdr) (data : List Byte) (imm : Option Word) : State :=
  s.arrive h data.length (fun s => s.reAck h.qp) (fun s =>
    let x := qpOf s h.qp
    match x.purpose, job? s x.job with
    | 1, some j =>
      if 4096 < data.length then s.refuse h 1 6 0x104C
      else if ringFull j then (s.rnr h).viol (x.port / 4) 10 0x1058
      else s.reqArrive h x.job data
    | 3, some j =>
      let n := pkts data.length
      if msgMax < data.length then s.refuse h 1 6 0x104C else
      let flag (s : State) : State := match imm with | some w => s.immediate h w | none => s
      if j.pair.st == .unpaired || pairPeer j != x.peer || (decType data).isNone then flag (s.taken h n)
      else if !rxRoom j data.length then s.rnr h
      else flag ((s.taken h n).decArrive x.job data)
    | _, _ => s.refuse h 1 6 0x104C)

def execSend (h : NetHdr) (data : List Byte) (imm : Option Word) (s : State) : Host.Outcome State Fault Refusal :=
  .next (touchDesc s (sendMsg s h data imm))

/-- A received message of the pair of one type. -/
def decMsg (s : State) (m : DecMsg) (type : Nat) : State := if decType m.bytes == some type then touchDesc s (sendMsg s m.hdr m.bytes none) else s

def execDelta (m : DecMsg) (s : State) : Host.Outcome State Fault Refusal := .next (decMsg s m 1)
def execChunk (m : DecMsg) (s : State) : Host.Outcome State Fault Refusal := .next (decMsg s m 2)
def execHeartbeat (m : DecMsg) (s : State) : Host.Outcome State Fault Refusal := .next (decMsg s m 3)
def execSync (m : DecMsg) (s : State) : Host.Outcome State Fault Refusal := .next (decMsg s m 4)
def execDepart (m : DecMsg) (s : State) : Host.Outcome State Fault Refusal := .next (decMsg s m 5)
def execHello (m : DecMsg) (s : State) : Host.Outcome State Fault Refusal := .next (decMsg s m 6)

/-! WRITE and READ (R346). -/

/-- The key allows the access: it is VALID with the TAG, of the queue pair's job, and its RAT entry meets R216 with NRD (2) or NWR (3) over the
whole range. -/
def keyOk (s : State) (x : Qp) (rkey va n perm : Nat) : Bool :=
  match getT s.net.keys (rkey % 4096) with
  | none => false
  | some e =>
    let ps := partsOf s x.job
    e.valid && e.tag.toNat == rkey / 4096 && e.job == x.job && (if perm == 2 then e.nrd else e.nwr) && decide (va + n ≤ 2 ^ 48) &&
    (segRuns va n).all (fun r => ratHits (ratEnt s e.rat) perm ps.contains ps.contains r.1 && (hostKey s r.1).isSome)

/-- Place bytes of the network: under R81 and R377, and performed everywhere before the acknowledgement (R226, R321). -/
def State.placeNet (s : State) (va : Nat) (bs : List Byte) : State :=
  let rs := segRuns va bs.length
  let (s, _) := rs.foldl (fun (a : State × List Byte) (r : Nat × Nat) =>
    (match stackKey a.1 r.1 with
     | some k => a.1.writeGuard r.1 k (a.2.take r.2) {}
     | none => a.1, a.2.drop r.2)) (s, bs)
  let segs := rs.filterMap (fun r => (stackKey s r.1).map (· / 64))
  s.flushWhere (fun e => segs.contains e.seg)

def writeMsg (s : State) (h : NetHdr) (va : Nat) (rkey : Word) (data : List Byte) (imm : Option Word) : State :=
  s.arrive h data.length (fun s => s.reAck h.qp) (fun s =>
    if msgMax < data.length then s.refuse h 1 6 0x104C
    else if !keyOk s (qpOf s h.qp) rkey.toNat va data.length 3 then s.refuse h 2 7 0x1048
    else
      let s := s.placeNet va data
      let s := match imm with | some w => s.immediate h w | none => s
      s.taken h (pkts data.length))

def execRdmaWrite (h : NetHdr) (va : Nat) (rkey : Word) (data : List Byte) (s : State) : Host.Outcome State Fault Refusal :=
  .next (touchDesc s (writeMsg s h va rkey data none))
def execWriteWithImmediate (h : NetHdr) (va : Nat) (rkey : Word) (data : List Byte) (imm : Word) (s : State) : Host.Outcome State Fault Refusal :=
  .next (touchDesc s (writeMsg s h va rkey data (some imm)))

/-- Answer a READ: its bytes, or NAK remote operational error at an uncorrectable word (R373). A 17th outstanding READ is refused (R344). -/
def State.readAnswer (s : State) (h : NetHdr) (va : Nat) (rkey : Word) (len : Nat) (first : Bool) : State :=
  if msgMax < len || 16 ≤ readsOwed s h.qp then s.refuse h 1 6 0x104C
  else if !keyOk s (qpOf s h.qp) rkey.toNat va len 2 then s.refuse h 2 7 0x1048
  else
    let (bs, bad, s) := readStack s va len
    if bad then (s.answer h.qp 0 (.nak h.qp h.psn 3)).raise { code := 0x1005, die := 21 + (qpOf s h.qp).port / 4, detail := [va % 2 ^ 32, va / 2 ^ 32] }
    else
      let s := if first then s.modQp h.qp (fun x => { x with rcvPsn := seqAdd h.psn (pkts len) }) else s
      s.answer h.qp len (.readResp h.qp h.psn bs)

def execRdmaRead (h : NetHdr) (va : Nat) (rkey : Word) (len : Nat) (s : State) : Host.Outcome State Fault Refusal :=
  .next (touchDesc s (s.arrive h 0 (fun s => s.readAnswer h va rkey len false) (fun s => s.readAnswer h va rkey len true)))

/-- Atomics, and opcodes that Table 14.2 does not accept. -/
def execRoceAtomic (h : NetHdr) (s : State) : Host.Outcome State Fault Refusal :=
  .next (touchDesc s (s.arrive h 0 (fun s => s.reAck h.qp) (fun s => s.refuse h 1 6 0x104C)))

/-! Acknowledgements (R321, R351, R387). -/

/-- The context of a descriptor that waits for a message. -/
def waiterCx (s : State) (d : DTag) : Option Cx :=
  (job? s d.lead).bind (fun j => (runOf j d.step).bind (fun r => (progOf j r.prog).map (fun p => cxOf s j r p d.lead d.idx)))

/-- Bytes of a READ's response go to where they were asked for: the destination tensor, or the block that is fetched (R378). -/
def State.readData (s : State) (m : OutMsg) (bs : List Byte) : State :=
  match m.d, m.fetch with
  | some d, _ =>
    match waiterCx s d with
    | none => s
    | some c => postRun (s.charge c.part 1 (ceilDiv bs.length 64)) c (m.off / 4096) (c.putImage (c.t 2) m.off bs)
  | none, some (n, b) => s.placeNet (blockAddr (ratEnt s n) b + (0x100000 - m.len)) bs
  | _, _ => s

/-- A message of a descriptor has ended (R321): the next one follows where there is more to move (R344), else what waited for it has run. -/
def State.descMsg (s : State) (q : Nat) (m : OutMsg) (d : DTag) : State :=
  match waiterCx s d with
  | none => s
  | some c =>
    let s := s.trace { cls := 3, kind := 1, part := c.part, core := c.core, engine := c.engine, attempt := c.attempt, id := c.id, step := d.step,
                       data := [q, m.last, m.len] }
    let next := m.off + m.len
    if (dRunOf s d).stat != .running then s
    else if m.kind != 0 && decide (next < netTotal c (if m.kind == 2 then 2 else 0)) then postRun s c (next / 4096) (netUnit m.kind c (next / 4096))
    else s.modD d (fun x => { x with stat := .ran })

/-- What a message that has ended was for. -/
def State.msgDone (s : State) (q : Nat) (m : OutMsg) : State :=
  let lead := (qpOf s q).job
  let s := match m.d with
    | none => s
    | some d => s.descMsg q m d
  let s := match m.fetch with
    | some (n, b) => s.fetchDone n b
    | none => s
  match m.seqno with
  | none => s
  | some k =>
    -- the partner has the message: it is forgotten, and the records that waited for it leave (R385)
    let j := jobD s lead
    let due := (j.confirm.filter (·.1 == k)).map Prod.snd
    let s := s.modJob lead (fun j => { j with confirm := j.confirm.filter (fun p => p.1 != k), pair := { j.pair with unacked := j.pair.unacked.filter (·.seqno != k) } })
    let s := due.foldl (fun s h => s.respond lead h.ring h.req h.words) s
    (s.trace { cls := 3, kind := 1, part := lead, data := [q, m.last, m.len, k] }).pairCheck lead

/-- Take from the front of a queue pair's messages what `psn` acknowledges; a READ only as far as its data has come. -/
def State.ackFront (s : State) (q psn : Nat) (data : List Byte) : Nat → State
  | 0 => s
  | n + 1 =>
    match (qpOf s q).unacked with
    | [] => s
    | m :: rest =>
      let k := m.acked psn
      if k == 0 then s
      else
        let have_ := if m.kind == 2 then min k (if m.len ≤ data.length then pkts m.len else data.length / 4096) else k
        let bytes := if m.kind == 2 then data.take (min m.len (4096 * have_)) else []
        let s := if bytes.isEmpty then s else s.readData m bytes
        -- a destination that faulted takes no more of the response
        let gone : Bool := match m.d with | some d => (dRunOf s d).stat == .faulted && m.kind == 2 | none => false
        let m := if gone then { m with d := none } else m
        if have_ == pkts m.len then
          ((s.modQp q (fun x => { x with unacked := rest })).msgDone q m).ackFront q psn (data.drop bytes.length) n
        else s.modQp q (fun x => { x with unacked := m.trim have_ :: rest })

/-- Progress of a queue pair: retries start again. -/
def State.acked (s : State) (q psn : Nat) (data : List Byte) : State :=
  let before := (qpOf s q).unacked
  let s := s.ackFront q psn data before.length
  if (qpOf s q).unacked == before then s
  else (s.modQp q (fun x => { x with retries := 0, rnrs := 0 })).settleNet

/-- An answer to our messages is for a queue pair in RTS. -/
def State.answered (s : State) (q bytes : Nat) (f : State → State) : State :=
  let x := qpOf s q
  if x.st != .rts then s.viol (x.port / 4) 3 0x1044
  else f (s.addWide .net (x.port / 4) 0x040 (Config.wireBytes bytes))

def execAck (qp psn : Nat) (data : List Byte) (s : State) : Host.Outcome State Fault Refusal :=
  .next (touchDesc s (s.answered qp data.length (fun s => s.acked qp psn data)))

/-- Send again from the first unacknowledged packet. -/
def State.resend (s : State) (q : Nat) : State := (qpOf s q).unacked.foldl (fun s m => s.transmit q m) s

/-- Device firmware resolves a fault; while the job is suspending or suspended that waits for the resume (R338). -/
def State.fwResolve (s : State) (p : Nat) (f : PFault) (action : Nat) : State :=
  if suspending s p then s.modJob f.d.lead (fun j => { j with pendingRes := j.pendingRes ++ [(p, f, action)] }) else s.resolve p f action

/-- Faults 0x4001 of a queue pair, pending in a partition. -/
def qpFault (q : Nat) (f : PFault) : Bool := f.code == 0x4001 && nAt f.words 14 == q

def State.resolveQp (s : State) (lead q action : Nat) : State :=
  (partsOf s lead).foldl (fun s p =>
    (part s p).faults.foldl (fun s f => if qpFault q f && (part s p).faults.contains f then s.fwResolve p f action else s) s) s

/-- After exhausted retries the queue pair is set up again with the same peer and purpose (R352), for descriptors that wait for it. -/
def State.reconnect (s : State) (q : Nat) : State :=
  let x := qpOf s q
  let e := peer s x.peer
  let waits := (partsOf s x.job).any (fun p => (part s p).faults.any (qpFault q))
  if !waits || x.purpose == 3 || x.peer == 0xFFFFFFFF || digestStale s || !e.valid then s
  else s.request q x.job x.purpose x.peer (connPort s) e.addr (serviceId x.job x.purpose) (cmPriv s x.job x.purpose 0)

def State.spent (s : State) (q : Nat) : State := ((s.qpError q true).reconnect q).settleNet

/-- A NAK acknowledges what came before it. Sequence error: sent again; otherwise the queue pair fails, and after codes 1 and 2 its descriptors'
faults are resolved FAIL (R352). -/
def execNak (qp psn code : Nat) (s : State) : Host.Outcome State Fault Refusal :=
  .next (touchDesc s (s.answered qp 0 (fun s =>
    let s := s.acked qp (seqSub psn 1) []
    if code == 0 then s.resend qp
    else
      let lead := (qpOf s qp).job
      let s := (s.qpError qp false).settleNet
      if code == 1 || code == 2 then s.resolveQp lead qp 2 else s)))

/-- RNRRETRY 7 is unlimited. The timer's length is time only. -/
def execRnrNak (qp psn _timer : Nat) (s : State) : Host.Outcome State Fault Refusal :=
  .next (touchDesc s (s.answered qp 0 (fun s =>
    let s := s.acked qp (seqSub psn 1) []
    let n := regF s .net 0 0x1004 11 9
    if n != 7 && n ≤ (qpOf s qp).rnrs then s.spent qp
    else s.modQp qp (fun x => { x with rnrs := x.rnrs + 1, rnrWait := true }))))

def execRnrTimerExpiry (qp : Nat) (s : State) : Host.Outcome State Fault Refusal :=
  .next (if (qpOf s qp).rnrWait && (qpOf s qp).st == .rts then touchDesc s ((s.modQp qp (fun x => { x with rnrWait := false })).resend qp) else s)

/-- The queue pair moves to another port: its epochs start afresh at that port's rate (R353). -/
def State.qpMove (s : State) (q port : Nat) : State :=
  s.modQp q (fun x => { x with port := port, rate := lineRate s port, peak := lineRate s port, quiet := 0, cnps := 0 })

def execAckTimeout (qp : Nat) (s : State) : Host.Outcome State Fault Refusal :=
  .next (
    let x := qpOf s qp
    if x.st != .rts || x.unacked.isEmpty || x.rnrWait then s
    else touchDesc s (
      if regF s .net 0 0x1004 8 6 ≤ x.retries then s.spent qp
      else
        let s := s.modQp qp (fun x => { x with retries := x.retries + 1 })
        let s := if portIsUp s x.port then s else match somePort s with | some k => s.qpMove qp k | none => s
        s.resend qp))

/-! Congestion (R353). -/

def execCnp (qp : Nat) (s : State) : Host.Outcome State Fault Refusal :=
  .next (if (qpOf s qp).st == .reset then s else touchDesc s (s.modQp qp (fun x => { x with cnps := x.cnps + 1 })))

/-- The rate at the end of an epoch, in Mb/s. -/
def ccRate (x : Qp) (cut hold step stepmax minrate line : Nat) : Qp :=
  let y : Qp :=
    if 0 < x.cnps then { x with peak := x.rate, rate := x.rate * (1024 - cut * min x.cnps 4) / 1024, quiet := 0 }
    else
      let q := x.quiet + 1
      let r := if hold < q then
          (if x.rate < x.peak then x.rate + max ((x.peak - x.rate) / 4) step else x.rate + min (step * (q - hold)) stepmax)
        else x.rate
      { x with quiet := q, rate := r }
  { y with rate := min (max y.rate minrate) line, cnps := 0 }

def execCcEpoch (qp : Nat) (s : State) : Host.Outcome State Fault Refusal :=
  .next (if (qpOf s qp).st != .rts then s
    else touchDesc s (s.modQp qp (fun x => ccRate x (regF s .net 0 0x100C 31 24) (regF s .net 0 0x1008 23 16) (1000 * regF s .net 0 0x100C 15 8)
      (1000 * regF s .net 0 0x1014 15 0) (100 * regF s .net 0 0x1010 15 0) (lineRate s x.port))))

/-! Pause (R343). -/

def pauseKey (die port prio : Nat) : Nat := prioKey (4 * die + port) prio
def pauseOk (s : State) (die port prio : Nat) : Bool := decide (die < 4) && decide (port < diePorts s die) && decide (prio < 8)

/-- The pause of a priority ends: the time goes to NET_PAUSERX and the frames that waited leave, in order. -/
def State.unpausePrio (s : State) (die k : Nat) : State :=
  match getT s.net.paused k with
  | none => s
  | some t =>
    let (go, stay) := s.net.waiting.partition (fun x => prioKey x.1.port x.1.prio == k)
    let s := ({ s with net := { s.net with paused := delT s.net.paused k, waiting := stay } } : State).bumpRC .net die 0x060 31 0 ((s.time.mono - t) / 1000)
    go.foldl (fun s x => s.emit x.1 x.2) s

def execPauseFrame (die port prio : Nat) (pause : Bool) (s : State) : Host.Outcome State Fault Refusal :=
  .next (
    let k := pauseKey die port prio
    if !pauseOk s die port prio || !bitN (regF s .net die 0x010 15 8) prio then s
    else touchDesc s (
      match getT s.net.ignoring k, pause with
      | some _, true => { s with net := { s.net with ignoring := putT s.net.ignoring k s.time.mono } }
      | some _, false => s
      | none, true => if (getT s.net.paused k).isSome then s else { s with net := { s.net with paused := putT s.net.paused k s.time.mono } }
      | none, false => s.unpausePrio die k))

def execPfcWatchdog (die port prio : Nat) (s : State) : Host.Outcome State Fault Refusal :=
  .next (
    let k := pauseKey die port prio
    let ms := regF s .net die 0x014 15 0
    match getT s.net.paused k with
    | none => s
    | some t =>
      if !pauseOk s die port prio || ms == 0 || s.time.mono < t + ms * 1000000 then s
      else touchDesc s (
        let s := s.unpausePrio die k
        let s : State := { s with net := { s.net with ignoring := putT s.net.ignoring k s.time.mono } }
        (s.viol die 11 0x064).raise { code := 0x4005, die := 21 + die, detail := [port, prio] }))

def execPauseWatchdogRelease (die port prio : Nat) (s : State) : Host.Outcome State Fault Refusal :=
  .next (
    let k := pauseKey die port prio
    match getT s.net.ignoring k with
    | none => s
    | some t => if pauseOk s die port prio && decide (t + 1000000000 ≤ s.time.mono) then
        touchDesc s { s with net := { s.net with ignoring := delT s.net.ignoring k } } else s)

/-! Frames (R342, R354). -/

/-- Largest payload of a frame of 9,216 B: header of 14 B and check sequence of 4 B apart (R342). -/
def frameMax : Nat := 9198

/-- ARP (0), neighbour discovery (1) and ICMP echo (2): firmware answers on the port, at priority 0 (log entry 150); every other frame is dropped and
counted. -/
def execFirmwareFrame (port kind : Nat) (payload : List Byte) (s : State) : Host.Outcome State Fault Refusal :=
  .next (if 16 ≤ port || !portIsUp s port then s
    else touchDesc s (
      if 2 < kind || frameMax < payload.length then s.viol (port / 4) 2 0x1044
      else if fwUp s then s.sendOn port 0 payload.length (.frame port kind payload) else s))

/-- Line 0: a full allotment or pool (R343); 1 to 3: rows of Table 14.6. -/
def execFrameDrop (die line : Nat) (s : State) : Host.Outcome State Fault Refusal :=
  .next (if 4 ≤ die then s
    else match line with
      | 0 => touchDesc s (s.bump .net die 0x068)
      | 1 => touchDesc s (s.viol die 1 0x05C)
      | 2 => touchDesc s (s.viol die 2 0x1044)
      | 3 => touchDesc s (s.viol die 3 0x1044)
      | _ => s)

/-! Connection setup (R347 to R350). -/

/-- A digest mismatch with a peer (R349). -/
def State.digestMismatch (s : State) (i : Nat) : State :=
  let s : State := { s with net := { s.net with peers := modT s.net.peers i {} (fun e => { e with digok := false, mismatch := e.mismatch + 1 }) } }
  (s.bumpRC .net 0 0x1040 31 16 1).raise { code := 0x4003, detail := [i] }

def State.digestOk (s : State) (i : Nat) : State :=
  if i == 0xFFFFFFFF then s else { s with net := { s.net with peers := modT s.net.peers i {} (fun e => { e with digok := true }) } }

def cmMagic (b : List Byte) : Bool := leAt b 0 4 == 0x4B57434D && leAt b 4 2 == 1

/-- Service ID's lead partition and purpose; none when it names no target of the device. -/
def cmTarget (m : CmMsg) : Option (Nat × Nat) :=
  let x := m.serviceId.toNat
  if x / 65536 == 0x4B570000 && x % 256 ≤ 3 && x / 256 % 256 < 16 then some (x / 256 % 256, x % 256) else none

/-- What R349 and R350 find wrong with a REQ: the REASON, or nothing. `coupled` REQs carry Table 14.4. -/
def reqReason (s : State) (m : CmMsg) (coupled : Bool) : Option Nat :=
  let b := m.priv
  let i := leAt b 8 4
  let e := peer s i
  let target := cmTarget m
  if coupled && digestStale s then some 5
  else if coupled && !cmMagic b then some 0
  else if coupled && !(decide (i < 65536) && e.valid && e.addr == m.src) then some 2
  else if coupled && (b.drop 20).take 32 != couplingDigest s then some 1
  else match target with
    | none => some 3
    | some (lead, purpose) =>
      if (job? s lead).isNone || (coupled && byteAt b 6 != purpose) then some 3
      else if (freeQp s).isNone then some 4 else none

/-- A REQ without MAGIC is accepted for REQUEST and RESPONSE from an uncoupled client while OPENCLIENT is 1. -/
def reqCoupled (s : State) (m : CmMsg) : Bool :=
  let purpose := match cmTarget m with | some (_, p) => p | none => 0
  leAt m.priv 0 4 == 0x4B57434D || !((purpose == 1 || purpose == 2) && regF s .net 0 0x1000 0 0 == 1)

def State.accept (s : State) (m : CmMsg) (coupled : Bool) (lead purpose q : Nat) : State :=
  let i := if coupled then leAt m.priv 8 4 else 0xFFFFFFFF
  let psn := (Config.firstPsn s.free).toNat
  let s := s.modQp q (fun _ => { st := .rtr, job := lead, purpose := purpose, peer := i, rqpn := m.remoteQpn, sndPsn := psn, rcvPsn := m.psn % 2 ^ 24, port := connPort s,
                                 addr := m.src, model := if coupled then leAt m.priv 12 8 else 0, setup := s.time.mono + 1 })
  let s := if purpose == 3 then s.pairAttach lead q i else s
  s.answer q 92 (.cm 1 m.src q m.remoteQpn psn m.serviceId.toNat (cmPriv s lead purpose 0))

def reqMsg (s : State) (m : CmMsg) : State :=
  let coupled := reqCoupled s m
  let (lead, purpose) := (cmTarget m).getD (0, 0)
  match reqReason s m coupled, freeQp s with
  | none, some q => s.accept m coupled lead purpose q
  | r, _ =>
    let reason := r.getD 4
    let s := if reason == 1 then s.digestMismatch (leAt m.priv 8 4) else s
    (s.sendRoce (connPort s) 92 (.cm 3 m.src 0 m.remoteQpn 0 m.serviceId.toNat (cmPriv s lead purpose reason))).viol 0 9 0x1054

/-- Device firmware answers connection management; without a port up nothing arrives. -/
def cmStep (s : State) (f : State) : State := if fwUp s && (somePort s).isSome then touchDesc s f else s

def execReq (m : CmMsg) (s : State) : Host.Outcome State Fault Refusal := .next (cmStep s (reqMsg s m))

/-- A queue pair enters RTS: epochs start at line rate (R353), the peer is coupled again, and what waited for the connection goes on. -/
def State.ready (s : State) (q : Nat) : State :=
  let x := qpOf s q
  let s := (s.modQp q (fun x => { x with st := .rts })).qpMove q x.port
  let s := s.digestOk x.peer
  let s := if x.purpose == 3 then s.pairUp x.job q else s
  if x.purpose == 0 then s.wantedGo x.job x.peer true else s

/-- REP: our REQ is accepted; descriptors that waited for a new connection continue on it (R352). -/
def repMsg (s : State) (m : CmMsg) : State :=
  let q := m.localQpn
  let x := qpOf s q
  if x.st != .init || m.src != x.addr then s.viol 0 9 0x1054
  else
    let s := s.modQp q (fun x => { x with rqpn := m.remoteQpn, rcvPsn := m.psn % 2 ^ 24, model := if cmMagic m.priv then leAt m.priv 12 8 else 0 })
    let s := s.answer q 0 (.cm 2 m.src q m.remoteQpn x.sndPsn m.serviceId.toNat [])
    (s.ready q).resolveQp x.job q 0

def execRep (m : CmMsg) (s : State) : Host.Outcome State Fault Refusal := .next (cmStep s (repMsg s m))

def execRtu (m : CmMsg) (s : State) : Host.Outcome State Fault Refusal :=
  .next (cmStep s (
    let x := qpOf s m.localQpn
    if x.st != .rtr || m.src != x.addr then s.viol 0 9 0x1054 else s.ready m.localQpn))

/-- REJ: the setup has failed. A digest mismatch updates the peer entry. -/
def rejMsg (s : State) (m : CmMsg) (reason : Nat) : State :=
  let q := m.localQpn
  let x := qpOf s q
  if x.st != .init || m.src != x.addr then s
  else
    let s := s.modQp q (fun x => { st := .reset, job := x.job, peer := x.peer })
    let s := if reason == 1 && x.peer != 0xFFFFFFFF then s.digestMismatch x.peer else s
    if x.purpose == 0 then s.wantedGo x.job x.peer false else s

def execRej (m : CmMsg) (reason : Nat) (s : State) : Host.Outcome State Fault Refusal := .next (cmStep s (rejMsg s m reason))

/-! Ports (R340, R341, R351). -/

/-- Lanes of a port in its die's mode (Table 14.1). -/
def portLanes (s : State) (die port : Nat) : List Nat := let n := 4 / diePorts s die; (List.range n).map (fun i => n * port + i)

/-- A port changes state: NET_LINK, NET_LINKCHG and the PF vector 1,024. -/
def State.portSet (s : State) (die port : Nat) (up : Bool) : State :=
  let s := s.setRegF .net die 0x008 port port (b2n up)
  let s := (portLanes s die port).foldl (fun s k => s.setRegF .net die 0x008 (8 + k) (8 + k) (b2n up)) s
  (s.markRC .net die 0x00C port).msix 0 1024

/-- A port goes down: its queue pairs move to one that is up and carry on at their next retransmission. -/
def State.portFall (s : State) (die port : Nat) : State :=
  if !bitN (reg s .net die 0x008) port then s
  else
    let s := s.portSet die port false
    match somePort s with
    | none => s
    | some k => (s.net.qps.filter (fun p => p.2.port == die * 4 + port && p.2.st != .reset)).foldl (fun s p => s.qpMove p.1 k) s

def execPortDown (die port : Nat) (s : State) : Host.Outcome State Fault Refusal :=
  .next (if die < 4 && port < diePorts s die then touchDesc s (s.portFall die port) else s)

/-- A port comes up: queue pairs bound to a port that is down move to it and send again from the first unacknowledged packet. -/
def State.portRise (s : State) (die port : Nat) : State :=
  if bitN (reg s .net die 0x008) port then s
  else
    let s := s.portSet die port true
    let s : State := { s with net := { s.net with trainTries := delT s.net.trainTries (die * 4 + port) } }
    let k := die * 4 + port
    (s.net.qps.filter (fun p => (p.2.port == k || !portIsUp s p.2.port) && p.2.st != .reset)).foldl (fun s p =>
      let s := if p.2.port == k then s else s.qpMove p.1 k
      if p.2.st == .rts && !p.2.rnrWait then s.resend p.1 else s) s

def execPortUp (die port : Nat) (s : State) : Host.Outcome State Fault Refusal :=
  .next (if die < 4 && port < diePorts s die then touchDesc s (s.portRise die port) else s)

/-- Training has failed once more within its 500 ms: the attempt is counted. -/
def execTrainingRetry (die port : Nat) (s : State) : Host.Outcome State Fault Refusal :=
  .next (if die < 4 && port < diePorts s die && !bitN (reg s .net die 0x008) port then
      touchDesc s { s with net := { s.net with trainTries := modT s.net.trainTries (die * 4 + port) 0 (· + 1) } } else s)

end Sys2Proof.Machine
end

