-- ==== Sys2Proof/Machine/Stacks.lean ====
section
/-! DEFINITION. Stack controllers as commands reach them (chapter 09): class change (R209, R210), RAT entries (R214, R215, R85), the repair
interface (R234, R235), refresh (R230, R231, R233), self-refresh (R232) and idle flushes (R226). -/

namespace Sys2Proof.Machine

/-- What a command on the stacks can change: what a descriptor can, and firmware's own state. -/
def touchStk (s t : State) : State := { touchDesc s t with fw := t.fw }

/-! Class change. -/

def hostBelow (s : State) (i : Nat) : Nat := ((List.range i).filter (fun k => !isCremaIdx s k)).length

/-- R209: the result code of a class change, 0 when it is accepted. -/
def classCheck (s : State) (i : Nat) (crema : Bool) : Nat :=
  let nh := ((List.range 4).filter (fun k => if k == i then !crema else !isCremaIdx s k)).length
  if s.stk.fill.isSome then 1
  else if nh == 0 then 2
  else if (ratAll s).any (fun e => e.window == 1 && decide (e.base < (i + 1) * 2 ^ 28) && decide (i * 2 ^ 28 < e.base + e.size)) then 3
  else if (ratAll s).any (fun e => e.window == 0 && decide (hostBelow s i * 0x5000000000 < e.base + e.size)) then 4
  else 0

/-- An accepted change flushes the buffered bytes of the index and begins the fill (R210); a refused one changes nothing but RESULT. -/
def State.classChange (s : State) (i : Nat) (crema : Bool) : Nat × State :=
  let r := classCheck s i crema
  let s := s.setReg .stkc 0 4 (setFld (setFld (setFld (reg s .stkc 0 4) 10 8 r) 4 4 (b2n crema)) 1 0 i)
  if r != 0 then (r, s)
  else
    let s := s.flushWhere (fun e => keyBg (64 * e.seg) == i)
    let s := (List.range 20).foldl (fun s k => s.setRegF .stk k 0x008 2 2 1) (s.setRegF .stkc 0 4 30 30 1)
    (0, { s with stk := { s.stk with fill := some (i, crema) } })

def execStkClasschg (cls : RClass) (index : Nat) (crema : Bool) (s : State) : Host.Outcome State Fault Refusal :=
  .next (if grdClass s cls then touchStk s (s.classChange (index % 4) crema).2 else s)

/-- The fill ends: the index holds zero and has its new class; event 0x1007 (R210). -/
def execClassFillDone (s : State) : Host.Outcome State Fault Refusal :=
  .next (match s.stk.fill with
    | none => s
    | some (i, crema) =>
      let t : State := { s with
        mem := { s.mem with dram := s.mem.dram.filter (fun c => keyBg c.1 != i), synd := s.mem.synd.filter (fun c => keyBg (16 * c.1) != i) },
        stk := { s.stk with fill := none } }
      let t := (List.range 20).foldl (fun t k => t.setRegF .stk k 0x008 2 2 0) ((t.setRegF .stkc 0 4 30 30 0).setRegF .stkc 0 4 10 8 0)
      let t := t.fwSet .stkc 0 0 (setFld (reg t .stkc 0 0) i i (b2n crema))
      touchStk s ((t.raise { code := 0x1007 }).commitCfg))

/-! RAT entries. -/

/-- Do two entries of one window overlap (R215)? -/
def ratMeet (a b : RatEnt) : Bool :=
  a.window == b.window && decide (a.base < b.base + b.size) && decide (b.base < a.base + a.size) &&
  (a.window == 0 || Nat.land a.pcsel b.pcsel != 0)

/-- May the entry be valid beside the others (R215)? -/
def ratAllowed (s : State) (e : RatEnt) : Bool :=
  e.size != 0 &&
  (if e.window == 0 then
     decide (e.base + e.size ≤ spreadTop s) && !bitN e.perm 6 && !e.dig && e.pcsel == 0
   else
     decide (e.base + e.size ≤ 2 ^ 30) && !e.nopat && e.pcsel != 0 &&
     (List.range 4).all (fun i => decide (e.base + e.size ≤ i * 2 ^ 28) || decide ((i + 1) * 2 ^ 28 ≤ e.base) || isCremaIdx s i)) &&
  (ratAll s).all (fun x => x.n == e.n || !ratMeet x e)

/-- Does the RAT still give a loaded program its image and the memory its tensors reach (R85)? -/
def progFits (s : State) (lead : Nat) (j : Job) (p : Prog) : Bool :=
  let img := peek s p.image p.size
  let x : VX := { s := s, j := j, lead := lead, p := p, img := img, seqs := p.descs.map (seqOf p img) }
  rangeOk s 0 j.parts p.image p.size &&
  p.tens.zipIdx.all (fun (w, t) =>
    TV.irel w || decide (1 < TV.space w) ||
    (x.refs t).all (fun (i, k, u) => (permNeeds x i k u).all (fun q =>
      (reachRuns w).all (fun v => rangeOk s q.1 j.parts (v.1 + q.2).toNat (v.2 - v.1 + 1).toNat))))

def allFit (s : State) : Bool := s.jobs.all (fun (l, j) => j.progs.all (progFits s l j))

/-- Words of a RAT entry (Table 09.10). -/
def ratWords (f : RatFields) (valid : Bool) : List Nat :=
  [b2n valid * 2 ^ 31 + f.window % 2 * 2 ^ 30 + f.owner % 16 * 2 ^ 24 + b2n f.nopat * 2 ^ 17 + b2n f.dig * 2 ^ 16 + f.perm % 128,
   f.base % 2 ^ 32, f.base / 2 ^ 32 % 65536, f.size % 2 ^ 20, f.pcsel % 65536]

/-- Device firmware writes words of entry n. -/
def State.ratPut (s : State) (n : Nat) (ws : List Nat) : State :=
  ws.zipIdx.foldl (fun s (w, i) => s.fwSet .stkc 0 (0x800 + 32 * n + 4 * i) w) s

/-- May entry n take these words: valid as R215 wants, and nothing lost that a loaded program needs? -/
def ratChangeOk (s : State) (n : Nat) (ws : List Nat) : Bool :=
  let t := s.ratPut n ws
  let e := ratEnt t n
  (!e.valid || ratAllowed t e) && (!(ratEnt s n).valid || allFit t)

/-- A write of one word of a RAT entry; one that would break R215 is dropped (R237). -/
def execRatEntryWrite (cls : RClass) (n word : Nat) (value : Word) (s : State) : Host.Outcome State Fault Refusal :=
  .next (
    let off := 0x800 + 32 * n + 4 * word
    let ws := (List.range 5).map (fun i => reg s .stkc 0 (0x800 + 32 * n + 4 * i))
    let m := match findReg .stkc off with | some r => maskOf r.fields | none => 0
    let ws := ws.set word (Nat.land value.toNat m)
    if !grdClass s cls || 64 ≤ n || 5 ≤ word || !ratChangeOk s n ws then s else touchStk s ((s.ratPut n ws).commitCfg))

/-! The repair interface. -/

def inMaint (s : State) (stack : Nat) : Bool := bitN (reg s .stk stack 0x008) 0

/-- The segment that STK_RPR_ADDR names, as a physical key. -/
def rprKey (s : State) (stack : Nat) : Nat :=
  let a := reg s .stk stack 0x104
  (stack * 64 + fld a 29 24) * 2 ^ 30 + fld a 21 20 * 2 ^ 28 + fld a 17 4 * 2 ^ 14 + fld a 23 22 * 2 ^ 12 + fld a 19 18 * 2 ^ 10 + fld a 3 0 * 64

def spares (s : State) (bank : Nat) : List Spare := (getT s.stk.repair bank).getD []
def spareFree (s : State) (bank : Nat) : Option Nat := (List.range 8).find? (fun i => !(spares s bank).any (·.slot == i))

/-- First byte of a row: bank, row. -/
def rowKey (bank row : Nat) : Nat :=
  bank / 64 * 2 ^ 30 + bank % 64 / 16 * 2 ^ 28 + row * 2 ^ 14 + bank % 16 / 4 * 2 ^ 12 + bank % 4 * 2 ^ 10

/-- A row whose cells have changed reads unspecified bits until it is rewritten (R235). -/
def State.rowLost (s : State) (bank row : Nat) : State :=
  let k := rowKey bank row
  let bs := (List.range 1024).map (fun i => Config.freeByte s.free (k + i))
  let synd := (List.range 64).foldl (fun t i =>
    let v := (Config.freeWord s.free (2 ^ 42 + k + i)).setWidth 16
    if v == 0#16 then delT t (k / 16 + i) else putT t (k / 16 + i) v) s.mem.synd
  { s with mem := { s.mem with dram := putBs s.mem.dram k bs, synd := synd } }

def State.setSpares (s : State) (bank : Nat) (l : List Spare) : State := { s with stk := { s.stk with repair := putT s.stk.repair bank l } }

/-- SOFT_ROW: a free spare serves the row (R234); RESULT 1 without one. -/
def State.softRow (s : State) (bank row : Nat) (hard : Bool) : Nat × State :=
  match spareFree s bank with
  | none => (1, s)
  | some i => (0, (s.setSpares bank (spares s bank ++ [⟨i, row, hard⟩])).rowLost bank row)

/-- HARD_ROW: as SOFT_ROW, or the row's soft repair made permanent; without verified fuses the repair stays soft, RESULT 4. -/
def State.hardRow (s : State) (bank row : Nat) (fuseOk : Bool) : Nat × State :=
  if (spares s bank).any (fun x => x.row == row && !x.hard) then
    (if fuseOk then 0 else 4,
     (s.setSpares bank ((spares s bank).map (fun x => if x.row == row then { x with hard := x.hard || fuseOk } else x))).rowLost bank row)
  else
    let (r, s) := s.softRow bank row fuseOk
    (if r == 0 && !fuseOk then 4 else r, s)

def State.clearSoft (s : State) (bank : Nat) : State :=
  let gone := (spares s bank).filter (fun x => !x.hard)
  gone.foldl (fun s x => s.rowLost bank x.row) (s.setSpares bank ((spares s bank).filter (·.hard)))

/-- Stored check or spare bits of a word. -/
def rawSpare (s : State) (w : Nat) : Nat :=
  if isHostKey s (16 * w) then Nat.xor (bchCheck (wordData s.mem w)) (syndOf s.mem w) else syndOf s.mem w

/-- Segment and spare bytes as they are stored (R234). -/
def rawRead (s : State) (k : Nat) : List Word :=
  bytesWords 16 (getBs s.mem.dram k 64) ++
  [0, 1].map (fun b => BitVec.ofNat 32 (rawSpare s (k / 16 + 2 * b) + rawSpare s (k / 16 + 2 * b + 1) * 65536))

def State.rawWrite (s : State) (k : Nat) (ws : List Word) : State :=
  let s : State := { s with mem := { s.mem with dram := putBs s.mem.dram k (wordsBytes (ws.take 16)) } }
  let synd := (List.range 4).foldl (fun t i =>
    let v := wfld (wAt ws (16 + i / 2)) (if i % 2 == 0 then 15 else 31) (if i % 2 == 0 then 0 else 16)
    let y := if isHostKey s k then Nat.xor (bchCheck (wordData s.mem (k / 16 + i))) v else v
    if y == 0 then delT t (k / 16 + i) else putT t (k / 16 + i) (BitVec.ofNat 16 y)) s.mem.synd
  { s with mem := { s.mem with synd := synd } }

/-- A repair command: CODE is stored, `f` answers RESULT, then FREE counts the addressed bank's spares. INDEX belongs to READ_MAP; the other commands
leave it as it stands. -/
def rprRun (s : State) (cls : RClass) (stack code : Nat) (f : State → Nat → Nat × State) : State :=
  if !grdClass s cls || 20 ≤ stack then s
  else
    let s1 := s.setRegF .stk stack 0x100 2 0 code
    let k := rprKey s1 stack
    let (r, t) := f s1 k
    touchStk s (t.setReg .stk stack 0x108 ((8 - (spares t (keyBankId k)).length) * 256 + r))

def execRprNop (cls : RClass) (stack : Nat) (s : State) : Host.Outcome State Fault Refusal :=
  .next (rprRun s cls stack 0 (fun t _ => (0, t)))
def execReadMap (cls : RClass) (stack index : Nat) (s : State) : Host.Outcome State Fault Refusal :=
  .next (rprRun s cls stack 1 (fun t k =>
    let t := t.setRegF .stk stack 0x100 7 3 (index % 32)
    if 8 ≤ index % 32 then (3, t)
    else (0, t.setReg .stk stack 0x140 (match (spares t (keyBankId k)).find? (·.slot == index % 32) with
      | some x => 2 ^ 31 + b2n x.hard * 2 ^ 30 + x.row
      | none => 0))))
def execSoftRow (cls : RClass) (stack : Nat) (s : State) : Host.Outcome State Fault Refusal :=
  .next (rprRun s cls stack 2 (fun t k => t.softRow (keyBankId k) (keyRow k) false))
def execHardRow (cls : RClass) (stack : Nat) (fuseOk : Bool) (s : State) : Host.Outcome State Fault Refusal :=
  .next (rprRun s cls stack 3 (fun t k => if inMaint t stack then t.hardRow (keyBankId k) (keyRow k) fuseOk else (2, t)))
def execClearSoft (cls : RClass) (stack : Nat) (s : State) : Host.Outcome State Fault Refusal :=
  .next (rprRun s cls stack 4 (fun t k => (0, t.clearSoft (keyBankId k))))
def execRawRead (cls : RClass) (stack : Nat) (s : State) : Host.Outcome State Fault Refusal :=
  .next (rprRun s cls stack 5 (fun t k =>
    if inMaint t stack then (0, (rawRead t k).zipIdx.foldl (fun t (w, i) => t.setReg .stk stack (0x140 + 4 * i) w.toNat) t) else (2, t)))
def execRawWrite (cls : RClass) (stack : Nat) (s : State) : Host.Outcome State Fault Refusal :=
  .next (rprRun s cls stack 6 (fun t k =>
    if inMaint t stack then (0, t.rawWrite k ((List.range 18).map (fun i => BitVec.ofNat 32 (reg t .stk stack (0x140 + 4 * i))))) else (2, t)))

/-! Refresh. -/

/-- A bank's refresh falls due (R230, R231): in a gap it is done, with a postponed one paid back; otherwise it is postponed. With more than 8 held a
refresh break resolves it (R254). -/
def execRefresh (pc bank : Nat) (gap : Bool) (s : State) : Host.Outcome State Fault Refusal :=
  .next (
    let b := pc * 64 + bank % 64
    if 1280 ≤ pc then s else if gap then touchStk s (s.payBack b) else touchStk s (s.postpone b 1))

/-- The end of a pseudo-channel's refresh window: postponed refreshes, targeted ones among them, have been paid back (R231), and the activation tables
are cleared (R233). -/
def execRefreshWindowEnd (pc : Nat) (s : State) : Host.Outcome State Fault Refusal :=
  .next (
    let t := ((List.range 64).map (pc * 64 + ·)).foldl State.targetAll s
    touchStk s { t with stk := { t.stk with act := t.stk.act.filter (fun e => e.1 / 64 != pc),
                                            postponed := t.stk.postponed.filter (fun e => e.1 / 64 != pc) } })

/-- An entry with no write for 2 µs is flushed (R226). -/
def execWcbIdleFlush (stack seg : Nat) (s : State) : Host.Outcome State Fault Refusal :=
  .next (match s.mem.wcb.find? (fun e => e.stack == stack && e.seg == seg) with
    | none => s
    | some e => if e.last + 2000 ≤ s.time.now then touchStk s (s.flushEntry e) else s)

/-! Self-refresh (R232). -/

def stackIdle (s : State) : Bool :=
  s.jobs.isEmpty && decide (s.stk.lastAccess + 10000000 ≤ s.time.mono) && s.parts.all (fun (_, q) => decide (q.freeSince + 10000000 ≤ s.time.mono))

/-- Every write-combining entry is flushed, then the stacks enter self-refresh. -/
def State.selfRefresh (s : State) : State :=
  let s := s.flushWhere (fun _ => true)
  (List.range 20).foldl (fun s k => s.setRegF .stk k 0x008 1 1 1) s

def execSelfRefreshEntry (s : State) : Host.Outcome State Fault Refusal :=
  .next (if stackIdle s then touchStk s s.selfRefresh else s)

/-- Device firmware brings a trained stack out of self-refresh. -/
def execSelfRefreshExit (stack : Nat) (s : State) : Host.Outcome State Fault Refusal :=
  .next (if stack < 20 && bitN (reg s .stk stack 0x008) 3 && fwUp s then touchStk s (s.setRegF .stk stack 0x008 1 1 0) else s)

end Sys2Proof.Machine
end

