-- ==== Sys2Proof/Machine/Resil.lean ====
section
/-! DEFINITION. Scrubbing and repair outside descriptors (chapter 15): patrol (R376), row repair (R368), what an uncorrectable word costs by its
location (R372, Table 15.3), disabled Crema units (R374), and run-time remap tables (R371). -/

namespace Sys2Proof.Machine

def touchRes (s t : State) : State := { touchStk s t with sramRemap := t.sramRemap, sramFixed := t.sramFixed, fatal := t.fatal }

/-! Where a physical location lies in the spread window: the inverse of R211. -/

def keySpread (s : State) (k : Nat) : Option Nat :=
  match (hostIdxs s).idxOf? (keyBg k) with
  | none => none
  | some n =>
    let line := n * 1048576 + keyRow k * 64 + k % 1024 / 256 * 16 + keySid k * 4 + keyBank k
    let h := Nat.xor (Nat.xor line (line / 32)) (line / 2048)
    some ((line * 1280 + (keyPc k + 1280 - h % 1280) % 1280) * 256 + k % 256)

/-! Row repair (R368). -/

def day : Nat := 86400000000000

/-- Rows by bank and row of a physical key. -/
def rowOf (k : Nat) : Nat × Nat := (keyBankId k, keyRow k)

/-- Does R368 call for the repair of a host-class row? -/
def repairDue (s : State) (bank row : Nat) : Bool :=
  let mine (k : Nat) : Bool := rowOf k == (bank, row)
  let hits := s.stk.corrLog.filter (fun x => mine (16 * x.1) && decide (s.time.now ≤ x.2.2 + day))
  hits.any (fun x => 1 < (hits.filter (fun y => y.1 == x.1 && y.2.1 == x.2.1)).length) ||
  decide (3 ≤ (hits.map (·.1)).dedup.length) ||
  s.fw.ueSegs.any (fun x => mine (64 * x.1) && decide (s.time.mono ≤ x.2 + day))

/-- The row's 16 segments are read with correction, a spare takes the row, and they are written back; an uncorrectable word is poisoned. -/
def State.repairRow (s : State) (bank row : Nat) : State :=
  let k := rowKey bank row
  match spareFree s bank with
  | none => s.raise { code := 0x100C, die := 1 + keyStack k }
  | some i =>
    let bad := (List.range 64).filter (fun w => wordFind s.mem (k / 16 + w) == .bad)
    let bs := ((List.range 64).map (fun w => match wordFind s.mem (k / 16 + w) with
      | .corr a b => natBytes 16 (bchFlip (wordData s.mem (k / 16 + w)) (.corr a b))
      | _ => getBs s.mem.dram (k + 16 * w) 16)).flatten
    let s := s.setSpares bank (spares s bank ++ [⟨i, row, false⟩])
    let s : State := { s with
      mem := { s.mem with dram := putBs s.mem.dram k bs,
                          synd := bad.foldl (fun t w => putT t (k / 16 + w) poison) (clearSynd s.mem.synd k 1024) },
      fw := { s.fw with softRows := s.fw.softRows ++ [(bank, row)] } }
    s.raise { code := 0x100B, die := 1 + keyStack k }

/-- FW_ROW_REPAIR of a row: `rowNo` is its bank in the pseudo-channel * 2^14 + row. -/
def execFwRowRepair (pc rowNo : Nat) (s : State) : Host.Outcome State Fault Refusal :=
  .next (
    let bank := pc * 64 + rowNo / 2 ^ 14
    let row := rowNo % 2 ^ 14
    if 1280 ≤ pc || 2 ^ 20 ≤ rowNo || !fwUp s || isCremaIdx s (bank % 64 / 16) || !repairDue s bank row then s
    else touchRes s (s.repairRow bank row))

/-! What an uncorrectable word costs (Table 15.3). -/

inductive UeLoc where
  | batch
  | plain
  | openBuf (i : Nat)
  | table
  | tokens
  | entry (n : Nat)
  | adapters (is : List Nat)
  | rings (ks : List Nat)
  | image (id : Word)
  | record (pc f : Nat)
  | digtab (n b : Nat)
  | scratch
  | refetch (n b : Nat)
  | none_
  deriving DecidableEq, Repr

def inArea (a base size : Nat) : Bool := decide (base ≤ a) && decide (a < base + size)

/-- The RAT entry that holds a device address. -/
def ratOf (s : State) (a : Nat) : Option RatEnt :=
  (ratAll s).find? (fun e => if a < bankBase then e.window == 0 && inArea a e.base e.size
    else e.window == 1 && inArea ((a - bankBase) % 2 ^ 30) e.base e.size && bitN e.pcsel ((a - bankBase) / 2 ^ 30 % 16))

/-- By region class (Table 15.4). -/
def ueRegion (s : State) (a : Nat) : UeLoc :=
  match ratOf s a with
  | none => .none_
  | some e => match (classRec s e.n).cls with
    | 1 => .scratch
    | 2 => .refetch e.n ((a - e.base) / 0x100000)
    | _ => .none_

/-- Sealed region whose digest table holds the address: region, first block of the segment. -/
def ueDigtab (s : State) (a : Nat) : Option (Nat × Nat) :=
  (s.fw.sealedR.find? (fun n => inArea a (classRec s n).digtab (32 * regionBlocks (ratEnt s n)))).map (fun n => (n, (a - (classRec s n).digtab) / 64 * 2))

/-- Location of a spread address as a job sees it. -/
def ueLoc (s : State) (j : Job) (a : Nat) : UeLoc :=
  let g := j.cfg
  let x := a / 64 * 64
  if inArea a g.btBuf 0x200000 || inArea a g.inTok 0x40000 then .batch
  else if inArea a g.outTok 0x10000 || inArea a g.cArea 0x4000000 || inArea a g.stepRing (64 * g.nStepRec) then .plain
  else if inArea a g.openPool (g.nOpen * g.obuf) then .openBuf ((a - g.openPool) / max g.obuf 1)
  else if inArea a g.rootPool (1024 * g.nRoot) || inArea a g.pagePool (4096 * g.nPage) then .table
  else if inArea a g.tlPool (16384 * g.nTlPage) then .tokens
  else if inArea a g.reqTab (65536 * 128) then .entry ((a - g.reqTab) / 128)
  else if inArea a g.adapTab (65536 * 32) then .adapters [(x - g.adapTab) / 32, (x - g.adapTab) / 32 + 1]
  else if inArea a g.packPool (g.nPack * packSize j) then
    let pk := (a - g.packPool) / max (packSize j) 1
    .adapters ((List.range 65536).filter (fun i => adapState (adap s j i) != 0 && addrAt (adap s j i) 4 == packAddr j pk))
  else if inArea a g.respTab (256 * 32) then .rings [(x - g.respTab) / 32, (x - g.respTab) / 32 + 1]
  else match j.progs.find? (fun p => inArea a p.image p.size) with
    | some p => .image p.id
    | none =>
      let per := (1 + g.demote) * g.layers * 32
      if inArea a g.digestBase (npc j * g.nFrame * per) then
        let i := (a - g.digestBase) / max per 1
        .record (pcAt j (i / max g.nFrame 1)) (i % max g.nFrame 1)
      else match ueDigtab s a with
        | some (n, b) => .digtab n b
        | none => ueRegion s a

/-- The whole 64-byte segment is written with zero and fresh check bits (R372). -/
def State.zeroSeg (s : State) (a : Nat) : State :=
  match stackKey s (a / 64 * 64) with
  | some k => s.putSegs k (zeros 64)
  | none => s

/-- Sequences with anything of theirs at the address. -/
def seqsAt (s : State) (j : Job) (a : Nat) : UeLoc → List Nat
  | .openBuf i => (((jobSlots j).filter (fun x => decide (x.openBuf ≤ i) && decide (i < x.openBuf + x.nbuf))).map (·.req) ++
      reqsWhere s j (fun e => (entActive e || entState e == 5) && entOpen e == some i)).dedup
  | .table => (((jobSlots j).filter (fun x => inArea a (rootAddr j x.snap) 1024 || (rootPages s (rootAddr j x.snap)).any (fun q => inArea a q 4096))).map (·.req) ++
      reqsWhere s j (fun e => (entActive e || entState e == 5) && (inArea a (entRoot e) 1024 || (rootPages s (entRoot e)).any (fun q => inArea a q 4096)))).dedup
  | .tokens => reqsWhere s j (fun e => (entActive e || entState e == 5) &&
      (inArea a (entTlog e) 16384 || (List.range 256).any (fun i => match tlPage s (entTlog e) i with | some q => inArea a q 16384 | none => false)))
  | .adapters is => reqsWhere s j (fun e => entActive e && is.contains (wfld (wAt e 3) 31 16) && wfld (wAt e 3) 31 16 != 0)
  | _ => []

/-- The loss reaches sequences: in a step that will be retried their slots are voided, otherwise it waits for the next formation or commit. -/
def State.strike (s : State) (lead : Nat) (step : Option Nat) (ns : List Nat) (kind : Nat) : State :=
  s.modJob lead (fun j =>
    let inStep (n : Nat) : Bool := match step.bind (runOf j) with | some r => r.slots.any (fun x => x.req == n) | none => false
    let j := match step with
      | none => j
      | some no => j.modRun no (fun (r : StepRun) => { r with slots := r.slots.map (fun (x : Slot) => if ns.contains x.req && !x.voided then { x with voided := true, lost := some kind } else x) })
    { j with struck := j.struck ++ ((ns.filter (fun n => !inStep n)).map (fun n => (n, kind))).filter (fun p => !j.struck.contains p) })

/-- A chunk whose digest record is lost is treated as a mismatch (Table 15.3). -/
def State.recordLost (s : State) (lead pc f : Nat) : State :=
  let j := jobD s lead
  let hit := (reqsWhere s j (fun e => entActive e || entState e == 5)).map (fun n =>
    ((List.range (entLen (ent s j n) / 64)).filter (fun k => match entryAt s (entRoot (ent s j n)) k with
      | some b => b.st == 1 && b.pc == pc && b.frame == f
      | none => false)).map (fun k => (n, k)))
  hit.flatten.foldl (fun s (n, k) => s.chunkMismatch lead n k) s

/-- Batch tables and input tokens are written again from Barista's own state. -/
def State.rewriteBatch (s : State) (lead : Nat) : State :=
  let j := jobD s lead
  let runs := (j.runs.filter (fun r => r.trunc.isNone)) ++ j.formed.toList
  let s := runs.foldl (fun s r => s.writeBatch lead r) s
  (runs.filter (·.launched)).foldl (fun s r => r.slots.foldl (fun s x => s.writeInTok lead x) s) s

def State.unload (s : State) (lead : Nat) (id : Word) : State :=
  s.modJob lead (fun j => { j with progs := if progBusy j id then j.progs.map (fun p => if p.id == id then { p with closing := true } else p)
                                           else j.progs.filter (·.id != id) })

/-- The loss at a location, with the action that resolves a fault there: 1 RETRY, 2 FAIL, none when it waits for a refetch. `step` is the step whose
read faulted. -/
def State.ueLoss (s : State) (lead a : Nat) (step : Option Nat) : UeLoc → Option Nat × State
  | .batch => (some 1, (s.zeroSeg a).rewriteBatch lead)
  | .plain => (some 1, s.zeroSeg a)
  | .openBuf i => (some 1, (s.strike lead step (seqsAt s (jobD s lead) a (.openBuf i)) 0).zeroSeg a)
  | .table => (some 1, (s.strike lead step (seqsAt s (jobD s lead) a .table) 1).zeroSeg a)
  | .tokens => (some 1, (s.strike lead step (seqsAt s (jobD s lead) a .tokens) 2).zeroSeg a)
  | .entry n =>
    let s := if entState (ent s (jobD s lead) n) == 0 then s else (s.freeSeq lead n).modJob lead (·.void n)
    (some 1, ((s.zeroSeg (reqAddr (jobD s lead) n)).zeroSeg (reqAddr (jobD s lead) n + 64)).baristaEv lead 0x100E)
  | .adapters is =>
    let s := s.strike lead step (seqsAt s (jobD s lead) a (.adapters is)) 4
    let s := is.foldl (fun s i => if adapState (adap s (jobD s lead) i) == 0 then s else s.returnOne lead (.adapter i)) s
    (some 1, s.zeroSeg a)
  | .rings ks => (some 1, ks.foldl (fun s k => s.ringDead lead k 0) (s.zeroSeg a))
  | .image id => (some 2, (s.unload lead id).raise { code := 0x100E, part := some lead, detail := [id.toNat] })
  | .record pc f => (some 1, (s.recordLost lead pc f).zeroSeg a)
  | .digtab n b => (none, ((s.zeroSeg a).fetchBlock n b).fetchBlock n (b + 1))
  | .scratch => (some 1, s.zeroSeg a)
  | .refetch n b => (none, if fetching s n b then s else s.fetchBlock n b)
  | .none_ => (some 2, s)

/-- An uncorrectable word found outside a step, by patrol or by Barista (right-hand column of Table 15.3). -/
def State.ueFind (s : State) (a : Nat) : State :=
  let lead := match s.jobs.find? (fun (_, j) => ueLoc s j a != ueRegion s a) with
    | some (l, _) => some l
    | none => (ratOf s a).bind (ownerLead s)
  let loc := match lead.bind (job? s) with | some j => ueLoc s j a | none => ueRegion s a
  match loc with
  | .none_ => s.raise { code := 0x100E, detail := [a % 2 ^ 32, a / 2 ^ 32] }
  | .image id =>
    let l := lead.getD 0
    let runs := (jobD s l).runs.filter (fun r => r.prog == id)
    (runs.foldl (fun s r => s.failStep l r.no) s).ueLoss l a none (.image id) |>.2
  | loc => (s.ueLoss (lead.getD 0) a none loc).2

/-! Patrol (R376). -/

/-- The segment that a stack's scrubber comes to: pseudo-channel by pseudo-channel, in address order. -/
def patrolKey (stack n : Nat) : Nat := (stack * 64 + n / 2 ^ 24) * 2 ^ 30 + n % 2 ^ 24 * 64

/-- Is the segment patrolled: host class, in a spread region without NOPAT, not held in a write-combining entry? -/
def patrolled (s : State) (k : Nat) : Bool :=
  isHostKey s k && (wcbIdx s.mem (k / 64)).isNone && fillIdx s != some (keyBg k) &&
  (match keySpread s k with
   | some a => (ratAll s).any (fun e => e.window == 0 && !e.nopat && inArea a e.base e.size)
   | none => false)

def State.patrolSeg (s : State) (k : Nat) : State :=
  (List.range 4).foldl (fun s i =>
    let w := k / 16 + i
    match wordFind s.mem w with
    | .clean => s
    | .corr a b => s.correct w (.corr a b)
    | .bad =>
      let s := (s.noteUe w).raise { code := 0x1005, die := 1 + keyStack k, detail := [keyPc k, k % 2 ^ 30] }
      match keySpread s (16 * w) with
      | some a => { s with fw := { s.fw with ueSegs := s.fw.ueSegs ++ [(k / 64, s.time.mono)] } : State }.ueFind a
      | none => s) (s.activate k)

/-- The scrubber of a stack goes one segment on; a segment outside its work is passed over. -/
def execPatrolRead (stack : Nat) (s : State) : Host.Outcome State Fault Refusal :=
  .next (
    let n := (getT s.stk.patrol stack).getD 0
    let k := patrolKey stack n
    if 20 ≤ stack || s.fw.patrolRate == 0 || bitN (reg s .stk stack 0x008) 1 || bitN (reg s .stk stack 0x008) 0 || s.fatal then s
    else
      let t : State := { s with stk := { s.stk with patrol := putT s.stk.patrol stack ((n + 1) % 2 ^ 30) } }
      touchRes s (if patrolled t k then t.patrolSeg k else t))

def execDigestScrub (region : Bool) (a b : Nat) (second : Bool) (s : State) : Host.Outcome State Fault Refusal :=
  .next (if s.fatal then s else touchRes s (scrub s region a b second))

/-! Crema units (R374). -/

/-- The unit is disabled: chunks in its pseudo-channel are dropped, its frames leave the free lists. -/
def State.disableUnit (s : State) (pc : Nat) : State :=
  let s : State := { s.modUnit pc (fun u => { u with disabled := true }) with fw := { s.fw with unitsOff := s.fw.unitsOff.filter (· != pc) ++ [pc] } }
  let s := match (part s (pc % 16)).lead with
    | none => s
    | some lead =>
      let j := jobD s lead
      let hit := ((reqsWhere s j (fun e => entActive e || entState e == 5)).map (fun n =>
        ((List.range (entLen (ent s j n) / 64)).filter (fun k => match entryAt s (entRoot (ent s j n)) k with
          | some b => b.st == 1 && b.pc == pc
          | none => false)).map (fun k => (n, k)))).flatten
      hit.foldl (fun s (n, k) => s.loseChunk lead n k) s
  s.raise { code := 0x2003, die := 1 + pc / 64, detail := [pc] }

/-- Resolution of a pending fault 0x1002 or 0x2002 (Table 15.3, R374), or another try at the block of a digest fault. -/
def resolveUe (s : State) (p : Nat) (f : PFault) : State :=
  if f.code == 0x2002 then
    let pc := nAt f.words 6 % 2048
    let u := cunit s pc
    if u.disabled then s.resolve p f 2
    else
      let again : Bool := match u.badRows.getLast? with
        | some (r, _) => decide (1 < (u.badRows.filter (fun x => x.1 == r && decide (s.time.mono ≤ x.2 + day))).length)
        | none => false
      (if again then s.disableUnit pc else s).resolve p f 1
  else if f.code == 0x1003 then
    match ratOf s f.addr with
    | some e =>
      let o := (f.addr - bankBase) % 2 ^ 30 - e.base
      let b := (regionPcs e).idxOf ((f.addr - bankBase) / 2 ^ 30) * blocksPer e + o / 0x100000
      if fetching s e.n b then s else s.fetchBlock e.n b
    | none => s
  else
    let lead := f.d.lead
    let j := jobD s lead
    let seg := ((stackKey s f.addr).getD 0) / 64
    let s := if s.fw.ueSegs.any (fun x => x.1 == seg && decide (s.time.mono ≤ x.2 + day)) && isHostKey s (64 * seg) then s.repairRow (rowOf (64 * seg)).1 (rowOf (64 * seg)).2 else s
    let s : State := { s with fw := { s.fw with ueSegs := s.fw.ueSegs ++ [(seg, s.time.mono)] } }
    let loc := ueLoc s j f.addr
    let (act, s) := s.ueLoss lead f.addr (some f.d.step) loc
    match act with
    | none => s
    | some a =>
      let s := s.resolve p f a
      match loc with
      | .none_ => (s.holdJob lead).raise { code := 0x100E, part := some lead, detail := [f.addr % 2 ^ 32, f.addr / 2 ^ 32] }
      | .image id => s.unload lead id
      | _ => s

/-- Uncorrectable words that firmware and Barista met in reads of their own are dealt with (R373). -/
def State.ueFinds (s : State) : State :=
  s.stk.finds.foldl State.ueFind ({ s with stk := { s.stk with finds := [] } } : State)

/-- FW_UE_RESOLVE of pending fault k of partition p, after the finds that wait (log entry 151). -/
def execFwUeResolve (p k : Nat) (s : State) : Host.Outcome State Fault Refusal :=
  .next (if !fwUp s then s
    else
      let t := s.ueFinds
      touchRes s (match (part t p).faults[k]? with
        | none => t
        | some f => if (f.code == 0x1002 || f.code == 0x2002 || f.code == 0x1003) && !suspending t p then resolveUe t p f else t))

/-! Remap tables (R371, Table 15.2). -/

/-- Entries of a memory's remap table; none for a memory without one. -/
def remapEntries : SramKind → Option Nat
  | .mgtMem => some 32 | .retention => some 8 | .flagStore => some 8 | .qpStore => some 32 | .keyTables => some 16 | .barista => some 8 | _ => none

/-- Barista's state and the flag stores have one instance per partition; of the flag stores' table there is one. -/
def sameTable (k : SramKind) (a b : Nat) : Bool := match k with | .barista => a == b | _ => true

/-- Entries of a flag table other than those of a unit of 512 flags. -/
def outUnit (u : Nat) (t : Tbl FlagVal) : Tbl FlagVal := t.filter (fun e => e.1 / 512 != u)

/-- A device-fatal error (R391): DEPART FAULT on every pair, nothing more is formed or committed. -/
def State.deviceFatal (s : State) : State :=
  if s.fatal then s
  else
    let s := s.jobs.foldl (fun s (l, j) => if pairLive j then s.decant l 5 3 0 0 0 [] j.lastEnd none else s) s
    let s := s.raise { code := 0x9001 }
    let s := (s.setRegF .glb 0 0x004 3 0 4).setRegF .mgt 0 0x000 3 0 4
    { s with fatal := true }

/-- What an uncorrectable unit costs. -/
def State.sramLoss (s : State) (k : SramKind) (inst unit : Nat) (remapped : Bool) : State :=
  match k with
  | .mgtMem => if remapped then s else s.deviceFatal
  | .retention => { s with fw := { s.fw with retBad := true } }
  | .flagStore => s.modJob inst (fun j => { j with
      flags := outUnit unit j.flags, changes := j.changes.filter (fun c => c.flag / 512 != unit),
      runs := j.runs.map (fun r => { r with flags := outUnit unit r.flags, changes := r.changes.filter (fun c => c.flag / 512 != unit) }) })
  | .qpStore => (s.qpError unit true).settleNet
  | .keyTables => s
  | .barista => match job? s inst with | some _ => s.holdJob inst | none => s
  | .scratchpad => s.putScratch inst (8 * unit) (zeros 8)
  | .accStore => { s with mem := { s.mem with acc := s.mem.acc.map (fun e => if e.1 / 2 == inst * 131072 + unit then (e.1, { e.2 with val := 0#32 }) else e) } }
  | .partBuf => s.putPbuf inst (8 * unit) (zeros 8)
  | .debugBuf => s

/-- An error in on-die memory: a unit corrected again, or uncorrectable (R371); a compute-die word that fails again after zero-fill raises 0x100F
(R372). `unit` counts units of Table 15.2, or the 64-bit words of the compute-die memories that carry the code (R19). -/
def execSramRemap (k : SramKind) (inst unit : Nat) (uncorrectable : Bool) (s : State) : Host.Outcome State Fault Refusal :=
  .next (match remapEntries k with
    | some n =>
      let used := s.sramRemap.filter (fun x => x.1 == k && sameTable k x.2.1 inst)
      if used.length < n then
        let t : State := { s with sramRemap := s.sramRemap ++ [(k, inst, unit)] }
        touchRes s (if uncorrectable then t.sramLoss k inst unit true else t)
      else
        let t := s.raise { code := 0x100D }
        touchRes s (if uncorrectable then t.sramLoss k inst unit false else t)
    | none =>
      if !uncorrectable then s
      else if s.sramFixed.contains (k, inst, unit) then touchRes s (s.raise { code := 0x100F, part := some (inst % 16), die := 0, detail := [inst] })
      else touchRes s (({ s with sramFixed := s.sramFixed ++ [(k, inst, unit)] } : State).sramLoss k inst unit true))

def execDeviceFatalError (s : State) : Host.Outcome State Fault Refusal := .next (touchRes s s.deviceFatal)

end Sys2Proof.Machine
end

