-- ==== Sys2Proof/Machine/Time.lean ====
section
/-! DEFINITION. Device time (R361 to R364): the 25 MHz tick, the time states of Table 14.10, PPS, and the shared event pin (R464). -/

namespace Sys2Proof.Machine

/-- What a command about time may change beside what `touchDesc` takes over. -/
def touchTime (s t : State) : State := 
  { touchDesc s t with time := { t.time with mono := s.time.mono }, pin := { t.pin with thermtrip := s.pin.thermtrip, pwrgood := s.pin.pwrgood } }

/-! The clock (R361). -/

/-- A signed 32-bit word. -/
def signed32 (w : Nat) : Int := (BitVec.ofNat 32 w).toInt

/-- TIM_FREQ in 2^-32 ns per ns, clamped to ±500 ppm. -/
def freqAdj (s : State) : Int := max (-2147483) (min 2147483 (signed32 (reg s .tim 0 0x018)))

/-- One 25 MHz tick: 40 ns adjusted by TIM_FREQ, with a 32-bit fraction; the main clock goes on at its rate. -/
def State.tick (s : State) : State :=
  let sum : Int := 40 * 2 ^ 32 + 40 * freqAdj s + s.time.frac
  let n := (sum / 2 ^ 32).toNat
  { s with time := { s.time with now := (s.time.now + n) % 2 ^ 64, mono := s.time.mono + n, frac := (sum % 2 ^ 32).toNat,
                                 clk := s.time.clk + (if s.pin.stopped then 0 else clockMhz s / 25) } }

/-- Device time is stepped by a signed number of ns; TIM_MONO is not (R361). -/
def State.stepTime (s : State) (d : Int) : State :=
  ({ s with time := { s.time with now := (((s.time.now : Int) + d) % 2 ^ 64).toNat } } : State).markRC .tim 0 0x010 18

/-! States (Table 14.10). -/

def tFree : Nat := 0
def tAcquiring : Nat := 1
def tLocked : Nat := 2
def tHoldover : Nat := 3
def tPps : Nat := 4

def timState (s : State) : Nat := regF s .tim 0 0x010 2 0
def State.setTim (s : State) (v : Nat) : State := s.setRegF .tim 0 0x010 2 0 v
def State.enterAcquiring (s : State) : State := { s.setTim tAcquiring with time := { s.time with syncs := 0, acquired := false } }

/-- The last measured offset, saturating. -/
def State.noteOffset (s : State) (d : Int) : State := s.setReg .tim 0 0x014 (BitVec.ofInt 32 (max (-2147483648) (min 2147483647 d))).toNat

/-- Firmware's correction of the frequency for an offset: within ±500 ppm, otherwise not stated (log entry 1). -/
def State.servo (s : State) : State :=
  let x := (Config.freeWord s.free (2 ^ 43)).toNat % 4294967
  s.setReg .tim 0 0x018 (BitVec.ofInt 32 ((x : Int) - 2147483)).toNat

/-- An offset from the source in use. -/
def State.timOffset (s : State) (d : Int) : State :=
  let s := s.noteOffset d
  let st := timState s
  if st == tAcquiring then
    if !s.time.acquired then
      let s : State := { s with time := { s.time with acquired := true, syncs := 0 } }
      s.stepTime (-d)
    else
      let n := if d.natAbs < regF s .tim 0 0x02C 15 0 then s.time.syncs + 1 else 0
      let s : State := ({ s with time := { s.time with syncs := n } } : State).servo
      if 16 ≤ n then (s.setTim tLocked).raise { code := 0x4010, detail := [tLocked] } else s
  else if st == tLocked then
    if 1000000 < d.natAbs then ((s.stepTime (-d)).enterAcquiring).raise { code := 0x4011 } else s.servo
  else if st == tHoldover then (s.setTim tLocked).servo
  else s

/-- A source is selected: its port, and its first offset. -/
def State.timSelect (s : State) (port : Nat) (d : Int) : State :=
  let st := timState s
  let s := s.setRegF .tim 0 0x010 23 20 port
  if st == tFree then (s.noteOffset d).enterAcquiring
  else if st == tPps then s.enterAcquiring
  else if st == tHoldover then (s.noteOffset d).setTim tLocked
  else s

def ptpStep (s : State) (m : PtpMsg) : State :=
  if m.domain != regF s .tim 0 0x028 23 16 then s.viol (m.port / 4) 12 0x1044
  else if !bitN (reg s .tim 0 0x028) m.port then s
  else if m.select then s.timSelect m.port m.offset
  else if regF s .tim 0 0x010 23 20 == m.port then s.timOffset m.offset
  else s

def execPtpMessage (m : PtpMsg) (s : State) : Host.Outcome State Fault Refusal :=
  .next (if m.port < 16 && portIsUp s m.port && fwUp s then touchTime s (ptpStep s m) else s)

/-- No sync for 4 intervals: the frequency is held. -/
def execHoldoverEntry (s : State) : Host.Outcome State Fault Refusal :=
  .next (if timState s == tLocked then touchTime s { s.setTim tHoldover with time := { s.time with holdStart := s.time.mono } } else s)

def execHoldoverExpiry (s : State) : Host.Outcome State Fault Refusal :=
  .next (if timState s == tHoldover && decide (s.time.holdStart + 1000000000 * regF s .tim 0 0x02C 31 16 ≤ s.time.mono) then
      touchTime s ((s.setTim tFree).raise { code := 0x4010, detail := [tFree] }) else s)

/-- TIM_STEP_CTL.GO by a class that may write GRD fields: TIM_STEP, signed, is added. -/
def execTimStepCtl (cls : RClass) (s : State) : Host.Outcome State Fault Refusal :=
  .next (if grdClass s cls then
      touchTime s (s.stepTime (signed32 (reg s .tim 0 0x024) * 2 ^ 32 + reg s .tim 0 0x020)) else s)

/-! PPS and the event pin (R364, R464). -/

/-- A rising edge, `nsOff` ns after the present value of device time. In FREE with INSRC it aligns the phase to the second. -/
def ppsEdge (s : State) (nsOff : Nat) : State :=
  let t := s.time.now + nsOff
  let s := (s.setWide ⟨.tim, 0, 0x038, 0⟩ (t % 2 ^ 64)).markRC .tim 0 0x010 19
  if timState s == tFree && regF s .tim 0 0x030 29 29 == 1 then
    let sec := (t + 500000000) / 1000000000 * 1000000000
    { s.setTim tPps with time := { s.time with now := (((s.time.now : Int) + sec - t) % 2 ^ 64).toNat } }
  else s

def execPpsIn (nsOff : Nat) (s : State) : Host.Outcome State Fault Refusal :=
  .next (if regF s .tim 0 0x030 30 30 == 1 then touchTime s (ppsEdge s nsOff) else s)

/-- The alert holds the pin: it lasts, or was asserted less than 1,000 ms ago. -/
def alertHolds (s : State) : Bool := regF s .thm 0 0x000 9 9 == 1 || s.pin.alertAt.isSome

/-- Level of EVENT_OUT. -/
def eventPin (s : State) : Bool := alertHolds s || (match s.pin.pulseUntil with | some t => decide (s.time.now < t) | none => false)

/-- A whole second with TIM_PPS.OUTEN: a pulse of min(WIDTH, 500,000) µs, or a suppressed one. -/
def ppsPulse (s : State) : State :=
  if alertHolds s then
    let n := s.pin.suppressed + 1
    ({ s with pin := { s.pin with suppressed := n, pulseUntil := none } } : State).raise { code := 0x6020, detail := [n] }
  else
    { s with pin := { s.pin with pulseUntil := some (s.time.now / 1000000000 * 1000000000 + 1000 * min (regF s .tim 0 0x030 19 0) 500000) } }

def execPpsOut (s : State) : Host.Outcome State Fault Refusal :=
  .next (if regF s .tim 0 0x030 31 31 == 1 then touchTime s (ppsPulse s) else s)

/-- 1,000 ms after its assertion an alert that has ended lets the pin go. -/
def execAlertHoldEnd (s : State) : Host.Outcome State Fault Refusal :=
  .next (match s.pin.alertAt with
    | none => s
    | some t => if regF s .thm 0 0x000 9 9 == 0 && decide (t + 1000000000 ≤ s.time.mono) then { s with pin := { s.pin with alertAt := none } } else s)

end Sys2Proof.Machine
end

