-- ==== Sys2Proof/Machine/Thermal.lean ====
section
/-! DEFINITION. Temperature, power and ageing (chapter 18): the thermal watch and its bands (R430 to R434), trip (R435), the alert (R436), the power loop
(R437 to R439), rails (R440, R463), ageing (R441, R442). -/

namespace Sys2Proof.Machine

/-- What a command about temperature and power may change beside what `touchDesc` takes over. -/
def touchThm (s t : State) : State := 
  { touchDesc s t with thm := t.thm, pin := { t.pin with thermtrip := s.pin.thermtrip, pwrgood := s.pin.pwrgood } }

/-- A reset replaces the whole state but the queue of commands, the draws, the fuses and the level of PERST#. -/
def resetTo (s t : State) : State :=
  { t with pending := s.pending, free := s.free + 1, fuse := s.fuse, pcie := { t.pcie with perstLow := s.pcie.perstLow } }

/-! Power gone (R435, R468): everything but the always-on domain stops, stack contents are lost; the flash, the fuses, hard repairs and the host stay. -/

/-- Registers that the always-on domain keeps: the thermal block and GLB_STATE. -/
def aonKey (k : RegKey) : Bool := k.blk = .thm || (k.blk = .glb && k.off == 0x004)

def State.dark (s : State) : State :=
  { State.reset with pending := s.pending, free := s.free + 1, time := s.time, regs := s.regs.filter (fun x => aonKey x.1), fuse := s.fuse, thm := s.thm,
                     stk := { repair := (s.stk.repair.map (fun (b, l) => (b, l.filter (·.hard)))).filter (fun e => !e.2.isEmpty) },
                     mem := { host := s.mem.host },
                     pin := { s.pin with stopped := true }, pcie := { perstLow := s.pcie.perstLow },
                     fw := { flash := s.fw.flash, journal := s.fw.journal, jSeq := s.fw.jSeq, jReadOnly := s.fw.jReadOnly } }

/-! Sensors (Table 18.1, Table 18.2). Temperatures in quarters of a degree. -/

def dieOf (n : Nat) : Nat := if n < 80 then 0 else if n < 200 then 1 + (n - 80) / 6 else if n < 216 then 21 + (n - 200) / 4 else 25
def dieSensors (die : Nat) : List Nat := (List.range 220).filter (fun n => dieOf n == die)
def isStackDie (die : Nat) : Bool := decide (1 ≤ die) && decide (die ≤ 20)

/-- Lower bound of a band of a die. -/
def bandLow (die band : Nat) : Int :=
  match band with
  | 1 => 40 | 2 => 340 | 3 => 380
  | 4 => if isStackDie die then 420 else 440
  | _ => -160

/-- The band in which a temperature lies. -/
def bandAt (die : Nat) (t : Int) : Nat := ((List.range 5).filter (fun b => decide (bandLow die b ≤ t))).length - 1

def sensor (s : State) (n : Nat) : Sensor := (getT s.thm.sensors n).getD {}

/-- One sample: out of range, a failed reference check, or nothing for 1 ms break the sensor until the next power-on. -/
def Sensor.sample (x : Sensor) (r : Option Reading) : Sensor :=
  if x.broken then x
  else match r with
    | some r => if r.temp < -160 || 600 < r.temp || !r.refOk then { x with temp := 380, sampled := true, broken := true }
      else { x with temp := r.temp, sampled := true, missing := 0 }
    | none => if 9 ≤ x.missing then { x with temp := 380, sampled := true, broken := true } else { x with missing := x.missing + 1 }

def State.sampleOne (s : State) (n : Nat) (r : Option Reading) : State :=
  let x := sensor s n
  let y := x.sample r
  let s : State := { s with thm := { s.thm with sensors := putT s.thm.sensors n y } }
  let s := s.setReg .thm 0 (0x400 + 4 * n) (b2n y.broken * 2 ^ 31 + (y.temp % 4096).toNat)
  if y.broken && !x.broken then s.raise { code := 0x6003, die := dieOf n, detail := [n] } else s

/-- Hottest sensor of a die that gives a temperature: index and value. -/
def hottest (s : State) (die : Nat) : Option (Nat × Int) :=
  ((dieSensors die).filter (fun n => (sensor s n).sampled)).foldl (fun (m : Option (Nat × Int)) n =>
    let t := (sensor s n).temp
    match m with
    | none => some (n, t)
    | some x => if x.2 < t then some (n, t) else some x) none

def brokenOf (s : State) (die : Nat) : Nat := ((dieSensors die).filter (fun n => (sensor s n).broken)).length

/-- Does a die trip: by its hottest sensor, or because more than a quarter of its sensors are broken (0xFF)? -/
def tripOf (s : State) (die : Nat) : Option Nat :=
  if (dieSensors die).length < 4 * brokenOf s die then some 0xFF
  else match hottest s die with
    | some (n, t) => if bandLow die 4 ≤ t then some n else none
    | none => none

/-- The next band of a die (R432): up at once, down after 10 ms at 3 °C below. -/
def State.stepBand (s : State) (die : Nat) : State :=
  match hottest s die with
  | none => s
  | some (_, t) =>
    let cur := bandOf s die
    let raw := bandAt die t
    let n := if t ≤ bandLow die cur - 12 then (getT s.thm.below die).getD 0 + 1 else 0
    let next := if cur < raw then raw else if 100 < n then raw else cur
    let s : State := { s with thm := { s.thm with band := putT s.thm.band die next, below := putT s.thm.below die (if next == cur then n else 0) } }
    if next == cur then s else s.raise { code := 0x6001, die := die, detail := [next], limit := some die }

def packBands (s : State) (lo n : Nat) : Nat := (List.range n).foldl (fun w i => w + bandOf s (lo + i) * 2 ^ (3 * i)) 0
def stackMax (s : State) : Nat := (List.range 20).foldl (fun m i => max m (bandOf s (1 + i))) 0
def effBand (s : State) : Nat := max (bandOf s 0) (stackMax s)

/-- Is the alert asserted (R436)? -/
def alertNow (s : State) : Bool :=
  let b := regF s .thm 0 0x014 2 0
  let lim := if b == 2 then 2 else 3
  (List.range 26).any (fun d => decide (lim ≤ bandOf s d)) || (regF s .thm 0 0x014 8 8 == 1 && decide (0 < regF s .thm 0 0x010 7 0))

/-! Clocks (R434, R439, R442). -/

def bandClock (s : State) : Nat := if 3 ≤ effBand s then 1200 else 1400
def ageClock (s : State) : Nat := if regF s .thm 0 0x0C4 16 16 == 1 then 1300 else 1400
def clockCap (s : State) : Nat := min (bandClock s) (ageClock s)

/-- The loop clock, and with it the compute-die clock, within the caps. -/
def State.setClock (s : State) (loop : Nat) : State :=
  let c := min loop (clockCap s)
  (s.setRegF .thm 0 0x020 27 16 c).setRegF .thm 0 0x020 11 0 c

def loopClock (s : State) : Nat := regF s .thm 0 0x020 27 16

/-- The band registers, the alert and the clock after a sample. -/
def State.showBands (s : State) : State :=
  let s := (s.setReg .thm 0 0x004 (packBands s 1 10)).setReg .thm 0 0x008 (packBands s 11 10)
  let s := s.setReg .thm 0 0x00C (bandOf s 25 * 4096 + packBands s 21 4)
  let s := s.setRegF .thm 0 0x010 7 0 (min ((List.range 220).filter (fun n => (sensor s n).broken)).length 255)
  let was := regF s .thm 0 0x000 9 9
  let on := alertNow s
  let s := s.setReg .thm 0 0x000 (b2n on * 512 + effBand s % 8 * 64 + stackMax s % 8 * 8 + bandOf s 0 % 8)
  let s : State := if on && was == 0 then { s with pin := { s.pin with alertAt := some s.time.mono } } else s
  s.setClock (loopClock s)

/-- Latched shutdown (R435): no event is written. -/
def State.trip (s : State) (die n : Nat) : State :=
  let s := s.setReg .thm 0 0x018 (2 ^ 31 + die * 256 + n)
  let s : State := { s with thm := { s.thm with band := putT s.thm.band die 4 } }
  let d := s.showBands.dark
  { d with pin := { d.pin with thermtrip := true } }

def sampleAll (s : State) (rs : List (Option Reading)) : State := (List.range 220).foldl (fun s n => s.sampleOne n ((rs.getD n none))) s

/-- One die's samples and its band: die by die, since the events of one clock are written in ascending die index (R446). -/
def State.sampleDie (s : State) (rs : List (Option Reading)) (die : Nat) : State :=
  ((dieSensors die).foldl (fun s n => s.sampleOne n (rs.getD n none)) s).stepBand die

/-- The thermal watch samples every sensor; once tripped it samples no more. -/
def execSensorSample (readings : List (Option Reading)) (s : State) : Host.Outcome State Fault Refusal :=
  .next (if s.pin.thermtrip then s
    else
      let t := sampleAll s readings
      match (List.range 26).findSome? (fun d => (tripOf t d).map (fun n => (d, n))) with
      | some (d, n) => resetTo s { t.trip d n with time := s.time }
      | none => touchThm s ((List.range 26).foldl (fun s d => s.sampleDie readings d) s).showBands.clipRamps)

/-! The power loop (R438, R439). -/

def capOf (s : State) : Nat := regF s .crmc 0 0 6 0
def State.setCap (s : State) (v : Nat) : State := (s.setRegF .crmc 0 0 6 0 v).clipRamps

/-- Above the limit: the share exceeded more gives way first; at the floor of both nothing does. -/
def powerDown (s : State) (cd stk : Nat) : Option State :=
  if stk ≤ cd && 700 < loopClock s then some (s.setClock (max 700 (loopClock s - 50)))
  else if 16 < capOf s then some (s.setCap (max 16 (capOf s - 4)))
  else if 700 < loopClock s then some (s.setClock (max 700 (loopClock s - 50)))
  else none

def powerUp (s : State) (cd stk : Nat) : State :=
  if cd ≤ stk && loopClock s < clockCap s then s.setClock (loopClock s + 50)
  else if capOf s < 64 then s.setCap (min 64 (capOf s + 4))
  else s

/-- At the floor above the limit: counted in whole ms; after 100 ms event 0x7002. -/
def State.atFloor (s : State) : State :=
  let u := s.thm.floorUs + 100
  let s : State := { s with thm := { s.thm with floorUs := u } }
  let s := s.setRegF .thm 0 0x02C 31 31 1
  let s := if u % 1000 == 0 then s.bumpRC .thm 0 0x02C 15 0 1 else s
  if u == 100000 then s.raise { code := 0x7002 } else s

def State.offFloor (s : State) : State := { s.setRegF .thm 0 0x02C 31 31 0 with thm := { s.thm with floorUs := 0 } }

/-- Package power as read back, with its peak. -/
def State.notePower (s : State) (pkg : Nat) : State :=
  (s.setRegF .thm 0 0x030 15 0 (min pkg 65535)).updRC .thm 0 0x030 31 16 (fun old => max old (min pkg 65535))

def loopStep (s : State) (pkg cd stk : Nat) : State :=
  let lim := regF s .thm 0 0x024 11 0
  let s := s.notePower pkg
  if lim < pkg then
    let s : State := { s with thm := { s.thm with under := 0 } }
    match powerDown s cd stk with
    | some s => s.offFloor
    | none => s.atFloor
  else if 100 * pkg < 98 * lim then
    let n := s.thm.under + 1
    let s : State := { s.offFloor with thm := { s.offFloor.thm with under := n } }
    if 100 ≤ n then powerUp s cd stk else s
  else { s.offFloor with thm := { s.offFloor.thm with under := 0 } }

/-- Package, compute-die and stack power in W, averaged over the last 1 ms. -/
def execPowerLoop (pkg cd stk : Nat) (s : State) : Host.Outcome State Fault Refusal :=
  .next (if s.pin.stopped then s else touchThm s (loopStep s pkg cd stk))

/-! Rails (R440, R463, R466). -/

/-- Nominal voltage in mV (Table 20.6); VCORE carries the guard. -/
def railMv (s : State) (k : Nat) : Nat :=
  match k with
  | 0 => 750 + regF s .thm 0 0x0C0 5 0 | 1 => 850 | 2 => 1100 | 3 => 1800 | 4 => 900 | _ => 1800

/-- Within ±5 %. -/
def railIn (s : State) (k mv : Nat) : Bool := decide (95 * railMv s k ≤ 100 * mv) && decide (100 * mv ≤ 105 * railMv s k)

def railOne (s : State) (k mv cur pw : Nat) : State :=
  let o := 0x040 + 16 * k
  let s := ((s.setRegF .thm 0 o 15 0 (min mv 65535)).setRegF .thm 0 (o + 4) 15 0 (min cur 65535)).setRegF .thm 0 (o + 8) 15 0 (min pw 65535)
  let good := railIn s k mv
  let n := if good then 0 else (getT s.thm.railBad k).getD 0 + 1
  let s : State := { s with thm := { s.thm with railBad := putT s.thm.railBad k n }, pin := { s.pin with railOk := setFld s.pin.railOk k k (b2n good) } }
  if good then s
  else
    let s := s.markRC .thm 0 (o + 12) 0
    if n == 10 then s.raise { code := 0x7003, detail := [k] } else s

/-- The 1 ms averages of the seven rails: mV, 100 mA and 0.1 W units. -/
def execRailMeasure (mv cur pw : List Nat) (s : State) : Host.Outcome State Fault Refusal :=
  .next (if s.pin.stopped then s
    else touchThm s ((List.range 7).foldl (fun s k => railOne s k (mv.getD k 0) (cur.getD k 0) (pw.getD k 0)) s))

/-- VR_ALERT# falls or rises; low, the regulator's status is read and reported for rail 0. -/
def execVrAlert (low : Bool) (s : State) : Host.Outcome State Fault Refusal :=
  .next (
    let t : State := { s with pin := { s.pin with vrLow := low } }
    if low && !s.pin.stopped then touchThm s (t.raise { code := 0x7003, detail := [0] }) else t)

/-! Ageing (R441, R442). -/

/-- VOUT_COMMAND: 0.75 V plus the guard. -/
def State.setVout (s : State) : State := { s with pin := { s.pin with vout := Config.voutLinear (750 + regF s .thm 0 0x0C0 5 0) } }

def guardFor (slow : Nat) : Nat := min 50 (5 * ceilDiv slow 50)

def roastStep (s : State) (slow : Nat) : State :=
  let g := regF s .thm 0 0x0C0 5 0
  let want := guardFor slow
  let g' := if g < want then min want (g + 5) else if want < g then max want (g - 5) else g
  let s := s.setRegF .thm 0 0x0C4 15 0 (min slow 65535)
  let s := s.setWide ⟨.thm, 0, 0x0C8, 0⟩ s.time.now
  let s : State := { s with thm := { s.thm with roast := s.thm.roast ++ [(s.time.now, slow)] } }
  let s := if g' == g then s else (s.setRegF .thm 0 0x0C0 5 0 g').setVout.raise { code := 0x6010, detail := [g'] }
  let was := regF s .thm 0 0x0C4 16 16
  let s := s.setRegF .thm 0 0x0C4 16 16 (b2n (decide (500 < slow)))
  let s := if 500 < slow && was == 0 then s.raise { code := 0x6011 } else s
  s.setClock (loopClock s)

/-- The largest slowdown of the compute die, in 0.01 %, corrected to 50 °C. -/
def execRoastMeasure (slow : Nat) (s : State) : Host.Outcome State Fault Refusal :=
  .next (if fwUp s && !s.pin.stopped then touchThm s (roastStep s slow) else s)

end Sys2Proof.Machine
end

