-- ==== Sys2Proof/Machine/Boot.lean ====
section
/-! DEFINITION. What a start reads (chapter 16): the flash (R396, R398), the firmware image (R397), configuration copies and records (R401, R402),
retained values and the journal (R403 to R405). -/

namespace Sys2Proof.Machine

/-! The flash (Table 16.2). An erased byte reads 0xFF (log entry 5); cells hold the bytes inverted. -/

def flashB (s : State) (a : Nat) : Byte := getB s.fw.flash a ^^^ 0xFF#8
def flashRead (s : State) (a n : Nat) : List Byte := (List.range n).map (fun i => flashB s (a + i))
def State.flashPut (s : State) (a : Nat) (bs : List Byte) : State :=
  { s with fw := { s.fw with flash := putBs s.fw.flash a (bs.map (· ^^^ 0xFF#8)) } }

def slotAt : Nat := 0x10000
def slotSize : Nat := 0x2000000
def identityAt : Nat := 0x2010000
def copySize : Nat := 0x200000
/-- Copy A (0) or B (1) of the configuration. -/
def copyAt (b : Nat) : Nat := 0x2020000 + b * copySize

/-! The firmware image (R397, Table 16.3). -/

def imgSlot (img : List Byte) : Nat := leAt img 6 1
def imgVersion (img : List Byte) : Nat := leAt img 8 4
def imgBody (img : List Byte) : Nat := leAt img 0xC 4
def imgDigestOf (img : List Byte) : List Byte := (img.drop 0x18).take 32
def imgKey (img : List Byte) : List Byte := (img.drop 0x38).take 1312

/-- The first check of R397 that an image fails, 1 to 6; 0 when all pass. -/
def imageFail (s : State) (img : List Byte) : Nat :=
  if leAt img 0 4 != 0x4B574657 || leAt img 4 2 != 1 then 1
  else if 4 ≤ imgSlot img || bitN s.fuse.revoked (imgSlot img) || sha3 (imgKey img) != Config.rootKeyDigest (imgSlot img) then 2
  else if imgVersion img < s.fuse.arvcnt then 3
  else if imgBody img == 0 || 33546240 < imgBody img || img.length < 0x2000 + imgBody img then 4
  else if !Config.mldsaVerify (imgKey img) ((img.drop 0x558).take 2420) (sha3 (img.take 0x558)) then 5
  else if sha3 ((img.drop 0x2000).take (imgBody img)) != imgDigestOf img then 6
  else 0

/-- The image runs: what the MGT registers and attestation say of it. -/
def State.runImage (s : State) (img : List Byte) : State :=
  let s := s.setWide ⟨.mgt, 0, 0x008, 0⟩ (leAt img 0x10 8)
  let s := (s.setRegF .mgt 0 0x010 15 8 (imgVersion img)).setRegF .mgt 0 0x010 1 0 (imgSlot img)
  { s with fw := { s.fw with imgDigest := imgDigestOf img } }

/-- Erase the slot and program an image; a program that fails its read-back leaves bytes that are not stated (log entry 1). Answers success. -/
def State.programSlot (s : State) (img : List Byte) (ok : Bool) : Bool × State :=
  let bs := if ok then padTo slotSize img else (List.range slotSize).map (Config.freeByte s.free)
  let s := s.flashPut slotAt bs
  (ok, if ok then s else s.raise { code := 0x9005 })

/-! Configuration copies (R401). -/

def copyLen (s : State) (b : Nat) : Nat := leNat (flashRead s (copyAt b + 12) 4)
def copySeq (s : State) (b : Nat) : Nat := leNat (flashRead s (copyAt b + 8) 4)
def copyRecords (s : State) (b : Nat) : List Byte := flashRead s (copyAt b + 64) (copyLen s b)
def copyDigest (s : State) (b : Nat) : List Byte := flashRead s (copyAt b + 32) 32

def copyGood (s : State) (b : Nat) : Bool :=
  leNat (flashRead s (copyAt b) 4) == 0x4B574346 && leNat (flashRead s (copyAt b + 4) 4) == 1 && decide (copyLen s b ≤ copySize - 64) &&
  sha3 (copyRecords s b) == copyDigest s b

/-- The copy in use: the one that checks, or of two the later. -/
def pickCopy (s : State) : Option Nat :=
  match copyGood s 0, copyGood s 1 with
  | true, true =>
    let d := (copySeq s 1 + 2 ^ 32 - copySeq s 0) % 2 ^ 32
    some (if 0 < d && d < 2 ^ 31 then 1 else 0)
  | true, false => some 0
  | false, true => some 1
  | false, false => none

/-- Events of the copies (Table 16.4), and the copy in use. -/
def State.chooseCopy (s : State) : State :=
  let c := pickCopy s
  let s : State := match c with
    | some b => { s with fw := { s.fw with cfgInUse := some b, cfgDigest := copyDigest s b } }
    | none => { s with fw := { s.fw with cfgInUse := none, cfgDigest := zeros 32 } }
  if c.isNone then s.raise { code := 0x9004 }
  else if copyGood s 0 && copyGood s 1 then s
  else s.raise { code := 0x9003 }

/-! Records (R402, Table 16.5). Fields are packed in the order that Table 16.5 lists them (log entry 50). -/

structure CRec where
  off : Nat
  type : Nat
  /-- the record's bytes after its header; none when the header is malformed -/
  body : Option (List Byte)
  deriving DecidableEq, Repr

/-- Records in stored order; one whose LENGTH is malformed ends the list. -/
def recordsOf : Nat → Nat → List Byte → List CRec
  | 0, _, _ => []
  | f + 1, off, bs =>
    if bs.isEmpty then []
    else
      let n := leAt bs 4 4
      if bs.length < 16 || n < 16 || n % 16 != 0 || bs.length < n then [⟨off, leAt bs 0 2, none⟩]
      else ⟨off, leAt bs 0 2, some ((bs.take n).drop 16)⟩ :: recordsOf f (off + n) (bs.drop n)

/-- In ascending TYPE, and in stored order within one. -/
def recordOrder (rs : List CRec) : List CRec :=
  ((List.range 8).map (fun t => rs.filter (fun r => r.type == t))).flatten ++ rs.filter (fun r => 8 ≤ r.type)

/-- Write the ret fields of a register that a record may set: RW or GRD ones, under the rules of R437. -/
def State.setRetained (s : State) (off v : Nat) : Option State :=
  match decodeOff off with
  | none => none
  | some (b, i, o) =>
    match findReg b o with
    | none => none
    | some r =>
      let fs := r.fields.filter (fun f => f.ret && (f.acc == .rw || f.acc == .grd))
      if fs.isEmpty then none
      else
        let v := if b = .thm && o == 0x024 then max 1600 (min v (regF s .thm 0 0x028 11 0)) else v
        if b = .thm && o == 0x028 && (v < 1600 || regF s .thm 0 0x028 11 0 < v) then none
        else
          let s := s.fwSet b i o (fs.foldl (fun w f => setFld w f.hi f.lo (fld v f.hi f.lo)) (reg s b i o))
          some (if b = .thm && o == 0x028 then s.setRegF .thm 0 0x024 11 0 (min (regF s .thm 0 0x024 11 0) v) else s)

/-- Fields of a record: the word at byte `o`, masked to the register's fields. -/
def State.recReg (s : State) (bs : List Byte) (o : Nat) (b : Blk) (i off : Nat) : State :=
  s.fwSet b i off (Nat.land (leAt bs o 4) (match findReg b off with | some r => maskOf r.fields | none => 0))

def applyDevice (s : State) (bs : List Byte) : Option State :=
  if bs.length != 464 || 65535 < leAt bs 0 4 || leAt bs 456 4 < 1 || 10000 < leAt bs 456 4 then none
  else
    let ports := List.range 16
    let s : State := { s with fw := { s.fw with
      sysIndex := some (leAt bs 0 4), devCount := leAt bs 4 4, idleMs := leAt bs 456 4,
      ipAddr := ports.map (fun k => (k, BitVec.ofNat 128 (leAt bs (8 + 20 * k) 16))), vlan := ports.map (fun k => (k, leAt bs (24 + 20 * k) 4)) } }
    let s := (List.range 4).foldl (fun s d =>
      [0x004, 0x010, 0x018, 0x01C, 0x020, 0x024].zipIdx.foldl (fun s (o, i) => s.recReg bs (328 + 24 * d + 4 * i) .net d o) s) s
    let s := [0x1000, 0x1004, 0x1008, 0x100C, 0x1010, 0x1014].zipIdx.foldl (fun s (o, i) => s.recReg bs (424 + 4 * i) .net 0 o) s
    some ((s.recReg bs 448 .tim 0 0x028).recReg bs 452 .tim 0 0x030)

/-- The system section: the record's content as it is digested into the coupling block. -/
def applySystem (s : State) (bs : List Byte) : Option State :=
  if 4096 < bs.length then none else some { s with fw := { s.fw with sysRec := bs } }

/-- A bank-group index takes its class with zero in it (R210). -/
def State.classNew (s : State) (i : Nat) (crema : Bool) : State :=
  if isCremaIdx s i == crema then s
  else
    let s : State := { s with mem := { s.mem with dram := s.mem.dram.filter (fun c => keyBg c.1 != i), synd := s.mem.synd.filter (fun c => keyBg (16 * c.1) != i) } }
    (s.fwSet .stkc 0 0 (setFld (reg s .stkc 0 0) i i (b2n crema))).raise { code := 0x1007 }

def applyClass (s : State) (bs : List Byte) : Option State :=
  if bs.length != 16 || 15 ≤ leAt bs 0 4 then none
  else some ((List.range 4).foldl (fun s i => s.classNew i (bitN (leAt bs 0 4) i)) s)

/-- Pairs of offset and value; a pair that names no such field makes the record refused. -/
def applySettings (s : State) (bs : List Byte) : Option State :=
  (List.range (bs.length / 8)).foldl (fun (x : Option State) k =>
    x.bind (fun t => if leAt bs (8 * k) 8 == 0 then some t else t.setRetained (leAt bs (8 * k) 4) (leAt bs (8 * k + 4) 4))) (some s)

/-- A peer entry is written; DIGOK and MISMATCH stay with the address. -/
def State.setPeer (s : State) (i : Nat) (addr : BitVec 128) (valid : Bool) : State :=
  let old := peer s i
  let e : PeerEnt := if old.addr == addr then { old with valid := valid } else { valid := valid, addr := addr }
  { s with net := { s.net with peers := putT s.net.peers i e } }

def applyPeers (s : State) (bs : List Byte) : Option State :=
  let first := leAt bs 0 4
  let n := leAt bs 4 4
  if 256 < n || 65536 < first + n || bs.length < 8 + 20 * n then none
  else some ((List.range n).foldl (fun s k =>
    s.setPeer (first + k) (BitVec.ofNat 128 (leAt bs (8 + 20 * k) 16)) (bitN (leAt bs (24 + 20 * k) 4) 0)) s)

/-- A region class record as bytes (Table 15.4). -/
def parseClass (b : List Byte) : ClassRec :=
  { rat := leAt b 0 1, cls := leAt b 1 1, sealIt := bitN (leAt b 2 1) 0, sysidx := leAt b 4 4, raddr := leAt b 8 8, rkey := leAt b 0x10 4,
    digtab := leAt b 0x18 8 }

/-- The five words of a RAT entry. -/
def ratRaw (s : State) (n : Nat) : List Nat := (List.range 5).map (fun i => reg s .stkc 0 (0x800 + 32 * n + 4 * i))

/-- RAT index and words, then at byte 32 an optional class record. Without one, the retained record of the same entry comes back (Table 16.6). -/
def applyRegion (s : State) (kept : List (Nat × List Nat × ClassRec)) (bs : List Byte) : Option State :=
  let n := leAt bs 0 4
  let ws := (List.range 5).map (fun i => Nat.lor (Nat.land (leAt bs (4 + 4 * i) 4) (match findReg .stkc (0x800 + 4 * i) with | some r => maskOf r.fields | none => 0))
    (if i == 0 then 2 ^ 31 else 0))
  let c := parseClass (bs.drop 32)
  let has := bs.length == 96
  if (bs.length != 32 && !has) || 64 ≤ n || (has && (c.rat != n || 2 < c.cls)) || !ratChangeOk s n ws then none
  else
    let s := s.ratPut n ws
    let rec_ := if has then some c else (kept.find? (fun k => k.1 == n && k.2.1 == ws)).map (fun k => k.2.2)
    some (match rec_ with
      | some r => { s with fw := { s.fw with regionClass := putT s.fw.regionClass n r } }
      | none => s)

/-! Pair records (R382). -/

/-- Largest CHUNK message of a job: header, digest record, sealed image. -/
def maxChunk (j : Job) : Nat := 64 + 32 * j.cfg.layers + chunkBytes j

def pairFormOk (b : List Byte) : Bool :=
  b.length == 128 && leAt b 0 4 == 0x4B575052 && leAt b 4 1 < 16 && leAt b 5 1 < 2 && leAt b 6 2 == 0 && leAt b 0xC 1 < 16 && leAt b 0xD 3 == 0 &&
  leAt b 0x10 8 % 4096 == 0 && leAt b 0x18 4 % 4096 == 0 && leAt b 0x1C 4 ≤ 8192 && leAt b 0x28 4 % 4096 == 0 && leAt b 0x48 56 == 0

/-- The job may take the pair: it has no partner, and the areas are spread memory of its regions. -/
def pairFits (s : State) (j : Job) (b : List Byte) : Bool :=
  j.pair.st == .unpaired && !j.dissolving && decide (2 * maxChunk j ≤ leAt b 0x18 4) &&
  [(leAt b 0x10 8, leAt b 0x18 4), (leAt b 0x20 8, leAt b 0x1C 4 * leAt b 0x28 4), (leAt b 0x30 8, 256), (leAt b 0x38 8, 0x40000)].all
    (fun x => x.2 == 0 || spreadIn s j.parts.contains x.1 x.2)

/-- The pair record is accepted: queue pairs are set up (Table 15.7). -/
def State.startPair (s : State) (lead : Nat) (b : List Byte) : State :=
  ((s.modPair lead (fun _ => { record := b, lastHeard := s.time.mono })).pairFresh lead).pairConnect lead

/-! JOB records. -/

/-- Does a skipped record bear on a job with these partitions (R402)? REGION records bear on their owner's job, SYSTEM, SETTINGS and other JOB records on
none. -/
def bearsOn (ps : List Nat) (x : Nat × Nat) : Bool := x.1 == 1 || x.1 == 3 || x.1 == 5 || (x.1 == 6 && (ps.contains x.2 || 16 ≤ x.2))

/-- Form the job; its model is to be fetched before its ring opens (R409). -/
def applyJob (s : State) (skipped : List (Nat × Nat)) (bs : List Byte) : Option State :=
  let b := bs.take 512
  let ps := maskParts (leAt b 4 2)
  let p := ps.headD 16
  let (r, g) := formCheck s 0 p b
  let pb := (bs.drop 584).take 128
  let has := bs.length == 720
  if (bs.length != 592 && !has) || 16 ≤ p || skipped.any (bearsOn ps) || r != 0 then none
  else
    let s := s.formJob p g
    let s := (((s.setReg .prt p 0x014 (Nat.land (leAt bs 512 4) 0xFFFFF000)).setReg .prt p 0x018 (leAt bs 516 2)).setReg .prt p 0x0C0 (Nat.land (leAt bs 520 4) 0xFFFFFFC0))
    let s := (s.setReg .prt p 0x0C4 (Nat.land (leAt bs 524 4) 0x1FFFFF)).setReg .prt p 0x060 (leAt bs 528 4)
    let s := s.modJob p (fun j => { j with source := (leAt bs 532 4, leAt bs 536 8, leAt bs 544 4), manifest := (bs.drop 548).take 32, open_ := false })
    let s : State := { s with fw := { s.fw with jobsToFetch := s.fw.jobsToFetch ++ [p] } }
    some (if has && pairFormOk pb && leAt pb 4 1 == p && pairFits s (jobD s p) pb then s.startPair p pb else s)

/-- One record: the state after it, or none when it is skipped. Types 1 to 4 occur once. -/
def applyRecord (s : State) (kept : List (Nat × List Nat × ClassRec)) (jobs : Bool) (skipped : List (Nat × Nat)) (seen : List Nat) (r : CRec) : Option State :=
  match r.body with
  | none => none
  | some bs =>
    if r.type ≤ 4 && seen.contains r.type then none
    else match r.type with
      | 1 => applyDevice s bs
      | 2 => applySystem s bs
      | 3 => applyClass s bs
      | 4 => applySettings s bs
      | 5 => applyPeers s bs
      | 6 => applyRegion s kept bs
      | 7 => if jobs then applyJob s skipped bs else none
      | _ => none

/-- The owner that a REGION record names; 16 when it cannot be read. -/
def recOwner (r : CRec) : Nat := match r.body with | some bs => if r.type == 6 && 8 ≤ bs.length then fld (leAt bs 4 4) 27 24 else 16 | none => 16

/-- Apply the records in order; a skipped one raises 0x9003 with its offset. `jobs`: every stack came up (R408). -/
def State.applyRecords (s : State) (kept : List (Nat × List Nat × ClassRec)) (jobs : Bool) (rs : List CRec) : State :=
  (rs.foldl (fun (x : State × List (Nat × Nat) × List Nat) r =>
    match applyRecord x.1 kept jobs x.2.1 x.2.2 r with
    | some t => (t, x.2.1, x.2.2 ++ [r.type])
    | none => (x.1.raise { code := 0x9003, detail := [r.off] }, x.2.1 ++ [(r.type, recOwner r)], x.2.2)) (s, [], [])).1

/-! Retained values (R403, R404, Table 16.6). Journal keys are the model's own numbering (log entry 51): 0 the power ceiling, then the ret registers; lists are
cut into pieces of 1,024 words, one key a piece. -/

/-- Registers with a ret field, the power ceiling first. -/
def retKeys : List RegKey :=
  let all (b : Blk) (insts : List Nat) (p : Reg → Bool) : List RegKey :=
    (insts.map (fun i => (((regsOf b).filter (fun r => p r && r.fields.any (·.ret))).map (fun r =>
      (List.range r.n).map (fun k => (⟨b, i, r.off + k * r.stride, 0⟩ : RegKey)))).flatten)).flatten
  let ks := all .thm [0] (fun _ => true) ++ all .mgt [0] (fun _ => true) ++ all .tim [0] (fun _ => true) ++ all .stkc [0] (fun _ => true) ++
    all .net (List.range 4) (fun r => r.off < 0x1000) ++ all .net [0] (fun r => 0x1000 ≤ r.off) ++ all .prt (List.range 16) (fun _ => true)
  (⟨.thm, 0, 0x028, 0⟩ : RegKey) :: ks.filter (· != ⟨.thm, 0, 0x028, 0⟩)

def retMask (k : RegKey) : Nat := match findReg k.blk k.off with | some r => maskOf (r.fields.filter (·.ret)) | none => 0

/-- Pieces of a list under successive keys. -/
def pieces : Nat → Nat → List Word → List (Nat × List Word)
  | 0, _, _ => []
  | f + 1, key, ws => if ws.isEmpty then [] else (key, ws.take 1024) :: pieces f (key + 1) (ws.drop 1024)

def listOf (base : Nat) (ws : List Nat) : List (Nat × List Word) := pieces (ws.length / 1024 + 1) base (ws.map (BitVec.ofNat 32))
def split64 (x : Nat) : List Nat := [x % 2 ^ 32, x / 2 ^ 32]

def classWords (s : State) (n : Nat) (r : ClassRec) : List Nat :=
  ratRaw s n ++ [r.rat + r.cls * 256 + b2n r.sealIt * 65536, r.sysidx] ++ split64 r.raddr ++ [r.rkey] ++ split64 r.digtab

def kSoft : Nat := 0x1000
def kSuspect : Nat := 0x3000
def kUnits : Nat := 0x5000
def kScrub : Nat := 0x5100
def kIdle : Nat := 0x5101
def kCause : Nat := 0x5102
def kMargin : Nat := 0x5103
def kClass : Nat := 0x5200
def kRoast : Nat := 0x8000

/-- The retained values as the running device holds them (the retention SRAM, R404): key and value. -/
def retained (s : State) : List (Nat × List Word) :=
  retKeys.zipIdx.map (fun (k, i) => (i, [BitVec.ofNat 32 (Nat.land (rawW s k).toNat (retMask k))])) ++
  listOf kSoft ((s.fw.softRows.map (fun x => [x.1, x.2])).flatten) ++
  listOf kSuspect ((s.fw.suspects.map (fun x => split64 x.1 ++ [x.2])).flatten) ++
  listOf kUnits s.fw.unitsOff ++
  [(kScrub, [BitVec.ofNat 32 s.fw.patrolRate, BitVec.ofNat 32 s.fw.digestRate]), (kIdle, [BitVec.ofNat 32 s.fw.idleMs]),
   (kCause, [BitVec.ofNat 32 (regF s .glb 0 0x004 11 8)])] ++
  listOf kMargin s.stk.hotTiming ++
  (s.fw.regionClass.map (fun (n, r) => listOf (kClass + n) (classWords s n r))).flatten ++
  listOf kRoast ((s.thm.roast.map (fun x => split64 x.1 ++ [x.2])).flatten)

/-! The journal (R405). -/

def secSize : Nat := 65536
def recSize (r : JRec) : Nat := 16 + roundUp (4 * r.words.length) 16
def secUsed (x : JSector) : Nat := x.recs.foldl (fun n r => n + recSize r) 64
def sector (s : State) (i : Nat) : JSector := (getT s.fw.journal i).getD {}
def State.setSector (s : State) (i : Nat) (x : JSector) : State := { s with fw := { s.fw with journal := putT s.fw.journal i x } }
def sectors (s : State) (p : JSector → Bool) : List Nat := (List.range 256).filter (fun i => p (sector s i))

/-- Every record of the journal. -/
def jAll (s : State) : List JRec := (s.fw.journal.map (fun e => e.2.recs)).flatten

/-- The live record of a key: the one with the highest SEQ. -/
def jLive (s : State) (key : Nat) : Option JRec :=
  ((jAll s).filter (fun r => r.key == key)).foldl (fun (m : Option JRec) r => match m with
    | none => some r
    | some x => if x.seq < r.seq then some r else some x) none

def jValue (s : State) (key : Nat) : List Word := match jLive s key with | some r => r.words | none => []

/-- Live bytes of a sector. -/
def secLive (s : State) (x : JSector) : Nat := (x.recs.filter (fun r => jLive s r.key == some r)).foldl (fun n r => n + recSize r) 0

/-- Least by a measure, the lowest index among equals. -/
def leastBy (l : List Nat) (f : Nat → Nat) : Option Nat :=
  l.foldl (fun (m : Option Nat) i => match m with
    | none => some i
    | some x => if f i < f x then some i else some x) none

/-- A sector is retired; below 16 usable sectors the journal is read-only. -/
def State.retire (s : State) (i : Nat) : State :=
  let s := (s.setSector i { sector s i with st := .retired }).raise { code := 0x9005 }
  if (sectors s (fun x => x.st != .retired)).length < 16 then { s with fw := { s.fw with jReadOnly := true } } else s

/-- Open the erased sector with the fewest erases. -/
def State.openSector (s : State) : State :=
  match leastBy (sectors s (fun x => x.st == .erased)) (fun i => (sector s i).erases) with
  | none => s
  | some i =>
    let top := s.fw.journal.foldl (fun m e => max m e.2.order) 0
    s.setSector i { sector s i with st := .active, order := top + 1 }

/-- Append a record: to the active sector, or to one opened for it. Answers whether there was room. -/
def State.append (s : State) (r : JRec) : Bool × State :=
  let fits (x : JSector) : Bool := x.st == .active && decide (secUsed x + recSize r ≤ secSize)
  let s := if (sectors s fits).isEmpty then
      ((sectors s (fun x => x.st == .active)).foldl (fun s i => s.setSector i { sector s i with st := .full }) s).openSector
    else s
  match (sectors s fits).head? with
  | none => (false, s)
  | some i => (true, s.setSector i { sector s i with recs := (sector s i).recs ++ [r] })

/-- Compaction, when fewer than 8 sectors are erased: the full sector with the fewest live bytes is copied out and erased. -/
def State.compact (s : State) : State :=
  if 8 ≤ (sectors s (fun x => x.st == .erased)).length then s
  else match leastBy (sectors s (fun x => x.st == .full)) (fun i => secLive s (sector s i) * 2 ^ 20 + (sector s i).erases) with
    | none => s
    | some i =>
      let live := (sector s i).recs.filter (fun r => jLive s r.key == some r)
      let s := live.foldl (fun s r => (s.append r).2) s
      let x : JSector := { erases := (sector s i).erases + 1 }
      let s := s.setSector i x
      if 100000 ≤ x.erases then s.retire i else s

/-- Keys whose value differs from the journal's. -/
def jPending (s : State) : List (Nat × List Word) :=
  let now := retained s
  let gone := ((jAll s).map (·.key)).dedup.filter (fun k => !(now.any (fun x => x.1 == k)))
  (now ++ gone.map (fun k => (k, []))).filter (fun x => jValue s x.1 != x.2)

/-- Written within the budget: one record per key per second, 1 MiB an hour. -/
def jMay (s : State) (r : JRec) : Bool :=
  s.fw.jLast.all (fun x => x.1 != r.key || decide (x.2 + 1000000000 ≤ s.time.mono)) &&
  (let hour := s.time.mono / 3600000000000
   decide ((if s.fw.jHour.1 == hour then s.fw.jHour.2 else 0) + recSize r ≤ 0x100000))

/-- Value words of a key, pieces joined. -/
def joined (v : Nat → List Word) (base : Nat) : Nat → List Nat
  | 0 => []
  | f + 1 => let ws := v base; if ws.isEmpty then [] else ws.map (·.toNat) ++ joined v (base + 1) f

def pairsOf : List Nat → List (Nat × Nat)
  | a :: b :: t => (a, b) :: pairsOf t
  | _ => []
def triplesOf : List Nat → List (Nat × Nat)
  | a :: b :: c :: t => (a + b * 2 ^ 32, c) :: triplesOf t
  | _ => []

/-- Region class records with the RAT words they belonged to. -/
def keptClasses (v : Nat → List Word) : List (Nat × List Nat × ClassRec) :=
  (List.range 64).filterMap (fun n =>
    let w := (v (kClass + n)).map (·.toNat)
    if w.length != 12 then none
    else some (n, w.take 5, { rat := w.getD 5 0 % 256, cls := w.getD 5 0 / 256 % 256, sealIt := bitN (w.getD 5 0) 16, sysidx := w.getD 6 0,
                              raddr := w.getD 7 0 + w.getD 8 0 * 2 ^ 32, rkey := w.getD 9 0, digtab := w.getD 10 0 + w.getD 11 0 * 2 ^ 32 }))

/-- Restore the retained values (R403): ret fields and the items of Table 16.6. A ceiling that is lost is taken as 1,600 W (Table 16.7). -/
def State.restore (s : State) (v : Nat → List Word) (any : Bool) : State :=
  let s := retKeys.zipIdx.foldl (fun s (k, i) => match v i with
    | w :: _ => s.setW k (BitVec.ofNat 32 (Nat.lor (Nat.land (rawW s k).toNat (Nat.xor 0xFFFFFFFF (retMask k))) (Nat.land w.toNat (retMask k))))
    | [] => s) s
  let s := if any && (v 0).isEmpty then (s.setRegF .thm 0 0x028 11 0 1600).setRegF .thm 0 0x024 11 0 1600 else s
  let num (k : Nat) (i d : Nat) : Nat := match (v k)[i]? with | some w => w.toNat | none => d
  let off := joined v kUnits 2
  let s : State := { s with
    fw := { s.fw with softRows := pairsOf (joined v kSoft 4096), suspects := triplesOf (joined v kSuspect 4096), unitsOff := off,
                      patrolRate := num kScrub 0 100, digestRate := num kScrub 1 100, idleMs := num kIdle 0 10 },
    stk := { s.stk with hotTiming := joined v kMargin 1 }, thm := { s.thm with roast := triplesOf (joined v kRoast 4096) } }
  off.foldl (fun s pc => s.modUnit pc (fun u => { u with disabled := true })) s

end Sys2Proof.Machine
end

