-- ==== Sys2Proof/Machine/Start.lean ====
section
/-! DEFINITION. Resets and start-up (R394, R395, R397, R400, R402, R403, R408, R428, R467, R468), fetching a job's model (R409), the journal's writer
(R405), the configuration scan (R426), telemetry (R448) and sleep (R30, R410, R411). -/

namespace Sys2Proof.Machine

/-! Recovery (R400). -/

def State.glbState (s : State) (v : Nat) : State := s.setRegF .glb 0 0x004 3 0 v
def State.fwState (s : State) (v : Nat) : State := s.setRegF .mgt 0 0x000 3 0 v

/-- Values by journal key, with whether there are any and the class records among them. -/
structure Kept where
  val : List (Nat × List Word)
  any : Bool

def Kept.of (k : Kept) (key : Nat) : List Word := match k.val.find? (fun x => x.1 == key) with | some x => x.2 | none => []

/-- The boot ROM waits for an image; retained values stay in the retention SRAM. -/
def State.enterRecovery (s : State) (k : Kept) : State := ((s.restore k.of k.any).glbState 3).fwState 3

/-! Bring-up (R408). -/

/-- A retained soft repair becomes a hard one; a row whose fuses do not verify stays soft-repaired, and its record is kept (R369). -/
def State.hardenRow (s : State) (env : BootEnv) (x : Nat × Nat) : State :=
  let (r, s) := s.hardRow x.1 x.2 (!env.hardFail.contains x)
  if r == 0 then { s with fw := { s.fw with softRows := s.fw.softRows.filter (· != x) } } else s

/-- Rows of a range of stack bytes. -/
def rowsIn (key bytes : Nat) : List (Nat × Nat) := (List.range (ceilDiv bytes 1024)).map (fun i => rowOf (key + 1024 * i))

/-- Suspect rows are tested with patterns, which leaves their contents unspecified; those that fail are hard-repaired (R370). -/
def State.testSuspects (s : State) (env : BootEnv) : State :=
  let rows := (s.fw.suspects.map (fun x => rowsIn x.1 x.2)).flatten
  let s := rows.foldl (fun s r => s.rowLost r.1 r.2) s
  let s := (env.suspectFail.filter (fun r => rows.contains r)).foldl (fun s r => (s.hardRow r.1 r.2 (!env.hardFail.contains r)).2) s
  { s with fw := { s.fw with suspects := [] } }

def State.stackUp (s : State) (env : BootEnv) (st : Nat) : State :=
  if env.stackFail.contains st then s.raise { code := 0x9007, die := 1 + st, detail := [st] }
  else (s.setRegF .stk st 0x008 3 3 1).setRegF .stk st 0x008 1 1 0

/-- Margins are measured at power-on: a stack below 1 ns in NORMAL uses its HOT timing set (R442). -/
def State.margins (s : State) (env : BootEnv) : State :=
  let new := env.lowMargin.filter (fun st => !s.stk.hotTiming.contains st)
  let s : State := { s with stk := { s.stk with hotTiming := env.lowMargin } }
  new.foldl (fun s st => s.raise { code := 0x6010, die := 1 + st }) s

/-- Host-class bank groups are zero-filled (R408). -/
def State.zeroHost (s : State) : State :=
  { s with mem := { s.mem with dram := s.mem.dram.filter (fun c => isCremaIdx s (keyBg c.1)), synd := s.mem.synd.filter (fun c => isCremaIdx s (keyBg (16 * c.1))) } }

def State.bringUp (s : State) (env : BootEnv) (warm : Bool) : State :=
  let s := (List.range 20).foldl (fun s st => s.stackUp env st) s
  let s := s.fw.softRows.foldl (fun s x => s.hardenRow env x) s
  let s := s.testSuspects env
  if warm then s else (s.margins env).zeroHost

/-- Firmware starts from an image: configuration, bring-up, records, the reference committed, roast counters measured; then it serves. -/
def State.firmwareStart (s : State) (img : List Byte) (env : BootEnv) (kept : List (Nat × List Nat × ClassRec)) (warm : Bool) : State :=
  let s := (s.runImage img).glbState 1 |>.fwState 1
  let s := if env.flashOk then s.chooseCopy else s.raise { code := 0x9006 }
  let s := s.setReg .mgt 0 0x004 (reg s .mgt 0 0x004 + 1)
  let s := s.bringUp env warm
  let rs := match s.fw.cfgInUse with
    | some b => recordOrder (recordsOf (copySize / 16) 64 (copyRecords s b))
    | none => []
  let s := (s.applyRecords kept env.stackFail.isEmpty rs).commitCfg
  (roastStep s.setVout env.slow).glbState 2 |>.fwState 2

/-- A start from cleared state with the retained values `k` (R394, R408). -/
def State.start (s : State) (env : BootEnv) (k : Kept) (warm flagged : Bool) (cause : Nat) : State :=
  let s := s.setRegF .glb 0 0x004 11 8 cause
  if flagged then s.enterRecovery k
  else if !env.flashOk then (s.enterRecovery k).raise { code := 0x9006 }
  else
    let img := flashRead s slotAt slotSize
    if imageFail s img != 0 then (s.enterRecovery k).raise { code := 0x8001, detail := [imageFail s img] }
    else (s.restore k.of k.any).firmwareStart img env (keptClasses k.of) warm

/-- A reset with power on: the monotonic counter and a latched trip stay (R361, R435). -/
def warmTo (s t : State) : State :=
  resetTo s { t with time := { t.time with mono := s.time.mono }, pin := { t.pin with thermtrip := s.pin.thermtrip } }

/-! Power (R467, R468). -/

/-- Nothing is kept but fuses, hard repairs, the flash, and the pins as they are. -/
def State.powerBase (s : State) (pin : PinState) : State := { s.dark with time := {}, thm := {}, regs := [], pin := pin }

/-- PWRGOOD rises: straps are sampled, the rail monitors checked. The power-on reset follows once all seven rails are good. -/
def execPwrgoodRise (testEn : Bool) (smbAddr railsOk : Nat) (s : State) : Host.Outcome State Fault Refusal :=
  .next (if s.pin.pwrgood then s
    else resetTo s (s.powerBase { pwrgood := true, resetN := true, testEn := testEn, smbAddr := smbAddr % 4, railOk := railsOk % 128, vrLow := s.pin.vrLow }))

/-- PWRGOOD falls: everything but the always-on domain stops. -/
def execPwrgoodFall (s : State) : Host.Outcome State Fault Refusal :=
  .next (if s.pin.pwrgood then resetTo s { s.dark with pin := { s.dark.pin with pwrgood := false } } else s)

/-- The boot ROM waits for the rails: GLB_STATE BOOT with PWRGOOD high. -/
def inBoot (s : State) : Bool := s.pin.pwrgood && !s.pin.stopped && regF s .glb 0 0x004 3 0 == 0

/-- Every 10 ms in BOOT with a rail out of tolerance. -/
def execRailCheckRetry (railsOk : Nat) (s : State) : Host.Outcome State Fault Refusal :=
  .next (if inBoot s && s.pin.railOk != 127 then { s with pin := { s.pin with railOk := railsOk % 128 } } else s)

def execPowerOnReset (env : BootEnv) (s : State) : Host.Outcome State Fault Refusal :=
  .next (if !inBoot s || s.pin.railOk != 127 then s
    else
      let b := s.powerBase s.pin
      let k : Kept := if env.flashOk then ⟨((jAll s).map (·.key)).dedup.map (fun x => (x, jValue s x)), !(jAll s).isEmpty⟩ else ⟨[], false⟩
      resetTo s (b.start env k false false 0))

/-! Warm reset (R394, R395). -/

def clearCounters (x : RegKey × Word) : RegKey × Word :=
  match findReg x.1.blk x.1.off with
  | none => x
  | some r => (x.1, BitVec.ofNat 32 ((r.fields.filter (fun f => f.acc == .rc)).foldl (fun w f => setFld w f.hi f.lo 0) x.2.toNat))

/-- Engines stopped, write-combining entries flushed, stacks in self-refresh; kept: device time, stack contents, the always-on domain, the host.
A class change cut short leaves zeros and the former class (R403). -/
def State.warmBase (s : State) : State :=
  let s := s.flushWhere (fun _ => true)
  let cut (i : Nat) : Bool := match s.stk.fill with | some (k, _) => k == i | none => false
  { State.reset with
    time := { s.time with syncs := 0, acquired := false }, regs := (s.regs.filter (fun x => aonKey x.1)).map clearCounters,
    mem := { dram := s.mem.dram.filter (fun c => !cut (keyBg c.1)), synd := s.mem.synd.filter (fun c => !cut (keyBg (16 * c.1))), host := s.mem.host },
    stk := { repair := s.stk.repair, lastAccess := s.time.mono },
    units := (s.units.filter (fun u => u.2.disabled)).map (fun u => (u.1, { disabled := true })),
    net := { tx := s.net.tx }, pcie := { perstLow := s.pcie.perstLow },
    fw := { flash := s.fw.flash, journal := s.fw.journal, jSeq := s.fw.jSeq, jReadOnly := s.fw.jReadOnly, jHour := s.fw.jHour, jLast := s.fw.jLast },
    thm := s.thm, pin := { s.pin with pulseUntil := none } }

/-- A warm reset restores from the retention SRAM, or from the journal when its check fails (R404). -/
def State.warmReset (s : State) (env : BootEnv) (flagged : Bool) (cause : Nat) : State :=
  let k : Kept := if s.fw.retBad then ⟨((jAll s).map (·.key)).dedup.map (fun x => (x, jValue s x)), !(jAll s).isEmpty⟩ else ⟨retained s, true⟩
  warmTo s (s.warmBase.start env k true flagged cause)

/-- The device is powered and out of BOOT, and has not tripped. -/
def running (s : State) : Bool := s.pin.pwrgood && !s.pin.stopped && !s.pin.thermtrip && regF s .glb 0 0x004 3 0 != 0

/-- RESET_N low for `us` µs. -/
def execResetN (us : Nat) (env : BootEnv) (s : State) : Host.Outcome State Fault Refusal :=
  .next (if 50 ≤ us && running s then s.warmReset env false 1 else s)

/-- DEPART FAULT on every pair. -/
def State.departAll (s : State) : State :=
  s.jobs.foldl (fun s (l, j) => if pairLive j then s.decant l 5 3 0 0 0 [] j.lastEnd none else s) s

/-- Who may reset, and as which cause: the PF, an authenticated BMC or JTAG, and device firmware after a device-fatal error. -/
def resetCause (s : State) (c : RClass) : Option Nat :=
  match classNow s c with
  | some .pf => some 2
  | some .bmc => some 3
  | some .jtag => some 3
  | some .fw => if s.fatal then some 4 else none
  | _ => none

def execMgtReset (cls : RClass) (recovery : Bool) (env : BootEnv) (s : State) : Host.Outcome State Fault Refusal :=
  .next (match resetCause s cls with
    | none => s
    | some c => if !running s then s
      else (if s.fatal then s else touchDesc s s.departAll).warmReset env recovery (if recovery then 5 else c))

/-- GO to MGT_RECOV_CTL: the image in partition 0's buffer is checked, written to the slot when WRITE is set, and run; a rejected one leaves the device in
recovery (R400). -/
def recovGo (s : State) (write : Bool) (env : BootEnv) : State :=
  let size := reg s .mgt 0 0x064
  let s := s.setReg .mgt 0 0x060 (b2n write)
  let img := getPbuf s 0 0 (min size slotSize)
  let f := if slotSize < size then 4 else imageFail s img
  if f != 0 then s.setReg .mgt 0 0x068 (f * 256 + 3)
  else
    let (ok, s) := if write then s.programSlot img (env.flashOk && env.slotOk) else (true, s)
    if !ok then s.setReg .mgt 0 0x068 (7 * 256 + 3)
    else
      let s : State := { s.setReg .mgt 0 0x068 2 with mem := { s.mem with pbuf := [] }, fw := { s.fw with recovBoot := true } }
      (s.firmwareStart img env (keptClasses (fun k => match (retained s).find? (fun x => x.1 == k) with | some x => x.2 | none => [])) true).raise { code := 0x9002 }

def execMgtRecovCtl (cls : RClass) (write : Bool) (env : BootEnv) (s : State) : Host.Outcome State Fault Refusal :=
  .next (match classNow s cls with
    | some .bmcU => s
    | some (.vf _) => s
    | none => s
    | some _ => if inRecovery s && regF s .mgt 0 0 3 0 == 3 && running s then warmTo s (recovGo s write env) else s)

/-! The model of a job (R409, Table 16.8). -/

/-- The job's digest-scrubbed weight region: bank-local, with DIG, sealed by its class record, without frames. -/
def weightRegion (s : State) (j : Job) : Option RatEnt :=
  (ratAll s).find? (fun e => e.window == 1 && e.dig && j.parts.contains e.owner && !holdsFrames s e && (classRec s e.n).sealIt)

def mfProgs (m : List Byte) : Nat := leAt m 0x10 4
def mfBlocks (m : List Byte) : Nat := leAt m 0x14 4
def mfProg (m : List Byte) (i o n : Nat) : Nat := leAt m (0x40 + 48 * i + o) n
def mfSha (m : List Byte) (i : Nat) : List Byte := (m.drop (0x50 + 48 * i)).take 32
def mfBlock (m : List Byte) (b : Nat) : List Byte := (m.drop (0x40 + 48 * mfProgs m + 32 * b)).take 32

/-- The manifest and the programs are as they must be. -/
def manifestOk (s : State) (j : Job) (m : List Byte) (ps : List (List Byte)) (e : RatEnt) : Bool :=
  sha3 m == j.manifest && leAt m 0 4 == 0x4B574D46 && leAt m 4 4 == 1 && decide (1 ≤ mfProgs m) && decide (mfProgs m ≤ 8) &&
  m.length == 0x40 + 48 * mfProgs m + 32 * mfBlocks m && decide (mfBlocks m ≤ regionBlocks e) && sealable s e.n (classRec s e.n).digtab &&
  ps.length == mfProgs m &&
  ps.zipIdx.all (fun (p, i) => p.length == mfProg m i 8 4 && mfProg m i 12 1 < 8 && sha3 p == mfSha m i && u64At (headerOf p) 18 == leAt m 8 8)

/-- Block b of the weights: kept where it already has its digest, otherwise as fetched; none when it still differs. Blocks past NBLK hold zeros. -/
def State.weightBlock (s : State) (e : RatEnt) (m : List Byte) (blocks : List (List Byte)) (b : Nat) : Option State :=
  let k := blockAddr e b - bankBase
  if mfBlocks m ≤ b then some (s.putSegs k (zeros 0x100000))
  else if sha3 (blockBytes s e b) == mfBlock m b then some s
  else
    let bs := blocks.getD b []
    if bs.length == 0x100000 && sha3 bs == mfBlock m b then some (s.putSegs k bs) else none

/-- Program i is written after the digest table and loaded under R80; its ID goes into the PROG entry of its SLOT. A rejection raises its code (R84). -/
def State.fetchedProg (s : State) (lead : Nat) (a slot : Nat) (bs : List Byte) : Bool × State :=
  let j := jobD s lead
  if !spreadIn s j.parts.contains a bs.length then (false, s)
  else
    let s := s.fwPoke a bs
    match verify s lead j [lo32 a, hi32 a, BitVec.ofNat 32 bs.length, 0#32, 0#32, 0#32, 0#32, 0#32] (freshProgram s) with
    | (_, some p, _) =>
      let entry (j : Job) : Word × Nat × Nat × Nat := (p.id, (j.cfg.progs.getD slot (0#32, 0, 0, 0)).2)
      (true, s.modJob lead (fun j => { j with progs := j.progs ++ [p], cfg := { j.cfg with progs := j.cfg.progs.set slot (entry j) } }))
    | (r, none, _) => (false, s.raise { code := r.code, part := some lead })

/-- The programs of a model from an address on, up to the first that is rejected. -/
def State.fetchedProgs (s : State) (lead : Nat) (m : List Byte) (a : Nat) : List (List Byte × Nat) → Bool × State
  | [] => (true, s)
  | (p, i) :: rest =>
    match s.fetchedProg lead a (mfProg m i 12 1) p with
    | (true, s) => s.fetchedProgs lead m (a + roundUp p.length 64) rest
    | x => x

/-- Whether everything checks, and the state after it. -/
def State.fetchModel (s : State) (lead : Nat) (m : List Byte) (ps blocks : List (List Byte)) : Bool × State :=
  let j := jobD s lead
  match weightRegion s j with
  | none => (false, s)
  | some e =>
    if !manifestOk s j m ps e then (false, s)
    else
      let tab := (classRec s e.n).digtab
      match (List.range (regionBlocks e)).foldl (fun (x : Option State) b => x.bind (fun s => s.weightBlock e m blocks b)) (some s) with
      | none => (false, s)
      | some s =>
        let zero := sha3 (zeros 0x100000)
        let s := s.fwPoke tab ((List.range (regionBlocks e)).map (fun b => if b < mfBlocks m then mfBlock m b else zero)).flatten
        let s : State := { s with fw := { s.fw with sealedR := s.fw.sealedR.filter (· != e.n) ++ [e.n] } }
        s.fetchedProgs lead m (roundUp (tab + 32 * regionBlocks e) 64) ps.zipIdx

/-- What was fetched of a job's model, after up to 3 further tries of a block, is checked; the ring opens, or the job is dissolved with 0x9008. -/
def execModelFetch (lead : Nat) (manifest : List Byte) (programs blocks : List (List Byte)) (s : State) : Host.Outcome State Fault Refusal :=
  .next (if !s.fw.jobsToFetch.contains lead || (job? s lead).isNone || !fwUp s then s
    else
      let t : State := { s with fw := { s.fw with jobsToFetch := s.fw.jobsToFetch.filter (· != lead) } }
      touchFw s (match t.fetchModel lead manifest programs blocks with
        | (true, u) => u.modJob lead (fun j => { j with open_ := true, idleSince := u.time.mono })
        | (false, u) => ((u.raise { code := 0x9008, part := some lead }).modJob lead (fun j => { j with dissolving := true })).dissolveGo lead))

/-! The journal's writer (R405). -/

def writeOne (s : State) (ok : Bool) (key : Nat) (words : List Word) : State :=
  let r : JRec := { key := key, seq := s.fw.jSeq + 1, words := words }
  let (room, t) := s.compact.append r
  if !room then s.compact
  else if !ok then
    (sectors t (fun x => x.recs.contains r)).foldl (fun t i => (t.setSector i { sector t i with recs := (sector t i).recs.filter (· != r) }).retire i) t
  else
    let hour := s.time.mono / 3600000000000
    { t with fw := { t.fw with jSeq := r.seq, jLast := s.fw.jLast.filter (fun x => x.1 != key) ++ [(key, s.time.mono)],
                               jHour := (hour, (if s.fw.jHour.1 == hour then s.fw.jHour.2 else 0) + recSize r) } }

/-- The retained change of the lowest key that the budget allows is appended; without `ok` its program fails the read-back. -/
def execJournalWrite (ok : Bool) (s : State) : Host.Outcome State Fault Refusal :=
  .next (if !fwUp s || s.fw.jReadOnly then s
    else match (jPending s).find? (fun x => jMay s { key := x.1, seq := s.fw.jSeq + 1, words := x.2 }) with
      | none => s
      | some x => touchFw s (writeOne s ok x.1 x.2))

/-! The configuration scan (R426). -/

/-- A finding: MISMATCH and STALE stand until device firmware commits (R350). -/
def cfgMismatch (s : State) : State :=
  let s := ((s.setRegF .glb 0 0x0C8 0 0 1).bumpRC .glb 0 0x0C8 31 16 1).setRegF .net 0 0x1040 0 0 1
  ({ s with fw := { s.fw with scanDiffs := 0 } } : State).raise { code := 0x9009 }

/-- Device firmware restores what differs from its copy, or takes over what it reads, and commits. -/
def cfgRepair (s : State) : State :=
  let val (f : RegKey → Word) (k : RegKey) : Nat := Nat.land (f k).toNat (cfgMask k)
  let diff := cfgKeys.filter (fun k => val (rawW s) k != val (fwCopy s) k)
  let s : State := if diff.isEmpty then { s with fw := { s.fw with regCopy := cfgKeys.map (fun k => (k, rawW s k)) } }
    else diff.foldl (fun s k => s.setW k (BitVec.ofNat 32 (Nat.lor (Nat.land (rawW s k).toNat (Nat.xor 0xFFFFFFFF (cfgMask k))) (val (fwCopy s) k)))) s
  s.commitCfg

/-- A pass of the scanner. The second successive one that differs since a commit is a mismatch. -/
def scanPass (s : State) : State :=
  let c := cfgCrc (rawW s)
  let s := s.setReg .glb 0 0x0C0 c.toNat
  let n := if reg s .glb 0 0x0CC != 0 && reg s .glb 0 0x0C4 != c.toNat then s.fw.scanDiffs + 1 else 0
  let s : State := { s with fw := { s.fw with scanDiffs := n } }
  if 2 ≤ n then cfgMismatch s else s

/-- The scanner's pass, every 1 ms. What device firmware does about a finding is done by the time of the next pass (log entry 146). -/
def execConfigScan (s : State) : Host.Outcome State Fault Refusal :=
  .next (if s.pin.stopped then s else touchFw s (scanPass (if fwUp s && bitN (reg s .glb 0 0x0C8) 0 then cfgRepair s else s)))

/-! Telemetry (R448). -/

/-- Sums since reset that the snapshot shows as the last 100 ms: CE, UE, fault records, row repairs, events not logged. -/
def telSums (s : State) : List Nat :=
  let stk (o : Nat) : Nat := (List.range 20).foldl (fun n st => n + (rawW s ⟨.stk, st, o, 2⟩).toNat) 0
  [stk 0x010, stk 0x014, (List.range 16).foldl (fun n p => n + reg s .prt p 0x0C8 + (rawW s ⟨.prt, p, 0x0D0, 2⟩).toNat) 0, s.fw.softRows.length,
   (rawW s ⟨.dbgc, 0, 0x010, 2⟩).toNat]

def pairCode : PairSt → Nat | .unpaired => 0 | .connecting => 1 | .syncing => 2 | .paired => 3 | .broken => 4

def hotNow (s : State) (dies : List Nat) : Nat :=
  match (dies.filterMap (fun d => (hottest s d).map Prod.snd)) with
  | [] => 0
  | t :: ts => (BitVec.ofInt 16 (ts.foldl max t)).toNat

/-- The snapshot of Table 19.3 with its CRC. -/
def snapshotOf (s : State) (seq : Nat) : List Byte :=
  let sums := telSums s
  let d (i : Nat) : List Byte := natBytes 4 (sums.getD i 0 - s.fw.snapBase.getD i 0)
  let dig := (s.fw.mismatchLog.filter (fun x => decide (s.time.mono < x.2 + 100000000))).length
  let flags := b2n (digestStale s) + b2n (bitN (reg s .glb 0 0x0C8) 0) * 2 + regF s .thm 0 0 9 9 * 4 + b2n s.fw.recovBoot * 8
  let nib (f : Nat → Nat) : List Byte := natBytes 8 ((List.range 16).foldl (fun w p => w + f p * 16 ^ p) 0)
  let body := natBytes 4 0x4B57544D ++ natBytes 4 seq ++ natBytes 8 s.time.now ++ natBytes 8 Config.serial.toNat ++ natBytes 4 (sysIdx s) ++
    natBytes 1 (regF s .glb 0 0x004 3 0) ++ natBytes 1 (timState s) ++ natBytes 1 flags ++ zeros 1 ++ couplingDigest s ++
    natBytes 2 (regF s .thm 0 0x030 15 0) ++ natBytes 2 (regF s .thm 0 0x024 11 0) ++ natBytes 2 (clockMhz s) ++ natBytes 1 (regF s .thm 0 0 8 6) ++
    natBytes 1 (regF s .thm 0 0x010 7 0) ++ natBytes 2 (hotNow s [0]) ++ natBytes 2 (hotNow s ((List.range 20).map (· + 1))) ++ zeros 4 ++
    nib (pState s) ++ nib (fun p => match job? s p with | some j => pairCode j.pair.st | none => 0) ++
    ((List.range 16).map (fun p => natBytes 4 (match job? s p with | some j => j.tokens100 | none => 0))).flatten ++
    d 0 ++ d 1 ++ natBytes 4 dig ++ d 2 ++ d 3 ++ d 4 ++ zeros 4
  body ++ wordBytes (crc32c body)

/-- Every tenth snapshot goes into the event log as four records. -/
def logSnapshot (s : State) (seq : Nat) (bs : List Byte) : State :=
  (List.range 4).foldl (fun s i =>
    s.evWrite { code := 0x9010, detail := (bytesWords 12 (bs.drop (48 * i))).map (·.toNat) } (i + seq % 65536 * 65536)) s

def snapStep (s : State) : State :=
  let seq := s.fw.snapSeq + 1
  let bs := snapshotOf s seq
  let s : State := { s with fw := { s.fw with snapSeq := seq, snapshot := bs, snapBase := telSums s }, jobs := s.jobs.map (fun (l, j) => (l, { j with tokens100 := 0 })) }
  if seq % 10 == 0 then logSnapshot s seq bs else s

/-- In recovery the boot ROM forms it, from the same state. -/
def execTelemetrySnapshot (s : State) : Host.Outcome State Fault Refusal :=
  .next (if !s.pin.stopped && (fwUp s || inRecovery s) then touchFw s (snapStep s) else s)

/-! Sleep (R30, R410, R411). -/

/-- No request in PREFILL, DECODE or RECOMPUTE and no ring record for the idle interval. -/
def jobIdle (s : State) (j : Job) : Bool :=
  j.runs.isEmpty && j.formed.isNone && j.saved.isNone && !j.debugHold && !j.dissolving && ringCount j == 0 &&
  (reqsWhere s j entActive).isEmpty && decide (j.idleSince + 1000000 * s.fw.idleMs ≤ s.time.mono)

def execPartitionSleep (lead : Nat) (s : State) : Host.Outcome State Fault Refusal :=
  .next (match job? s lead with
    | none => s
    | some j => if pState s lead == pIdle && jobIdle s j then
        touchServ s (j.parts.foldl (fun s p => s.modPart p (fun q => { q with asleep := true })) s) else s)

/-- A ring write, doorbell, flag set, Decant message or PRT_JOBCTL command wakes a sleeping job; suspended partitions wake only for RESUME or DISSOLVE. -/
def execPartitionWake (lead : Nat) (s : State) : Host.Outcome State Fault Refusal :=
  .next (match job? s lead with
    | none => s
    | some j => if j.saved.isSome then s else touchServ s (s.wakeJob lead))

/-- A partition FREE for 1 s loses its SRAM contents. -/
def State.deepen (s : State) (p : Nat) : State :=
  let s := s.modPart p (fun q => { q with asleep := true, deep := true, trace := [] })
  { s with vecs := s.vecs.filter (fun e => e.1 / 16 != p), atts := s.atts.filter (fun e => e.1 / 16 != p),
           mem := { s.mem with pbuf := s.mem.pbuf.filter (fun c => c.1 / 2 ^ 25 != p), scratch := s.mem.scratch.filter (fun c => c.1 / 2 ^ 26 != p),
                               acc := s.mem.acc.filter (fun e => e.1 / 128 / 2048 / 16 != p) } }

def execDeepSleep (p : Nat) (s : State) : Host.Outcome State Fault Refusal :=
  .next (if p < 16 && (part s p).lead.isNone && pState s p == pFree && decide ((part s p).freeSince + 1000000000 ≤ s.time.mono) then touchServ s (s.deepen p) else s)

end Sys2Proof.Machine
end

