-- ==== Sys2Proof/Machine/Requests.lean ====
section
/-! DEFINITION. The requests to device firmware (R423, R424, Table 17.4), and the BMC's session (R421). -/

namespace Sys2Proof.Machine

/-- A request that changes nothing. -/
def stop_ (s : State) (status : Nat) (detail : Nat := 0) : Served := { status := status, detail := detail, s := s }
def done_ (s : State) (payload : List Byte := []) : Served := { status := stOk, payload := payload, s := s }

/-- PF and authenticated BMC. -/
def aPB : Nat := 5

/-! Regions (R214, R215, R85, R375). -/

/-- Widths and ranges of Table 09.3. -/
def ratFieldsOk (f : RatFields) : Bool :=
  decide (f.window < 2) && decide (f.owner < 16) && f.base % 0x200000 == 0 && decide (f.base < 2 ^ 48) && decide (1 ≤ f.size) && decide (f.size < 2 ^ 20) &&
  decide (f.pcsel < 2 ^ 16) && decide (f.perm < 128)

/-- Widths and ranges of Table 15.4. -/
def classFieldsOk (r : ClassRec) : Bool :=
  decide (r.rat < 64) && decide (r.cls < 3) && decide (r.sysidx < 2 ^ 32) && decide (r.raddr < 2 ^ 64) && decide (r.rkey < 2 ^ 32) && decide (r.digtab < 2 ^ 64)

def State.putClass (s : State) (r : ClassRec) : State := { s with fw := { s.fw with regionClass := putT s.fw.regionClass r.rat r } }
def State.dropClass (s : State) (n : Nat) : State :=
  { s with fw := { s.fw with regionClass := delT s.fw.regionClass n, sealedR := s.fw.sealedR.filter (· != n) } }

/-- A record is accepted: kept, and the region sealed when asked. -/
def takeClass (s : State) (r : ClassRec) : Served :=
  if !(ratEnt s r.rat).valid || (r.sealIt && !sealable s r.rat r.digtab) then stop_ s stRefused
  else
    let t := s.putClass r
    done_ (if r.sealIt then t.sealRegion r.rat else t)

def regionSet (s : State) (n : Nat) (f : RatFields) (rec_ : Option ClassRec) : Served :=
  if 64 ≤ n || !ratFieldsOk f || (match rec_ with | some r => !classFieldsOk r || r.rat != n | none => false) then stop_ s stMalformed
  else if !ratChangeOk s n (ratWords f true) then stop_ s stRefused
  else
    let t := (s.dropClass n).ratPut n (ratWords f true)
    match rec_ with
    | none => done_ t.commitCfg
    | some r =>
      let x := takeClass t r
      if x.status == stOk then { x with s := x.s.commitCfg } else stop_ s stRefused

def execRegionSet (h : FwHdr) (rat : Nat) (f : RatFields) (rec : Option ClassRec) (s : State) : Host.Outcome State Fault Refusal :=
  .next (fwReq s h 0x0001 aPB (fun s => regionSet s rat f rec))

def execRegionClear (h : FwHdr) (rat : Nat) (s : State) : Host.Outcome State Fault Refusal :=
  .next (fwReq s h 0x0002 aPB (fun s =>
    if 64 ≤ rat then stop_ s stMalformed
    else if !ratChangeOk s rat [0, 0, 0, 0, 0] then stop_ s stRefused
    else done_ (((s.dropClass rat).ratPut rat [0, 0, 0, 0, 0]).commitCfg)))

def execRegionClass (h : FwHdr) (rec : ClassRec) (s : State) : Host.Outcome State Fault Refusal :=
  .next (fwReq s h 0x0003 aPB (fun s => if !classFieldsOk rec then stop_ s stMalformed else takeClass s rec))

def execClassSet (h : FwHdr) (index : Nat) (crema : Bool) (s : State) : Host.Outcome State Fault Refusal :=
  .next (fwReq s h 0x0004 aPB (fun s =>
    if 4 ≤ index then stop_ s stMalformed
    else match s.classChange index crema with
      | (0, t) => done_ t
      | (r, t) => stop_ t stRefused r))

/-- Base of VF number `vf` (R356). -/
def execVfBar2 (h : FwHdr) (vf base : Nat) (s : State) : Host.Outcome State Fault Refusal :=
  .next (fwReq s h 0x0005 aPB (fun s =>
    if vf == 0 || 16 < vf || base % 0x200000 != 0 || 2 ^ 48 ≤ base then stop_ s stMalformed
    else done_ { s with pcie := { s.pcie with vfBase := putT s.pcie.vfBase (vf - 1) base } }))

/-! Transport tables (R346) and apertures (R357). -/

def qpStOf : Nat → QpSt | 0 => .reset | 1 => .init | 2 => .rtr | 3 => .rts | _ => .error

def qpFieldsOk (qp : Nat) (f : QpFields) : Bool :=
  decide (qp < 16384) && decide (f.st < 5) && decide (f.job < 16) && decide (f.purpose < 4) && (decide (f.peer < 65536) || f.peer == 0xFFFFFFFF) &&
  decide (f.rqpn < 2 ^ 24) && decide (f.sndPsn < 2 ^ 24) && decide (f.rcvPsn < 2 ^ 24) && decide (f.port < 16)

/-- Messages of the former context can no longer complete; QP1 is not firmware's to write. -/
def qpSet (s : State) (qp : Nat) (f : QpFields) : Served :=
  if !qpFieldsOk qp f then stop_ s stMalformed
  else if qp < 2 then stop_ s stRefused
  else
    let s := if (qpOf s qp).unacked.isEmpty then s else (s.qpError qp false).settleNet
    let x : Qp := { st := qpStOf f.st, job := f.job, purpose := f.purpose, peer := f.peer, rqpn := f.rqpn, sndPsn := f.sndPsn, rcvPsn := f.rcvPsn,
                    port := f.port, addr := if f.peer < 65536 then (peer s f.peer).addr else 0, setup := s.time.mono + 1 }
    let s := s.modQp qp (fun _ => if f.st == 0 then {} else x)
    done_ (if f.st == 3 then s.qpMove qp f.port else s)

def execQpSet (h : FwHdr) (qp : Nat) (f : QpFields) (s : State) : Host.Outcome State Fault Refusal :=
  .next (fwReq s h 0x0010 aPB (fun s => qpSet s qp f))

/-- The key keeps its TAG while it is valid; invalidating it changes the TAG. The response is the R_Key. -/
def keySet (s : State) (key : Nat) (valid : Bool) (job rat : Nat) (nrd nwr : Bool) : Served :=
  let e := ratEnt s rat
  let old := (getT s.net.keys key).getD {}
  if 4096 ≤ key || 16 ≤ job || 64 ≤ rat then stop_ s stMalformed
  else if valid && (!e.valid || (nrd && !bitN e.perm 2) || (nwr && !bitN e.perm 3)) then stop_ s stRefused
  else
    let t := Config.keyTag s.free
    let k : KeyEnt := if valid then { valid := true, tag := old.tag, job := job, rat := rat, nrd := nrd, nwr := nwr }
      else { valid := false, tag := if t == old.tag then t + 1 else t, job := job, rat := rat }
    done_ { s with net := { s.net with keys := putT s.net.keys key k } } (natBytes 4 (k.tag.toNat * 4096 + key))

def execKeySet (h : FwHdr) (key : Nat) (valid : Bool) (job rat : Nat) (nrd nwr : Bool) (s : State) : Host.Outcome State Fault Refusal :=
  .next (fwReq s h 0x0011 aPB (fun s => keySet s key valid job rat nrd nwr))

def execPeerSet (h : FwHdr) (first : Nat) (entries : List (BitVec 128 × Bool)) (s : State) : Host.Outcome State Fault Refusal :=
  .next (fwReq s h 0x0012 aPB (fun s =>
    if 128 < entries.length || 65536 < first + entries.length then stop_ s stMalformed
    else done_ (entries.zipIdx.foldl (fun s (e, i) => s.setPeer (first + i) e.1 e.2) s)))

def execApertureSet (h : FwHdr) (part aper : Nat) (f : AptFields) (s : State) : Host.Outcome State Fault Refusal :=
  .next (fwReq s h 0x0013 aPB (fun s =>
    if 16 ≤ part || 16 ≤ aper || f.base % 4096 != 0 || (f.fn != 0 && f.fn != part + 1) then stop_ s stMalformed
    else done_ { s with pcie := { s.pcie with apert := putT s.pcie.apert (part * 16 + aper) f } }))

/-! Pairs and jobs (R382, R383, R292). -/

def execPairSet (h : FwHdr) (rec : List Byte) (s : State) : Host.Outcome State Fault Refusal :=
  .next (fwReq s h 0x0020 aPB (fun s =>
    if !pairFormOk rec then stop_ s stMalformed
    else match job? s (leAt rec 4 1) with
      | none => stop_ s stRefused
      | some j => if pairFits s j rec then done_ (s.startPair (leAt rec 4 1) rec) else stop_ s stRefused))

/-- A request about the job that a partition leads. -/
def leadReq (s : State) (lead : Nat) (f : State → Job → Served) : Served :=
  if 16 ≤ lead then stop_ s stMalformed else match job? s lead with | some j => f s j | none => stop_ s stRefused

def execUnpair (h : FwHdr) (lead : Nat) (s : State) : Host.Outcome State Fault Refusal :=
  .next (fwReq s h 0x0021 aPB (fun s => leadReq s lead (fun s j =>
    if j.pair.st == .unpaired then stop_ s stRefused else done_ (s.unpairJob lead 1))))

/-- The count of failed steps returns to 0. -/
def execJobRelease (h : FwHdr) (lead : Nat) (s : State) : Host.Outcome State Fault Refusal :=
  .next (fwReq s h 0x0022 aPB (fun s => leadReq s lead (fun s j =>
    if j.heldFw then done_ (s.modJob lead (fun j => { j with heldFw := false, failRun := 0 })) else stop_ s stRefused)))

/-- The retained entry is cleared: the unit works again after the next power-up (R374). -/
def execCremaEnable (h : FwHdr) (pc : Nat) (s : State) : Host.Outcome State Fault Refusal :=
  .next (fwReq s h 0x0023 aPB (fun s =>
    if 1280 ≤ pc then stop_ s stMalformed else done_ { s with fw := { s.fw with unitsOff := s.fw.unitsOff.filter (· != pc) } }))

def execScrubSet (h : FwHdr) (patrol digest : Nat) (s : State) : Host.Outcome State Fault Refusal :=
  .next (fwReq s h 0x0024 aPB (fun s =>
    if 10000 < patrol || 100 < digest then stop_ s stMalformed else done_ { s with fw := { s.fw with patrolRate := patrol, digestRate := digest } }))

/-! Settings (R424, R425, R437). -/

/-- Every port of a network die goes down for a change of its mode (R340). -/
def State.netMode (s : State) (die v : Nat) : State := ((List.range 4).foldl (fun s k => s.portFall die k) s).fwSet .net die 0x004 v

/-- Registers that SETTING_WRITE may not touch (R424). -/
def settingShut (b : Blk) (o : Nat) : Bool :=
  (b = .stk && decide (0x008 ≤ o)) || (b = .stkc && (o == 4 || decide (0x800 ≤ o))) || (b = .tim && decide (0x018 ≤ o) && decide (o ≤ 0x024))

def bmcKeyWords (s : State) : List Word := (List.range 8).map (fun i => rawW s ⟨.mgt, 0, 0x040 + 4 * i, 0⟩)

/-- The ceiling may be lowered; a limit above it comes down with it (R437). -/
def State.setCeiling (s : State) (w : Nat) : State :=
  ((s.setRegF .thm 0 0x028 11 0 w).setRegF .thm 0 0x024 11 0 (min (regF s .thm 0 0x024 11 0) w)).raise { code := 0x7001 }

def settingWrite (s : State) (c : RClass) (off : Nat) (mask value : Word) : Served :=
  match decodeOff off with
  | none => stop_ s stMalformed
  | some (b, i, o) =>
    match findReg b o with
    | none => stop_ s stMalformed
    | some r =>
      let g := maskOf (r.fields.filter (fun f => f.acc == .grd))
      let m := mask.toNat
      let v := Nat.lor (Nat.land (reg s b i o) (Nat.xor 0xFFFFFFFF m)) (Nat.land value.toNat m)
      if off % 4 != 0 || 0x4000000 ≤ off || g == 0 || Nat.land m g != m then stop_ s stMalformed
      else if settingShut b o then stop_ s stRefused
      else if b = .mgt && c == .pf && (bmcKeyWords s).any (· != 0#32) then stop_ s stRefused
      else if b = .thm && o == 0x028 then
        if v < 1600 || 3400 < v then stop_ s stMalformed
        else if regF s .thm 0 0x028 11 0 < v then stop_ s stRefused
        else done_ (s.setCeiling v)
      else
        let t := if b = .net && o == 0x004 && v != reg s b i o then s.netMode i v else s.fwSet b i o v
        done_ (if cfgKeys.contains ⟨b, i, o, 0⟩ then t.commitCfg else t)

def execSettingWrite (h : FwHdr) (off : Nat) (mask value : Word) (s : State) : Host.Outcome State Fault Refusal :=
  .next (fwReq s h 0x0025 aPB (fun s => settingWrite s h.cls off mask value))

/-! The configuration (R401). -/

def execConfigRead (h : FwHdr) (copyB : Bool) (off len : Nat) (s : State) : Host.Outcome State Fault Refusal :=
  .next (fwReq s h 0x0030 aPB (fun s =>
    if 8176 < len || copySize < off + len then stop_ s stMalformed else done_ s (flashRead s (copyAt (b2n copyB) + off) len)))

def execConfigWriteStart (h : FwHdr) (s : State) : Host.Outcome State Fault Refusal :=
  .next (fwReq s h 0x0031 aPB (fun s => done_ { s with fw := { s.fw with cfgWrite := some [] } }))

/-- Bytes of the records: offset 0 is the first byte after the header, which firmware writes itself (log entry 52). -/
def execConfigWriteData (h : FwHdr) (off : Nat) (bytes : List Byte) (s : State) : Host.Outcome State Fault Refusal :=
  .next (fwReq s h 0x0031 aPB (fun s =>
    if 4064 < bytes.length || copySize - 64 < off + bytes.length then stop_ s stMalformed
    else match s.fw.cfgWrite with
      | none => stop_ s stRefused
      | some w => done_ { s with fw := { s.fw with cfgWrite := some (bytes.zipIdx.foldl (fun w (b, i) => putT w (off + i) b) w) } }))

/-- The unused copy is completed with SEQ + 1; it takes effect at the next start. -/
def execConfigWriteCommit (h : FwHdr) (s : State) : Host.Outcome State Fault Refusal :=
  .next (fwReq s h 0x0031 aPB (fun s =>
    match s.fw.cfgWrite with
    | none => stop_ s stRefused
    | some w =>
      let len := w.foldl (fun m x => max m (x.1 + 1)) 0
      let recs := (List.range len).map (fun i => (getT w i).getD 0#8)
      let (b, seq) := match s.fw.cfgInUse with | some c => (1 - c, copySeq s c + 1) | none => (0, 1)
      let hdr := wordsBytes [0x4B574346#32, 1#32, BitVec.ofNat 32 seq, BitVec.ofNat 32 len] ++ zeros 16 ++ sha3 recs
      let t : State := { s with fw := { s.fw with cfgWrite := none } }
      done_ (t.flashPut (copyAt b) (hdr ++ recs))))

/-! The image slot, identity and attestation (R399, R412, R413). -/

/-- The image lies in a spread region of a job, or of partition 0 when no job exists. -/
def imageOwned (s : State) (a n : Nat) : Bool :=
  spreadIn s (fun p => if s.jobs.isEmpty then p == 0 else (part s p).lead.isSome) a n

/-- Checks of R397 (DETAIL names the one that fails), then the slot is written and read back. -/
def execFwUpdate (h : FwHdr) (addr size : Nat) (programmed : Bool) (s : State) : Host.Outcome State Fault Refusal :=
  .next (fwReq s h 0x0032 aPB (fun s =>
    if size == 0 || slotSize < size || bankBase ≤ addr then stop_ s stMalformed
    else if !imageOwned s addr size then stop_ s stRefused
    else
      let img := peek s addr size
      let s := s.seen addr size
      if imageFail s img != 0 then stop_ s stRefused (imageFail s img)
      else
        let (ok, t) := s.programSlot img programmed
        if ok then done_ t else stop_ t stFailed))

/-- SHA3-256 of a verified program's bytes. -/
def progHash (s : State) (j : Job) (i : Nat) : List Byte :=
  match progOf j (j.cfg.progs.getD i (0#32, 0, 0, 0)).1 with
  | some p => sha3 (peek s p.image p.size)
  | none => zeros 32

/-- The report of Table 16.11: of the device, or of the job of a partition. -/
def attestation (s : State) (nonce : List Byte) (p : Option Nat) : List Byte :=
  let j := p.bind (jobOf s)
  let body := natBytes 4 0x4B574154 ++ natBytes 2 1 ++ natBytes 1 (b2n p.isSome) ++ natBytes 1 (p.getD 0) ++ natBytes 8 Config.serial.toNat ++ padTo 32 nonce ++
    natBytes 8 s.time.now ++ natBytes 1 (regF s .glb 0 0 7 0) ++ natBytes 1 s.fuse.arvcnt ++
    natBytes 1 (s.fuse.revoked % 16 + regF s .mgt 0 0x010 1 0 * 16) ++ natBytes 1 (s.fuse.layout % 8 + s.fuse.ceilRaise % 4 * 64) ++
    natBytes 4 (reg s .mgt 0 0x004) ++ padTo 32 s.fw.imgDigest ++ natBytes 8 (getWide s ⟨.mgt, 0, 0x008, 0⟩) ++ natBytes 4 (regF s .mgt 0 0x010 15 8) ++
    natBytes 4 (b2n s.fw.recovBoot + b2n (bitN (reg s .glb 0 0x0C8) 0) * 2 + b2n (timState s == tLocked) * 4) ++ padTo 32 s.fw.cfgDigest ++
    couplingDigest s ++ natBytes 8 (match p.bind (fun p => (part s p).lead) with | some l => (jobModel s l).toNat | none => 0) ++ zeros 8 ++
    padTo 32 (match j with | some j => j.manifest | none => []) ++
    (match j with | some j => ((List.range 8).map (progHash s j)).flatten | none => zeros 256) ++ zeros 32 ++ padTo 1312 Config.identityKey
  body ++ padTo 2420 (Config.mldsaSign (sha3 body))

/-- The PF and the BMC get a device-scope report, VF p + 1 one of partition p's job. -/
def execAttest (h : FwHdr) (nonce : List Byte) (s : State) : Host.Outcome State Fault Refusal :=
  .next (fwReq s h 0x0040 7 (fun s =>
    if nonce.length != 32 then stop_ s stMalformed
    else done_ s (attestation s nonce (match h.cls with | .vf p => some p | _ => none))))

/-- The certificate of the identity region, an ASN.1 sequence that fits a response; a corrupt region is an error. -/
def execCertRead (h : FwHdr) (s : State) : Host.Outcome State Fault Refusal :=
  .next (fwReq s h 0x0041 15 (fun s =>
    let hd := flashRead s identityAt 4
    let n := byteAt hd 2 * 256 + byteAt hd 3 + 4
    if byteAt hd 0 != 0x30 || byteAt hd 1 != 0x82 || 8176 < n then stop_ s stFailed else done_ s (flashRead s identityAt n)))

/-! Fuse-counted settings (R406, R407, R437). -/

/-- A fuse is programmed and read back: event 0x8002. -/
def fused (s : State) (f : Fuses) : Served := { done_ (s.raise { code := 0x8002 }) with fuse := some f }

def execArvRaise (h : FwHdr) (target : Nat) (s : State) : Host.Outcome State Fault Refusal :=
  .next (fwReq s h 0x0050 aPB (fun s =>
    if 255 < target then stop_ s stMalformed
    else if target ≤ s.fuse.arvcnt || regF s .mgt 0 0x010 15 8 < target then stop_ s stRefused
    else fused s { s.fuse with arvcnt := target }))

/-- The statement is taken to be the slot number in one byte (log entry 53), signed by another unrevoked slot's key. -/
def execKeyRevoke (h : FwHdr) (slot signer : Nat) (pubkey sig : List Byte) (s : State) : Host.Outcome State Fault Refusal :=
  .next (fwReq s h 0x0051 aPB (fun s =>
    if 4 ≤ slot || 4 ≤ signer || pubkey.length != 1312 || sig.length != 2420 then stop_ s stMalformed
    else if slot == signer || bitN s.fuse.revoked slot || bitN s.fuse.revoked signer || sha3 pubkey != Config.rootKeyDigest signer ||
            !Config.mldsaVerify pubkey sig (sha3 [BitVec.ofNat 8 slot]) then stop_ s stRefused
    else fused s { s.fuse with revoked := s.fuse.revoked + 2 ^ slot }))

def execLayoutClass (h : FwHdr) (n : Nat) (s : State) : Host.Outcome State Fault Refusal :=
  .next (fwReq s h 0x0052 4 (fun s =>
    if 4 < n then stop_ s stMalformed
    else if !s.jobs.isEmpty || 31 ≤ s.fuse.layoutChg then stop_ s stRefused
    else fused s { s.fuse with layout := n, layoutChg := s.fuse.layoutChg + 1 }))

def execCeilingRaise (h : FwHdr) (watts : Nat) (s : State) : Host.Outcome State Fault Refusal :=
  .next (fwReq s h 0x0053 4 (fun s =>
    if watts < 1600 || 3400 < watts then stop_ s stMalformed
    else if watts ≤ regF s .thm 0 0x028 11 0 || 3 ≤ s.fuse.ceilRaise then stop_ s stRefused
    else fused (s.setCeiling watts) { s.fuse with ceilRaise := s.fuse.ceilRaise + 1 }))

/-! The BMC's session (R421). -/

def State.endSession (s : State) : State := s.setRegF .mgt 1 0x038 0 0 0

/-- A nonce; it ends any open session. Refused for 60 s after 8 failures within 60 s. -/
def execBmcChallenge (h : FwHdr) (s : State) : Host.Outcome State Fault Refusal :=
  .next (fwReq s h 0x0060 12 (fun s =>
    if s.time.mono < s.fw.refuseUntil then stop_ s stRefused
    else
      let n := padTo 32 (Config.nonce s.free)
      done_ { s.endSession with fw := { s.fw with nonce := some n } } n))

def minuteNs : Nat := 60000000000

/-- A failed authentication. -/
def authFail (s : State) : Served :=
  let fails := s.fw.bmcFails.filter (fun t => decide (s.time.mono < t + minuteNs)) ++ [s.time.mono]
  let t : State := { s.endSession with fw := { s.fw with nonce := none, bmcFails := fails, refuseUntil := if 8 ≤ fails.length then s.time.mono + minuteNs else s.fw.refuseUntil } }
  stop_ (t.raise { code := 0x8102 }) stRefused

def execBmcAuth (h : FwHdr) (key sig : List Byte) (s : State) : Host.Outcome State Fault Refusal :=
  .next (fwReq s h 0x0061 8 (fun s =>
    if key.length != 1312 || sig.length != 2420 then stop_ s stMalformed
    else match s.fw.nonce with
      | none => authFail s
      | some n =>
        let enrolled := bmcKeyWords s
        if enrolled.all (· == 0#32) || sha3 key != wordsBytes enrolled || !Config.mldsaVerify key sig (sha3 (n ++ natBytes 8 Config.serial.toNat)) then authFail s
        else done_ { s.setRegF .mgt 1 0x038 0 0 1 with fw := { s.fw with nonce := none } }))

def execBmcEnd (h : FwHdr) (s : State) : Host.Outcome State Fault Refusal := .next (fwReq s h 0x0062 4 (fun s => done_ s.endSession))

/-- 60 s without an SMBus transaction. -/
def execBmcSessionTimeout (s : State) : Host.Outcome State Fault Refusal :=
  .next (if session s && decide (s.fw.lastSmb + minuteNs ≤ s.time.mono) then touchFw s s.endSession else s)

end Sys2Proof.Machine
end

