-- ==== Sys2Proof/Machine/Registers.lean ====
section
/-! DEFINITION. Reading and writing registers through BAR0 and its other paths (R8, R339, R416 to R420, R422, R427 to R429): routing of the offsets that
have a behaviour, live views, the mailbox, the request pages, and VF BAR2 (R356). -/

namespace Sys2Proof.Machine

/-- The state that an outcome leaves; a command's own meanings always answer next. -/
def landed (s : State) : Host.Outcome State Fault Refusal → State
  | .next t => t
  | _ => s

def hostCls : RClass → Bool
  | .pf => true | .vf _ => true | _ => false

/-! Where an offset leads. -/

/-- The request page's offsets of the MGT page (R423). -/
def pageOff (o : Nat) : Bool := o == 0x030 || o == 0x034 || (decide (0x1000 ≤ o) && decide (o < 0x4000))

/-- Table 17.2: what a BMC without a session reaches. -/
def openOff (b : Blk) (o : Nat) : Bool :=
  (b = .glb && (o == 0 || o == 4)) || (b = .mgt && (o == 0 || pageOff o)) || (b = .thm && o == 0x018)

/-- Block, copy and page offset of an access by a class; a VF's BAR0 is its PRT instance (R416), and recovery shows GLB and MGT alone (R400). -/
def regAt (s : State) (c : RClass) (off : Nat) : Option (Blk × Nat × Nat) :=
  let w : Option (Blk × Nat × Nat) := match c with
    | .vf p => if off < 0x100000 then some (.prt, p, off % 0x1000) else none
    | _ => decodeOff off
  match w with
  | none => none
  | some (b, i, o) =>
    if inRecovery s && b != .glb && b != .mgt then none
    else if c == .bmcU && !openOff b o then none
    else some (b, if b = .mgt && (pageOff o || o == 0x038) then mgtInst c else i, o)

/-- The MBX field whose first or second word lies at an offset: its first word's offset (R417). -/
def mbxAt (b : Blk) (o : Nat) : Option Nat :=
  let is (x : Nat) : Bool := match findReg b x with | some r => r.fields.any (fun f => f.acc == .mbx) | none => false
  if is o then some o else if 4 ≤ o && is (o - 4) then some (o - 4) else none

/-- Registers of a job that its lead partition holds: doorbells, flag set, truncated runs, runtime settings, ring set, step records (R339). -/
def jobLevel (o : Nat) : Bool := [0x020, 0x024, 0x030, 0x040, 0x044, 0x048, 0x050, 0x054, 0x058, 0x05C, 0x064, 0x118].contains o || decide (0x400 ≤ o)

/-! Reading. -/

/-- A value wider than 32 bits as it stands for a class. -/
def wideVal (s : State) (c : RClass) (b : Blk) (i o : Nat) : Nat :=
  match b, o with
  | .glb, 0x008 => Config.serial.toNat
  | .tim, 0x000 => s.time.now
  | .tim, 0x008 => s.time.mono % 2 ^ 64
  | .stk, 0x018 => getWide s ⟨.stk, i, o, copyOf c⟩
  | .stk, 0x020 => getWide s ⟨.stk, i, o, copyOf c⟩
  | _, _ => getWide s ⟨b, i, o, 0⟩

/-- Reading an error log clears VALID and MULTI in the reader's copy; the BMC and JTAG clear nothing (Table 09.8, R419). -/
def State.clearLog (s : State) (c : RClass) (b : Blk) (i o : Nat) : State :=
  let go : Bool := match c with | .pf => true | .fw => true | _ => false
  if b = .stk && (o == 0x018 || o == 0x020) && go then
    let k : RegKey := ⟨.stk, i, o, copyOf c⟩
    s.setWide k (setFld (setFld (getWide s k) 63 63 0) 61 61 0)
  else s

/-- Word w of the flag store as the job sees it: program-local flags are those of the older step in flight (R308). -/
def flagWord (s : State) (p w : Nat) : Nat :=
  match jobOf s p with
  | none => 0
  | some j =>
    let t := if 64 ≤ w then (j.settle s.time.clk).flags else match j.runs.head? with | some r => (r.settle s.time.clk).flags | none => []
    (List.range 32).foldl (fun v i => v + b2n (flagVal t (32 * w + i)).set * 2 ^ i) 0

/-- CRM_U_STATE of a unit: 5 while disabled or while a pending fault names it, 4 while its partition is paused or suspended, 1 with a piece, else 0. -/
def unitState (s : State) (pc : Nat) : Nat :=
  let u := cunit s pc
  let down := u.disabled || unitFaulted s pc
  match u.queue with
  | [] => if down then 5 * 2 ^ 28 else 0
  | x :: _ =>
    let st := pState s (pc % 16)
    let v := if down then 5 else if st == pPaused || st == pSuspending || st == pSuspended then 4 else 1
    let cmd := ((List.range x.cmds.length).find? (fun k => !x.done.contains k)).getD 0
    v * 2 ^ 28 + x.d.lead * 2 ^ 24 + min u.queue.length 16 * 2 ^ 19 + cmd % 4096

/-- The firmware response as MGT_RSPBUF holds it (Table 17.3). -/
def rspWord (s : State) (i k : Nat) : Nat :=
  match s.fw.rsp.find? (fun x => mgtInst x.1 == i) with
  | none => 0
  | some (_, r) => leAt (natBytes 2 r.code ++ natBytes 2 r.status ++ wordBytes r.tag ++ natBytes 4 r.payload.length ++ natBytes 4 r.detail ++ r.payload) (4 * k) 4

/-- Registers that show state held elsewhere. -/
def liveWord (s : State) (b : Blk) (i o : Nat) : Option Nat :=
  match b with
  | .mgt =>
    if o == 0x010 then some (setFld (reg s .mgt 0 o) 7 4 (s.fuse.revoked % 16))
    else if o == 0x014 then some (s.fuse.arvcnt % 256 * 2 ^ 24 + s.fuse.layoutChg % 32 * 2 ^ 19 + s.fuse.layout % 8 * 2 ^ 16 + s.fuse.ceilRaise % 4 * 2 ^ 14)
    else if 0x2000 ≤ o then some (rspWord s i ((o - 0x2000) / 4))
    else if o == 0x034 then some (reg s .mgt i o)
    else none
  | .stk => if o == 0x028 then some (s.mem.wcb.filter (·.stack == i)).length else if o == 0x004 then some poison.toNat else none
  | .crm =>
    if o == 0x004 then some ((s.units.filter (fun u => u.1 / 64 == i && !u.2.queue.isEmpty)).length * 2 ^ 16 + rampVal s i)
    else if 0x1000 ≤ o && o % 32 == 0 then some (unitState s (64 * i + (o - 0x1000) / 32))
    else none
  | .net =>
    if o == 0x1018 then some (s.net.qps.filter (fun q => q.2.st != .reset)).length
    else if o == 0x101C then some (s.net.peers.filter (fun q => q.2.valid)).length
    else none
  | .dbg => if o == 0x018 then some (64 * (part s i).trace.length) else none
  | .prt => if 0x400 ≤ o then some (flagWord s i ((o - 0x400) / 4)) else none
  | _ => none

/-- Is the mailbox's word of a class: SEL, STATUS, DATA (R422)? -/
def mbxReg (b : Blk) (o : Nat) : Bool := b = .glb && (o == 0x020 || o == 0x024 || (decide (0x040 ≤ o) && decide (o < 0x060)))

def mbxWord (s : State) (c : RClass) (o : Nat) : Nat := (rawW s ⟨.glb, 0, o, slotOf c⟩).toNat
def mbxValid (s : State) (c : RClass) : Bool := bitN (mbxWord s c 0x024) 0

/-- BAND of STK_STATUS is the band of the stack, at most HOT. -/
def stackBand (s : State) (b : Blk) (i o w : Nat) : Nat := if b = .stk && o == 0x008 then setFld w 6 4 (min (bandOf s (1 + i)) 3) else w

/-- A 4-byte read by a class in force, without its side effect. -/
def readReg (s : State) (c : RClass) (b : Blk) (i o : Nat) : Nat :=
  if mbxReg b o then (if 0x040 ≤ o && !mbxValid s c then 0 else mbxWord s c o)
  else if b = .prt && (o == 0x00C || o == 0x010) then (rawW s ⟨.prt, i, o, copyOf c⟩).toNat
  else
    let i' := if b = .prt && jobLevel o then ((part s i).lead).getD i else i
    match liveWord s b i' o with
    | some w => w
    | none => stackBand s b i o (readWord s c b i' o)

/-- Reading GLB_MBX_DATA7 clears VALID (R422). -/
def State.mbxDone (s : State) (c : RClass) : State := s.setW ⟨.glb, 0, 0x024, slotOf c⟩ (BitVec.ofNat 32 (setFld (mbxWord s c 0x024) 0 0 0))

/-- The side effect of a read: RC fields are cleared in the reader's copy, DONE of a request page, VALID after DATA7. A job-level register read through a
member shows the lead's value and clears no copy (log entry 145). -/
def State.afterRead (s : State) (c : RClass) (b : Blk) (i o : Nat) : State :=
  if mbxReg b o then (if o == 0x05C then s.mbxDone c else s)
  else if b = .mgt && o == 0x034 then (if hostCls c then s.setRegF .mgt i o 31 31 0 else s)
  else if b = .prt && jobLevel o && isMember s i then s
  else s.clearRC c b i o

/-- A 4-byte read: value and state after. An offset that no table lists reads zero, a host violation of row 4 (R360). -/
def read4 (s : State) (c : RClass) (off : Nat) : Nat × State :=
  match regAt s c off with
  | none => (0, s)
  | some (b, i, o) =>
    if (findReg b o).isNone && (mbxAt b o).isNone then (0, if hostCls c then s.hostViol 4 else s)
    else (readReg s c b i o, s.afterRead c b i o)

/-- An 8-byte read: of an MBX field its bits 63:0 in one clock, otherwise two 4-byte reads, the lower first (R417). -/
def read8 (s : State) (c : RClass) (off : Nat) : Nat × State :=
  match (regAt s c off).bind (fun (b, i, o) => if mbxAt b o == some o then some (b, i, o) else none) with
  | some (b, i, o) => (wideVal s c b i o % 2 ^ 64, s.clearLog c b i o)
  | none =>
    let (lo, s) := read4 s c off
    let (hi, s) := read4 s c (off + 4)
    (lo + hi * 2 ^ 32, s)

/-- A BAR0 access of wrong alignment: completed with UR (R360). -/
def State.badAccess (s : State) : State := ({ s with pcie := { s.pcie with aer := s.pcie.aer ++ [2], cpl := [] } } : State).hostViol 2

/-- Does an access meet R417: 4 or 8 bytes, naturally aligned? -/
def aligned (off : Nat) (wide : Bool) : Bool := off % (if wide then 8 else 4) == 0

/-- A read of 4 or 8 bytes by a class; what it returns is kept as the last value returned. -/
def execRcRead (cls : RClass) (off : Nat) (wide : Bool) (s : State) : Host.Outcome State Fault Refusal :=
  .next (match classNow s cls with
    | none => s
    | some c =>
      touchDesc s (
        if !aligned off wide then (if hostCls c then s.badAccess else s)
        else
          let (v, t) := if wide then read8 s c off else read4 s c off
          t.complete (natBytes (if wide then 8 else 4) v) false))

/-! The mailbox (R422). -/

/-- A write of GLB_MBX_SEL: part PART of the MBX field at OFFSET is captured, or ERR is set. A capture of part 0 samples the value; a higher part
returns bits of that sample when OFFSET is the same. -/
def capture (s : State) (c : RClass) (v : Nat) : State :=
  let k := slotOf c
  let sel := Nat.land v 0x31FFFFF8
  let off := sel % 2 ^ 25
  let p := fld sel 29 28
  let put (s : State) (o x : Nat) : State := s.setW ⟨.glb, 0, o, k⟩ (BitVec.ofNat 32 x)
  let data (s : State) (x : Nat) : State := (List.range 8).foldl (fun s i => put s (0x040 + 4 * i) (x / 2 ^ (32 * i) % 2 ^ 32)) s
  let s := put s 0x020 sel
  let s := match (regAt s c off).bind (fun (b, i, o) => if mbxAt b o == some o then some (b, i, o) else none) with
    | none => put (data s 0) 0x024 3
    | some (b, i, o) =>
      let now := wideVal s c b i o
      let kept := (s.mbx.find? (fun x => slotOf x.1 == k && x.2.off == off)).map (fun x => x.2.val.toNat)
      let x := if p == 0 then now else kept.getD now
      let s : State := if p == 0 then
          ({ s with mbx := s.mbx.filter (fun x => slotOf x.1 != k || x.2.off != off) ++ [(c, ⟨off, BitVec.ofNat 512 now⟩)] } : State).clearLog c b i o
        else s
      put (data s (x / 2 ^ (256 * p) % 2 ^ 256)) 0x024 1
  match c with | .pf => s.msix 0 1034 | _ => s

/-- A class that has a mailbox: every one but a VF and a BMC without a session. -/
def hasMbx : RClass → Bool
  | .vf _ => false | .bmcU => false | _ => true

/-- What a mailbox command changes beside what `touchDesc` takes over. -/
def touchMbx (s t : State) : State := { touchDesc s t with mbx := t.mbx }

def execGlbMbxSel (cls : RClass) (value : Word) (s : State) : Host.Outcome State Fault Refusal :=
  .next (match classNow s cls with
    | none => s
    | some c => if hasMbx c then touchMbx s (capture s c value.toNat) else s)

/-- GLB_MBX_DATA7 is read. -/
def execMbxData7Read (cls : RClass) (s : State) : Host.Outcome State Fault Refusal :=
  .next (match classNow s cls with
    | none => s
    | some c => if hasMbx c then touchMbx s ((s.mbxDone c).complete (natBytes 4 (readReg s c .glb 0 0x05C)) false) else s)

/-! Rings of the DBG block (R429). -/

/-- Producer register and size of the ring whose CONS lies at an offset. -/
def ringAt (s : State) (b : Blk) (i o : Nat) : Option (Nat × Nat) :=
  match b with
  | .dbg =>
    if o == 0x010 then some (0x00C, 2 ^ ringLog (regF s .dbg i 0x008 20 16) 6 20 6)
    else if 0x04C ≤ o && o < 0x140 && (o - 0x04C) % 16 == 0 then some (o - 4, 2 ^ (ringLog (regF s .dbg i (o - 8) 20 16) 12 30 20 - 12))
    else none
  | .dbgc => if o == 0x00C then some (0x008, 2 ^ ringLog (regF s .dbgc 0 0x004 20 16) 6 16 10) else none
  | _ => none

/-- CONS between PROD − size and PROD is taken; any other value empties the ring. -/
def State.putCons (s : State) (b : Blk) (i o prod n v : Nat) : State :=
  let p := reg s b i prod
  s.setReg b i o (if (p + 2 ^ 32 - v) % 2 ^ 32 ≤ n then v else p)

def execDbgRingConsWrite (cls : RClass) (off : Nat) (value : Word) (s : State) : Host.Outcome State Fault Refusal :=
  .next (match classNow s cls with
    | none => s
    | some c =>
      match (regAt s c off).bind (fun (b, i, o) => (ringAt s b i o).map (fun r => (b, i, o, r))) with
      | some (b, i, o, prod, n) => if c == .bmcU then s else touchDesc s (s.putCons b i o prod n value.toNat)
      | none => s)

/-! Writing. -/

/-- Nonzero bits written to RO, reserved or GRD fields, or to an offset that no table lists (row 3 of Table 14.9). -/
def badBits (b : Blk) (o v : Nat) : Bool :=
  match findReg b o with
  | none => v != 0 && (mbxAt b o).isNone
  | some r =>
    if (mbxAt b o).isSome then false
    else
      let m := maskOf (r.fields.filter (fun f => f.acc != .ro && f.acc != .grd))
      Nat.land v m != v

/-- Writers of GRD fields: firmware, an authenticated BMC, JTAG. -/
def grdWriter : RClass → Bool
  | .fw => true | .bmc => true | .jtag => true | _ => false

/-- A field with no behaviour of its own: its writable bits are stored. A configuration register is written by device firmware, which commits (R420,
R425). -/
def plainWrite (s : State) (c : RClass) (b : Blk) (i o v : Nat) : State :=
  let t := s.writeWord c b i o v
  if grdWriter c && cfgKeys.contains ⟨b, i, o, 0⟩ then
    (if c == .bmc && !fwUp s then s else touchFw s ((s.fwSet b i o (reg t b i o)).commitCfg))
  else touchDesc s t

/-- The runtime settings of a job (R256) within Table 11.1; on the lead partition alone. -/
def jobSetting (s : State) (c : RClass) (p o v : Nat) : State :=
  let ok : Bool := match o with
    | 0x050 => decide (v ≤ 65536)
    | 0x054 => v % 64 == 0 && decide (64 ≤ v) && decide (v ≤ 65536)
    | 0x05C => !bitN v 1 || (match job? s p with | some j => j.cfg.demote == 1 | none => false)
    | _ => true
  if isLead s p && ok then plainWrite s c .prt p o v else s

/-- PRT_FRING_HI: LOG keeps its value while a fault is pending (R333), and for a value outside 4 to 16. -/
def fringHi (s : State) (c : RClass) (p v : Nat) : State :=
  let old := regF s .prt p 0x0C4 20 16
  let l := fld v 20 16
  plainWrite s c .prt p 0x0C4 (setFld v 20 16 (if (part s p).faults.isEmpty && decide (4 ≤ l) && decide (l ≤ 16) then l else old))

/-- PRT_JOBCTL: with GO, the command that CMD names. Each instance has its own: a command on a member is refused there (Table 13.4). -/
def jobctlWrite (s : State) (c : RClass) (p v : Nat) : State :=
  if !bitN v 31 then plainWrite s c .prt p 0x008 v
  else match fld v 2 0 with
    | 1 => landed s (execForm c p s)
    | 2 => landed s (execDissolve c p s)
    | 3 => landed s (execSuspend c p s)
    | 4 => landed s (execJobResume c p s)
    | 5 => landed s (execHold c p s)
    | 6 => landed s (execRelease c p s)
    | _ => plainWrite s c .prt p 0x008 v

/-- PRT_FAULTCTL: with GO, the action on the fault that SLOT or LAST names; action 3 is reserved and does nothing. -/
def faultctlWrite (s : State) (c : RClass) (p v : Nat) : State :=
  let slot := fld v 15 0
  let last := bitN v 18
  if !bitN v 31 then plainWrite s c .prt p 0x0D4 v
  else match fld v 17 16 with
    | 0 => landed s (execFaultResume c p slot last s)
    | 1 => landed s (execRetry c p slot last s)
    | 2 => landed s (execFail c p slot last s)
    | _ => plainWrite s c .prt p 0x0D4 v

/-- A PRT register (Table 13.6, R339). -/
def prtWrite (s : State) (c : RClass) (p o v : Nat) : State :=
  let go := bitN v 31
  match o with
  | 0x008 => jobctlWrite s c p v
  | 0x00C => touchDesc s (s.setW ⟨.prt, p, o, copyOf c⟩ (BitVec.ofNat 32 v))
  | 0x010 => touchDesc s (s.setW ⟨.prt, p, o, copyOf c⟩ (BitVec.ofNat 32 (v % 65536)))
  | 0x020 => if go then landed s (execPrtLoaddb c p s) else s
  | 0x024 => if go then landed s (execPrtReqdb c p s) else s
  | 0x030 => if bitN v 16 then landed s (execPrtFlagsetClear c p (fld v 11 0) s) else landed s (execPrtFlagsetSet c p (fld v 11 0) s)
  | 0x048 => if go then landed s (execPrtTruncCtl c p (bitN v 0) s) else if isLead s p then plainWrite s c .prt p o v else s
  | 0x064 => if go then landed s (execPrtRingset c p (fld v 7 0) s) else if isLead s p then plainWrite s c .prt p o v else s
  | 0x040 => if isLead s p then plainWrite s c .prt p o v else s
  | 0x044 => if isLead s p then plainWrite s c .prt p o v else s
  | 0x050 => jobSetting s c p o v
  | 0x054 => jobSetting s c p o v
  | 0x058 => jobSetting s c p o v
  | 0x05C => jobSetting s c p o v
  | 0x0C4 => fringHi s c p v
  | 0x0D4 => faultctlWrite s c p v
  | _ => plainWrite s c .prt p o v

/-- Codes of Table 17.4. -/
def reqCodes : List Nat :=
  [0x0001, 0x0002, 0x0003, 0x0004, 0x0005, 0x0010, 0x0011, 0x0012, 0x0013, 0x0020, 0x0021, 0x0022, 0x0023, 0x0024, 0x0025, 0x0030, 0x0031, 0x0032,
   0x0040, 0x0041, 0x0050, 0x0051, 0x0052, 0x0053, 0x0060, 0x0061, 0x0062]

def stUnknown : Nat := 6

/-- GO of a request page: firmware takes the request, which a command of its own then serves; a code that no table lists, or a LEN above 4,080, is
answered at once (R423, Table 17.3). -/
def reqGo (s : State) (c : RClass) : State :=
  let i := mgtInst c
  let w0 := reg s .mgt i 0x1000
  let h : FwHdr := ⟨c, BitVec.ofNat 32 (reg s .mgt i 0x1004)⟩
  if authBit s c == 0 || !fwUp s || regF s .mgt i 0x030 30 30 == 1 then s
  else if !reqCodes.contains (w0 % 65536) then touchFw s (s.respondFw h (w0 % 65536) ⟨w0 % 65536, stUnknown, h.tag, 0, []⟩)
  else if 4080 < w0 / 65536 then touchFw s (s.respondFw h (w0 % 65536) ⟨w0 % 65536, stMalformed, h.tag, 0, []⟩)
  else touchFw s (s.setRegF .mgt i 0x030 30 30 1)

/-- An MGT register (Table 17.8); `i` is the class's page for the request registers. -/
def mgtWrite (s : State) (c : RClass) (i o v : Nat) : State :=
  let busy := regF s .mgt i 0x030 30 30 == 1
  if o == 0x020 then (if bitN v 31 then landed s (execMgtReset c (bitN v 1) {} s) else plainWrite s c .mgt 0 o v)
  else if o == 0x030 then (if bitN v 31 then reqGo s c else s)
  else if o == 0x060 then
    (if !inRecovery s then s else if bitN v 31 then landed s (execMgtRecovCtl c (bitN v 0) {} s) else plainWrite s c .mgt 0 o v)
  else if o == 0x064 then (if inRecovery s then plainWrite s c .mgt 0 o v else s)
  else if 0x1000 ≤ o && o < 0x2000 then (if busy || o % 4 != 0 then s else touchDesc s (s.setReg .mgt i o v))
  else plainWrite s c .mgt i o v

/-- A THM register: the power limit is clamped to 1,600 W and the ceiling; the ceiling comes down only (R437). -/
def thmWrite (s : State) (c : RClass) (o v : Nat) : State :=
  let ceil := regF s .thm 0 0x028 11 0
  if o == 0x024 then
    let w := max 1600 (min (v % 4096) ceil)
    let t := s.writeWord c .thm 0 o w
    touchDesc s (if reg t .thm 0 o == reg s .thm 0 o then t else t.raise { code := 0x7001 })
  else if o == 0x028 then
    (if grdWriter c && 1600 ≤ v % 4096 && v % 4096 ≤ ceil then touchDesc s (s.setCeiling (v % 4096)) else s)
  else plainWrite s c .thm 0 o v

/-- A stack page: repair commands, and MAINT, which may be set while no RAT entry is valid or in test mode (R235). -/
def stkWrite (s : State) (c : RClass) (k o v : Nat) : State :=
  if o == 0x008 then
    (if grdWriter c && (!bitN v 0 || (ratAll s).isEmpty || s.pin.testEn) then touchDesc s (s.setRegF .stk k 0x008 0 0 (b2n (bitN v 0))) else s)
  else if o == 0x100 && bitN v 31 then
    let s := plainWrite s c .stk k o (v % 2 ^ 31)
    match fld v 2 0 with
    | 0 => landed s (execRprNop c k s)
    | 1 => landed s (execReadMap c k (fld v 7 3) s)
    | 2 => landed s (execSoftRow c k s)
    | 3 => landed s (execHardRow c k true s)
    | 4 => landed s (execClearSoft c k s)
    | 5 => landed s (execRawRead c k s)
    | 6 => landed s (execRawWrite c k s)
    | _ => s
  else plainWrite s c .stk k o v

/-- The common stack page: class change, RAT entries. -/
def stkcWrite (s : State) (c : RClass) (o v : Nat) : State :=
  if o == 0x004 then
    (if bitN v 31 then landed s (execStkClasschg c (fld v 1 0) (bitN v 4) s) else plainWrite s c .stkc 0 o v)
  else if 0x800 ≤ o then
    (if (o - 0x800) / 32 < 64 then landed s (execRatEntryWrite c ((o - 0x800) / 32) (o % 32 / 4) (BitVec.ofNat 32 v) s) else s)
  else plainWrite s c .stkc 0 o v

/-- NET_MODE: a change takes every port of the die down (R340). -/
def netWrite (s : State) (c : RClass) (i o v : Nat) : State :=
  let w := reg (s.writeWord c .net i o v) .net i o
  if o == 0x004 && grdWriter c && w != reg s .net i o then
    (if c == .bmc && !fwUp s then s else touchFw s ((s.netMode i w).commitCfg))
  else plainWrite s c .net i o v

/-- A 4-byte write by a class in force. What may not be written is dropped; a host's attempt is a violation of row 3 (R8, R360). -/
def write4 (s : State) (c : RClass) (off v : Nat) : State :=
  match regAt s c off with
  | none => s
  | some (b, i, o) =>
    let s := if hostCls c && badBits b o v then touchDesc s (s.hostViol 3) else s
    if (mbxAt b o).isSome then s
    else match b with
      | .glb => if o == 0x020 then (if hasMbx c then touchMbx s (capture s c v) else s) else plainWrite s c .glb 0 o v
      | .mgt => mgtWrite s c i o v
      | .thm => thmWrite s c o v
      | .tim => if o == 0x01C then (if bitN v 31 then landed s (execTimStepCtl c s) else s) else plainWrite s c .tim 0 o v
      | .stk => stkWrite s c i o v
      | .stkc => stkcWrite s c o v
      | .net => netWrite s c i o v
      | .dbg => match ringAt s .dbg i o with | some (p, n) => touchDesc s (s.putCons .dbg i o p n v) | none => plainWrite s c .dbg i o v
      | .dbgc => match ringAt s .dbgc 0 o with | some (p, n) => touchDesc s (s.putCons .dbgc 0 o p n v) | none => plainWrite s c .dbgc 0 o v
      | .prt => prtWrite s c i o v
      | .crmc => touchFw s (plainWrite s c .crmc 0 o v).clipRamps
      | b => plainWrite s c b i o v

/-- A write of 4 bytes, or of 8 as two, the lower first (R417). -/
def execRegisterWrite (cls : RClass) (off : Nat) (value : DWord) (wide : Bool) (s : State) : Host.Outcome State Fault Refusal :=
  .next (match classNow s cls with
    | none => s
    | some c =>
      if !aligned off wide then (if hostCls c then touchDesc s s.badAccess else s)
      else
        let t := write4 s c off (value.toNat % 2 ^ 32)
        if wide then write4 t c (off + 4) (value.toNat / 2 ^ 32) else t)

/-! VF BAR2 (R356, R416). -/

def vfPage : Nat := 0xFFFC000

/-- Byte x of a VF's request page is written: MGT_REQBUF, or GO in the last byte of MGT_REQCTL. -/
def pageByte (s : State) (p a : Nat) (x : Byte) : State :=
  if 0x1000 ≤ a && a < 0x2000 then
    let o := a / 4 * 4
    mgtWrite s (.vf p) (2 + p) o (setFld (reg s .mgt (2 + p) o) (8 * (a % 4) + 7) (8 * (a % 4)) x.toNat)
  else if a == 0x033 && bitN x.toNat 7 then reqGo s (.vf p)
  else s

/-- Reading the page: the four registers, every other offset zero; reading DONE clears it. -/
def pageRead (s : State) (p a n : Nat) : State :=
  let w (o : Nat) : Nat := if pageOff o then readReg s (.vf p) .mgt (2 + p) o else 0
  let bs := (List.range n).map (fun i => BitVec.ofNat 8 (w ((a + i) / 4 * 4) / 2 ^ (8 * ((a + i) % 4))))
  let s := if a ≤ 0x037 && 0x037 < a + n then s.setRegF .mgt (2 + p) 0x034 31 31 0 else s
  s.complete bs false

/-- May VF p + 1 read (4) or write (5) an address: regions owned by partition p, pseudo-channels of its job (R216)? -/
def vfMay (s : State) (p perm a : Nat) : Bool :=
  ratOk s perm (· == p) (match jobOf s p with | some j => j.parts.contains | none => (· == p)) a

def execVfBar2Access (p off : Nat) (write : Option (List Byte)) (len : Nat) (s : State) : Host.Outcome State Fault Refusal :=
  .next (
    let n := match write with | some bs => bs.length | none => len
    if !vfUp s p || s.pin.stopped || 2 ^ 28 < off + n then s
    else if vfPage ≤ off then
      match write with
      | some bs => touchFw s (bs.zipIdx.foldl (fun s (b, i) => pageByte s p (off - vfPage + i) b) s)
      | none => touchDesc s (pageRead s p (off - vfPage) n)
    else if vfPage < off + n then touchDesc s s.bar2Miss
    else
      let a := (getT s.pcie.vfBase p).getD 0 + off
      let s' := s.hostTouch.charge p 2 (ceilDiv n 64)
      touchDesc s (match write with
        | some bs => s'.barWrite (p + 1) (vfMay s p 5) a bs
        | none => s'.barRead (vfMay s p 4) a n))

end Sys2Proof.Machine
end

