-- ==== Sys2Proof/Machine/Slow.lean ====
section
/-! DEFINITION. The two slow ports: SMBus commands of the BMC (R421, R461, Table 20.4) and the JTAG instructions (R462). -/

namespace Sys2Proof.Machine

/-! SMBus (R461). -/

/-- STATUS and data of a response; every transaction counts against the session's 60 s (R421). -/
def State.smbReply (s : State) (status : Nat) (data : List Byte) : State :=
  { s with pin := { s.pin with smb := (status, data) }, fw := { s.fw with lastSmb := s.time.mono } }

def smOk : Nat := 0
def smNoAuthority : Nat := 1
def smMalformed : Nat := 2
def smNotReady : Nat := 3

/-- Device firmware runs and the device has not tripped or stopped. -/
def smReady (s : State) : Bool := fwUp s && !s.pin.stopped && !s.pin.thermtrip

/-- The BMC as it stands: authenticated or not. -/
def bmcNow (s : State) : RClass := if session s then .bmc else .bmcU

/-- Offsets that the always-on domain answers at all times: GLB_ID, GLB_STATE and THM_TRIP. -/
def aonOff (off : Nat) : Option (Blk × Nat) :=
  match decodeOff off with
  | some (.glb, _, 0x000) => some (.glb, 0x000)
  | some (.glb, _, 0x004) => some (.glb, 0x004)
  | some (.thm, _, 0x018) => some (.thm, 0x018)
  | _ => none

/-- Does Table 17.2 give the class a path to an offset? -/
def smbPath (s : State) (off : Nat) : Bool :=
  match decodeOff off with
  | some (b, _, o) => bmcNow s == .bmc || openOff b o
  | none => bmcNow s == .bmc

def execRead32 (off : Nat) (s : State) : Host.Outcome State Fault Refusal :=
  .next (
    if off % 4 != 0 || 0x4000000 ≤ off then s.smbReply smMalformed []
    else match aonOff off with
      | some (b, o) => s.smbReply smOk (natBytes 4 (readWord s .bmcU b 0 o))
      | none =>
        if !smReady s then s.smbReply smNotReady []
        else if !smbPath s off then s.smbReply smNoAuthority []
        else
          let (v, t) := read4 s (bmcNow s) off
          (touchDesc s t).smbReply smOk (natBytes 4 v))

/-- A write of a register; one that device firmware carries out has been carried out when the command ends (R420). -/
def execWrite32 (off : Nat) (value : Word) (s : State) : Host.Outcome State Fault Refusal :=
  .next (
    if off % 4 != 0 || 0x4000000 ≤ off then s.smbReply smMalformed []
    else if !smReady s then s.smbReply smNotReady []
    else if !smbPath s off then s.smbReply smNoAuthority []
    else (write4 s (bmcNow s) off value.toNat).smbReply smOk [])

/-- The latest telemetry snapshot, in recovery too (R400, R448); zeros before the first. -/
def execSnapshotRead (s : State) : Host.Outcome State Fault Refusal :=
  .next (if smReady s || (inRecovery s && !s.pin.stopped) then s.smbReply smOk (padTo 192 s.fw.snapshot) else s.smbReply smNotReady [])

/-- 16 bytes of Table 20.4. The level of PPS_IN at the moment is not state: a free value. -/
def pinBytes (s : State) : List Byte :=
  let p := s.pin
  let b0 := b2n p.pwrgood + b2n p.resetN * 2 + b2n (!s.pcie.perstLow) * 4 + b2n p.testEn * 8 + (Config.freeByte s.free 0).toNat % 2 * 16 +
    b2n (eventPin s) * 32 + b2n p.thermtrip * 64
  natBytes 1 b0 ++ natBytes 1 (p.smbAddr % 4) ++ natBytes 1 (p.railOk % 128) ++ zeros 1 ++ natBytes 4 p.suppressed ++ zeros 8

def execPinstat (s : State) : Host.Outcome State Fault Refusal :=
  .next (({ s with free := s.free + 1 } : State).smbReply smOk (pinBytes s))

/-! JTAG (R462). -/

/-- Instruction codes. -/
def irExtest : Nat := 0x00
def irIdcode : Nat := 0x01
def irSample : Nat := 0x02
def irClamp : Nat := 0x03
def irHighz : Nat := 0x04
def irPulse : Nat := 0x05
def irTrain : Nat := 0x06
def irRegacc : Nat := 0x10
def irBypass : Nat := 0xFF

/-- What the output pins show: the system's levels, the boundary cells, or nothing. -/
def driveSystem : Nat := 0
def driveCells : Nat := 1
def driveOff : Nat := 2

/-- An instruction is in force, with what it makes of the pins. -/
def State.jtag (s : State) (code drive : Nat) : State := { s with pin := { s.pin with ir := code, drive := drive } }

/-- Update drives the outputs from the boundary cells. -/
def execExtest (pins : List Bool) (s : State) : Host.Outcome State Fault Refusal :=
  .next { s.jtag irExtest driveCells with pin := { (s.jtag irExtest driveCells).pin with cells := pins } }

/-- Stepping, part, manufacturer and 1 (R462). -/
def idcodeVal : Nat := 0x1 * 2 ^ 28 + 0x0020 * 2 ^ 12 + 0x2E5 * 2 + 1

def execIdcode (s : State) : Host.Outcome State Fault Refusal :=
  .next { s.jtag irIdcode driveSystem with pin := { (s.jtag irIdcode driveSystem).pin with dr := BitVec.ofNat 64 idcodeVal } }

/-- The cells are loaded without effect on the pins. -/
def execSamplePreload (pins : List Bool) (s : State) : Host.Outcome State Fault Refusal :=
  .next { s.jtag irSample driveSystem with pin := { (s.jtag irSample driveSystem).pin with cells := pins } }

/-- Bypass while the cells hold the pins: the data register is the bypass bit, 0 at capture. -/
def execClamp (s : State) : Host.Outcome State Fault Refusal :=
  .next { s.jtag irClamp driveCells with pin := { (s.jtag irClamp driveCells).pin with dr := 0 } }

/-- Every output floats; bypass. -/
def execHighz (s : State) : Host.Outcome State Fault Refusal :=
  .next { s.jtag irHighz driveOff with pin := { (s.jtag irHighz driveOff).pin with dr := 0 } }

/-- IEEE 1149.6 tests of the ETH and PE lanes: the cells drive, as in EXTEST. -/
def execExtestPulse (pins : List Bool) (s : State) : Host.Outcome State Fault Refusal :=
  .next { s.jtag irPulse driveCells with pin := { (s.jtag irPulse driveCells).pin with cells := pins } }
def execExtestTrain (pins : List Bool) (s : State) : Host.Outcome State Fault Refusal :=
  .next { s.jtag irTrain driveCells with pin := { (s.jtag irTrain driveCells).pin with cells := pins } }

/-- The bit scanned in appears one clock later at TDO; capture loads 0. -/
def State.bypass (s : State) (code : Nat) (tdi : Bool) : State :=
  { s.jtag code driveSystem with pin := { (s.jtag code driveSystem).pin with dr := BitVec.ofNat 64 (b2n tdi) } }

def execBypass (tdi : Bool) (s : State) : Host.Outcome State Fault Refusal := .next (s.bypass irBypass tdi)

/-- What Capture returns: the last read value, bit 62 set if that access failed. -/
def regCaptured (s : State) : BitVec 64 := BitVec.ofNat 64 (b2n s.pin.regFail * 2 ^ 62 + s.pin.regRead.toNat)

/-- Update performs the access of the shifted word in test mode: WRITE bit 63, BAR0 offset bits 57:32, value bits 31:0. An access that no class
can make, or an offset not a multiple of 4, fails. -/
def regAccess (s : State) (dr : BitVec 64) : State :=
  let off := fld dr.toNat 57 32
  let fail (s : State) : State := { s with pin := { s.pin with regFail := true } }
  if s.pin.stopped || off % 4 != 0 then fail s
  else if bitN dr.toNat 63 then
    let t := write4 s .jtag off (dr.toNat % 2 ^ 32)
    { t with pin := { t.pin with regFail := false } }
  else
    let (v, t) := read4 s .jtag off
    let u := touchDesc s t
    { u with pin := { u.pin with regRead := BitVec.ofNat 32 v, regFail := false } }

/-- REGACC, capture then update; outside test mode it acts as BYPASS. -/
def execRegacc (dr : BitVec 64) (s : State) : Host.Outcome State Fault Refusal :=
  .next (if !s.pin.testEn then s.bypass irRegacc (bitN dr.toNat 0)
    else
      let t := s.jtag irRegacc driveSystem
      regAccess { t with pin := { t.pin with dr := regCaptured t } } dr)

end Sys2Proof.Machine
end

