-- ==== Sys2Proof/Machine/Dispatch.lean ====
section
/-! DEFINITION. One arm per command: each row of spec/opcode_table.json has its meaning in one direct call. -/

namespace Sys2Proof.Machine

def exec (i : Instr) (s : State) : Host.Outcome State Fault Refusal :=
  match i with
  | .matmul d => Sys2Proof.Machine.execMatmul d s
  | .bTilePrefetch d => Sys2Proof.Machine.execBTilePrefetch d s
  | .steer d => Sys2Proof.Machine.execSteer d s
  | .attnPrefill d => Sys2Proof.Machine.execAttnPrefill d s
  | .attnDecode d => Sys2Proof.Machine.execAttnDecode d s
  | .cremaItemDispatch core => Sys2Proof.Machine.execCremaItemDispatch core s
  | .resultRecordMerge core slot => Sys2Proof.Machine.execResultRecordMerge core slot s
  | .kvAppend d => Sys2Proof.Machine.execKvAppend d s
  | .kvSeal d => Sys2Proof.Machine.execKvSeal d s
  | .vlane d => Sys2Proof.Machine.execVlane d s
  | .resultLand core => Sys2Proof.Machine.execResultLand core s
  | .laneNop core o => Sys2Proof.Machine.execLaneNop core o s
  | .laneAdd core o => Sys2Proof.Machine.execLaneAdd core o s
  | .laneSub core o => Sys2Proof.Machine.execLaneSub core o s
  | .laneMul core o => Sys2Proof.Machine.execLaneMul core o s
  | .laneFma core o => Sys2Proof.Machine.execLaneFma core o s
  | .laneMax core o => Sys2Proof.Machine.execLaneMax core o s
  | .laneMin core o => Sys2Proof.Machine.execLaneMin core o s
  | .laneAbs core o => Sys2Proof.Machine.execLaneAbs core o s
  | .laneNeg core o => Sys2Proof.Machine.execLaneNeg core o s
  | .laneMov core o => Sys2Proof.Machine.execLaneMov core o s
  | .laneSel core o => Sys2Proof.Machine.execLaneSel core o s
  | .laneAnd core o => Sys2Proof.Machine.execLaneAnd core o s
  | .laneOr core o => Sys2Proof.Machine.execLaneOr core o s
  | .laneXor core o => Sys2Proof.Machine.execLaneXor core o s
  | .laneShl core o => Sys2Proof.Machine.execLaneShl core o s
  | .laneShr core o => Sys2Proof.Machine.execLaneShr core o s
  | .laneSra core o => Sys2Proof.Machine.execLaneSra core o s
  | .laneCmp core o => Sys2Proof.Machine.execLaneCmp core o s
  | .laneMlog core o => Sys2Proof.Machine.execLaneMlog core o s
  | .laneMcount core o => Sys2Proof.Machine.execLaneMcount core o s
  | .laneExp core o => Sys2Proof.Machine.execLaneExp core o s
  | .laneLog core o => Sys2Proof.Machine.execLaneLog core o s
  | .laneRcp core o => Sys2Proof.Machine.execLaneRcp core o s
  | .laneRsqrt core o => Sys2Proof.Machine.execLaneRsqrt core o s
  | .laneCvt core o => Sys2Proof.Machine.execLaneCvt core o s
  | .laneScan core o => Sys2Proof.Machine.execLaneScan core o s
  | .laneSegscan core o => Sys2Proof.Machine.execLaneSegscan core o s
  | .laneCompress core o => Sys2Proof.Machine.execLaneCompress core o s
  | .laneExpand core o => Sys2Proof.Machine.execLaneExpand core o s
  | .laneLd core o => Sys2Proof.Machine.execLaneLd core o s
  | .laneLds core o => Sys2Proof.Machine.execLaneLds core o s
  | .laneAccld core o => Sys2Proof.Machine.execLaneAccld core o s
  | .laneSt core o => Sys2Proof.Machine.execLaneSt core o s
  | .laneSts core o => Sys2Proof.Machine.execLaneSts core o s
  | .laneStc core o => Sys2Proof.Machine.execLaneStc core o s
  | .sample d => Sys2Proof.Machine.execSample d s
  | .move d => Sys2Proof.Machine.execMove d s
  | .gather d => Sys2Proof.Machine.execGather d s
  | .scatter d => Sys2Proof.Machine.execScatter d s
  | .codecScan d => Sys2Proof.Machine.execCodecScan d s
  | .codecEnc d => Sys2Proof.Machine.execCodecEnc d s
  | .codecDec d => Sys2Proof.Machine.execCodecDec d s
  | .cremaSeq d => Sys2Proof.Machine.execCremaSeq d s
  | .cremaGemv d => Sys2Proof.Machine.execCremaGemv d s
  | .flagSet d => Sys2Proof.Machine.execFlagSet d s
  | .flagSetClear d => Sys2Proof.Machine.execFlagSetClear d s
  | .flagWait d => Sys2Proof.Machine.execFlagWait d s
  | .flagWaitSatisfied d => Sys2Proof.Machine.execFlagWaitSatisfied d s
  | .flagWaitTimeout d => Sys2Proof.Machine.execFlagWaitTimeout d s
  | .fence d => Sys2Proof.Machine.execFence d s
  | .drain d => Sys2Proof.Machine.execDrain d s
  | .atomicAdd d => Sys2Proof.Machine.execAtomicAdd d s
  | .atomicMax d => Sys2Proof.Machine.execAtomicMax d s
  | .atomicMin d => Sys2Proof.Machine.execAtomicMin d s
  | .atomicSwap d => Sys2Proof.Machine.execAtomicSwap d s
  | .atomicCas d => Sys2Proof.Machine.execAtomicCas d s
  | .atomicAnd d => Sys2Proof.Machine.execAtomicAnd d s
  | .atomicOr d => Sys2Proof.Machine.execAtomicOr d s
  | .netWrite d => Sys2Proof.Machine.execNetWrite d s
  | .netRead d => Sys2Proof.Machine.execNetRead d s
  | .netSend d => Sys2Proof.Machine.execNetSend d s
  | .watch d => Sys2Proof.Machine.execWatch d s
  | .stepEnd d => Sys2Proof.Machine.execStepEnd d s
  | .descriptorComplete d => Sys2Proof.Machine.execDescriptorComplete d s
  | .cremaPieceQueue pc => Sys2Proof.Machine.execCremaPieceQueue pc s
  | .cremaNop c => Sys2Proof.Machine.execCremaNop c s
  | .stream c => Sys2Proof.Machine.execStream c s
  | .row c => Sys2Proof.Machine.execRow c s
  | .act c => Sys2Proof.Machine.execAct c s
  | .fold c => Sys2Proof.Machine.execFold c s
  | .store c => Sys2Proof.Machine.execStore c s
  | .emit c => Sys2Proof.Machine.execEmit c s
  | .refreshBreak pc => Sys2Proof.Machine.execRefreshBreak pc s
  | .cremaBudgetWindow => Sys2Proof.Machine.execCremaBudgetWindow s
  | .rampFall stack => Sys2Proof.Machine.execRampFall stack s
  | .rampRise stack => Sys2Proof.Machine.execRampRise stack s
  | .request lead => Sys2Proof.Machine.execRequest lead s
  | .cancel lead => Sys2Proof.Machine.execCancel lead s
  | .adapterLoad lead => Sys2Proof.Machine.execAdapterLoad lead s
  | .adapterRetire lead => Sys2Proof.Machine.execAdapterRetire lead s
  | .ringSet lead => Sys2Proof.Machine.execRingSet lead s
  | .stepFormation lead => Sys2Proof.Machine.execStepFormation lead s
  | .stepLaunch lead => Sys2Proof.Machine.execStepLaunch lead s
  | .commit lead => Sys2Proof.Machine.execCommit lead s
  | .heldRecordWrite lead ring => Sys2Proof.Machine.execHeldRecordWrite lead ring s
  | .demotion lead => Sys2Proof.Machine.execDemotion lead s
  | .resourceReturn lead => Sys2Proof.Machine.execResourceReturn lead s
  | .prtLoaddb cls p => Sys2Proof.Machine.execPrtLoaddb cls p s
  | .load => Sys2Proof.Machine.execLoad s
  | .unload => Sys2Proof.Machine.execUnload s
  | .prtReqdb cls p => Sys2Proof.Machine.execPrtReqdb cls p s
  | .prtFlagsetSet cls p flag => Sys2Proof.Machine.execPrtFlagsetSet cls p flag s
  | .prtFlagsetClear cls p flag => Sys2Proof.Machine.execPrtFlagsetClear cls p flag s
  | .prtRingset cls p ring => Sys2Proof.Machine.execPrtRingset cls p ring s
  | .prtTruncCtl cls p nonet => Sys2Proof.Machine.execPrtTruncCtl cls p nonet s
  | .faultResume cls p slot last => Sys2Proof.Machine.execFaultResume cls p slot last s
  | .retry cls p slot last => Sys2Proof.Machine.execRetry cls p slot last s
  | .fail cls p slot last => Sys2Proof.Machine.execFail cls p slot last s
  | .faultHoldExpiry p k => Sys2Proof.Machine.execFaultHoldExpiry p k s
  | .fwUeResolve p k => Sys2Proof.Machine.execFwUeResolve p k s
  | .form cls p => Sys2Proof.Machine.execForm cls p s
  | .dissolve cls p => Sys2Proof.Machine.execDissolve cls p s
  | .suspend cls p => Sys2Proof.Machine.execSuspend cls p s
  | .jobResume cls p => Sys2Proof.Machine.execJobResume cls p s
  | .hold cls p => Sys2Proof.Machine.execHold cls p s
  | .release cls p => Sys2Proof.Machine.execRelease cls p s
  | .regulatorRefill => Sys2Proof.Machine.execRegulatorRefill s
  | .registerWrite cls off value wide => Sys2Proof.Machine.execRegisterWrite cls off value wide s
  | .rcRead cls off wide => Sys2Proof.Machine.execRcRead cls off wide s
  | .glbMbxSel cls value => Sys2Proof.Machine.execGlbMbxSel cls value s
  | .mbxData7Read cls => Sys2Proof.Machine.execMbxData7Read cls s
  | .dbgRingConsWrite cls off value => Sys2Proof.Machine.execDbgRingConsWrite cls off value s
  | .mgtReset cls recovery env => Sys2Proof.Machine.execMgtReset cls recovery env s
  | .mgtRecovCtl cls write env => Sys2Proof.Machine.execMgtRecovCtl cls write env s
  | .regionSet h rat f rec => Sys2Proof.Machine.execRegionSet h rat f rec s
  | .regionClear h rat => Sys2Proof.Machine.execRegionClear h rat s
  | .regionClass h rec => Sys2Proof.Machine.execRegionClass h rec s
  | .classSet h index crema => Sys2Proof.Machine.execClassSet h index crema s
  | .vfBar2 h vf base => Sys2Proof.Machine.execVfBar2 h vf base s
  | .qpSet h qp f => Sys2Proof.Machine.execQpSet h qp f s
  | .keySet h key valid job rat nrd nwr => Sys2Proof.Machine.execKeySet h key valid job rat nrd nwr s
  | .peerSet h first entries => Sys2Proof.Machine.execPeerSet h first entries s
  | .apertureSet h part aper f => Sys2Proof.Machine.execApertureSet h part aper f s
  | .pairSet h rec => Sys2Proof.Machine.execPairSet h rec s
  | .unpair h lead => Sys2Proof.Machine.execUnpair h lead s
  | .jobRelease h lead => Sys2Proof.Machine.execJobRelease h lead s
  | .cremaEnable h pc => Sys2Proof.Machine.execCremaEnable h pc s
  | .scrubSet h patrol digest => Sys2Proof.Machine.execScrubSet h patrol digest s
  | .settingWrite h off mask value => Sys2Proof.Machine.execSettingWrite h off mask value s
  | .configRead h copyB off len => Sys2Proof.Machine.execConfigRead h copyB off len s
  | .configWriteStart h => Sys2Proof.Machine.execConfigWriteStart h s
  | .configWriteData h off bytes => Sys2Proof.Machine.execConfigWriteData h off bytes s
  | .configWriteCommit h => Sys2Proof.Machine.execConfigWriteCommit h s
  | .fwUpdate h addr size programmed => Sys2Proof.Machine.execFwUpdate h addr size programmed s
  | .attest h nonce => Sys2Proof.Machine.execAttest h nonce s
  | .certRead h => Sys2Proof.Machine.execCertRead h s
  | .arvRaise h target => Sys2Proof.Machine.execArvRaise h target s
  | .keyRevoke h slot signer pubkey sig => Sys2Proof.Machine.execKeyRevoke h slot signer pubkey sig s
  | .layoutClass h n => Sys2Proof.Machine.execLayoutClass h n s
  | .ceilingRaise h watts => Sys2Proof.Machine.execCeilingRaise h watts s
  | .bmcChallenge h => Sys2Proof.Machine.execBmcChallenge h s
  | .bmcAuth h key sig => Sys2Proof.Machine.execBmcAuth h key sig s
  | .bmcEnd h => Sys2Proof.Machine.execBmcEnd h s
  | .bmcSessionTimeout => Sys2Proof.Machine.execBmcSessionTimeout s
  | .stkClasschg cls index crema => Sys2Proof.Machine.execStkClasschg cls index crema s
  | .classFillDone => Sys2Proof.Machine.execClassFillDone s
  | .ratEntryWrite cls n word value => Sys2Proof.Machine.execRatEntryWrite cls n word value s
  | .rprNop cls stack => Sys2Proof.Machine.execRprNop cls stack s
  | .readMap cls stack index => Sys2Proof.Machine.execReadMap cls stack index s
  | .softRow cls stack => Sys2Proof.Machine.execSoftRow cls stack s
  | .hardRow cls stack fuseOk => Sys2Proof.Machine.execHardRow cls stack fuseOk s
  | .clearSoft cls stack => Sys2Proof.Machine.execClearSoft cls stack s
  | .rawRead cls stack => Sys2Proof.Machine.execRawRead cls stack s
  | .rawWrite cls stack => Sys2Proof.Machine.execRawWrite cls stack s
  | .timStepCtl cls => Sys2Proof.Machine.execTimStepCtl cls s
  | .refresh pc bank gap => Sys2Proof.Machine.execRefresh pc bank gap s
  | .refreshWindowEnd pc => Sys2Proof.Machine.execRefreshWindowEnd pc s
  | .wcbIdleFlush stack seg => Sys2Proof.Machine.execWcbIdleFlush stack seg s
  | .selfRefreshEntry => Sys2Proof.Machine.execSelfRefreshEntry s
  | .selfRefreshExit stack => Sys2Proof.Machine.execSelfRefreshExit stack s
  | .patrolRead stack => Sys2Proof.Machine.execPatrolRead stack s
  | .digestScrub region a b second => Sys2Proof.Machine.execDigestScrub region a b second s
  | .fwRowRepair pc rowNo => Sys2Proof.Machine.execFwRowRepair pc rowNo s
  | .sramRemap k inst unit uncorrectable => Sys2Proof.Machine.execSramRemap k inst unit uncorrectable s
  | .send h data imm => Sys2Proof.Machine.execSend h data imm s
  | .rdmaWrite h va rkey data => Sys2Proof.Machine.execRdmaWrite h va rkey data s
  | .writeWithImmediate h va rkey data imm => Sys2Proof.Machine.execWriteWithImmediate h va rkey data imm s
  | .rdmaRead h va rkey len => Sys2Proof.Machine.execRdmaRead h va rkey len s
  | .roceAtomic h => Sys2Proof.Machine.execRoceAtomic h s
  | .ack qp psn data => Sys2Proof.Machine.execAck qp psn data s
  | .nak qp psn code => Sys2Proof.Machine.execNak qp psn code s
  | .rnrNak qp psn timer => Sys2Proof.Machine.execRnrNak qp psn timer s
  | .cnp qp => Sys2Proof.Machine.execCnp qp s
  | .pauseFrame die port prio pause => Sys2Proof.Machine.execPauseFrame die port prio pause s
  | .pfcWatchdog die port prio => Sys2Proof.Machine.execPfcWatchdog die port prio s
  | .ptpMessage m => Sys2Proof.Machine.execPtpMessage m s
  | .firmwareFrame port kind payload => Sys2Proof.Machine.execFirmwareFrame port kind payload s
  | .frameDrop die line => Sys2Proof.Machine.execFrameDrop die line s
  | .req m => Sys2Proof.Machine.execReq m s
  | .rep m => Sys2Proof.Machine.execRep m s
  | .rtu m => Sys2Proof.Machine.execRtu m s
  | .rej m reason => Sys2Proof.Machine.execRej m reason s
  | .ackTimeout qp => Sys2Proof.Machine.execAckTimeout qp s
  | .ccEpoch qp => Sys2Proof.Machine.execCcEpoch qp s
  | .portDown die port => Sys2Proof.Machine.execPortDown die port s
  | .portUp die port => Sys2Proof.Machine.execPortUp die port s
  | .trainingRetry die port => Sys2Proof.Machine.execTrainingRetry die port s
  | .delta m => Sys2Proof.Machine.execDelta m s
  | .chunk m => Sys2Proof.Machine.execChunk m s
  | .heartbeat m => Sys2Proof.Machine.execHeartbeat m s
  | .sync m => Sys2Proof.Machine.execSync m s
  | .depart m => Sys2Proof.Machine.execDepart m s
  | .hello m => Sys2Proof.Machine.execHello m s
  | .heartbeatSend lead => Sys2Proof.Machine.execHeartbeatSend lead s
  | .partnerLost lead => Sys2Proof.Machine.execPartnerLost lead s
  | .pairRetry lead => Sys2Proof.Machine.execPairRetry lead s
  | .holdoverEntry => Sys2Proof.Machine.execHoldoverEntry s
  | .holdoverExpiry => Sys2Proof.Machine.execHoldoverExpiry s
  | .ppsIn nsOff => Sys2Proof.Machine.execPpsIn nsOff s
  | .ppsOut => Sys2Proof.Machine.execPpsOut s
  | .alertHoldEnd => Sys2Proof.Machine.execAlertHoldEnd s
  | .pfBar2Access off write len => Sys2Proof.Machine.execPfBar2Access off write len s
  | .vfBar2Access p off write len => Sys2Proof.Machine.execVfBar2Access p off write len s
  | .vfFlr p => Sys2Proof.Machine.execVfFlr p s
  | .pfFlr => Sys2Proof.Machine.execPfFlr s
  | .perst low => Sys2Proof.Machine.execPerst low s
  | .completionTimeout tag => Sys2Proof.Machine.execCompletionTimeout tag s
  | .malformedTlp line => Sys2Proof.Machine.execMalformedTlp line s
  | .linkRetrain gen width => Sys2Proof.Machine.execLinkRetrain gen width s
  | .sensorSample readings => Sys2Proof.Machine.execSensorSample readings s
  | .powerLoop pkg cd stk => Sys2Proof.Machine.execPowerLoop pkg cd stk s
  | .railMeasure mv cur pw => Sys2Proof.Machine.execRailMeasure mv cur pw s
  | .vrAlert low => Sys2Proof.Machine.execVrAlert low s
  | .roastMeasure slow => Sys2Proof.Machine.execRoastMeasure slow s
  | .pwrgoodRise testEn smbAddr railsOk => Sys2Proof.Machine.execPwrgoodRise testEn smbAddr railsOk s
  | .pwrgoodFall => Sys2Proof.Machine.execPwrgoodFall s
  | .railCheckRetry railsOk => Sys2Proof.Machine.execRailCheckRetry railsOk s
  | .powerOnReset env => Sys2Proof.Machine.execPowerOnReset env s
  | .resetN us env => Sys2Proof.Machine.execResetN us env s
  | .modelFetch lead manifest programs blocks => Sys2Proof.Machine.execModelFetch lead manifest programs blocks s
  | .journalWrite ok => Sys2Proof.Machine.execJournalWrite ok s
  | .configScan => Sys2Proof.Machine.execConfigScan s
  | .telemetrySnapshot => Sys2Proof.Machine.execTelemetrySnapshot s
  | .traceDrain p => Sys2Proof.Machine.execTraceDrain p s
  | .partitionSleep lead => Sys2Proof.Machine.execPartitionSleep lead s
  | .partitionWake lead => Sys2Proof.Machine.execPartitionWake lead s
  | .deepSleep p => Sys2Proof.Machine.execDeepSleep p s
  | .read32 off => Sys2Proof.Machine.execRead32 off s
  | .write32 off value => Sys2Proof.Machine.execWrite32 off value s
  | .snapshotRead => Sys2Proof.Machine.execSnapshotRead s
  | .pinstat => Sys2Proof.Machine.execPinstat s
  | .extest pins => Sys2Proof.Machine.execExtest pins s
  | .idcode => Sys2Proof.Machine.execIdcode s
  | .samplePreload pins => Sys2Proof.Machine.execSamplePreload pins s
  | .clamp => Sys2Proof.Machine.execClamp s
  | .highz => Sys2Proof.Machine.execHighz s
  | .extestPulse pins => Sys2Proof.Machine.execExtestPulse pins s
  | .extestTrain pins => Sys2Proof.Machine.execExtestTrain pins s
  | .regacc dr => Sys2Proof.Machine.execRegacc dr s
  | .bypass tdi => Sys2Proof.Machine.execBypass tdi s
  | .pauseWatchdogRelease die port prio => Sys2Proof.Machine.execPauseWatchdogRelease die port prio s
  | .rnrTimerExpiry qp => Sys2Proof.Machine.execRnrTimerExpiry qp s
  | .dissolveHoldExpiry lead => Sys2Proof.Machine.execDissolveHoldExpiry lead s
  | .deviceFatalError => Sys2Proof.Machine.execDeviceFatalError s
  | .hostReadCompletion tag ok data => Sys2Proof.Machine.execHostReadCompletion tag ok data s

end Sys2Proof.Machine
end

