-- ==== Sys2Proof/Safety.lean ====
section
/-! DEFINITION. What counts as a safe state and a completed command, in the terms the statements use: the memories' canonical form, the ranges
of the counted fuses (R406, R407), a descriptor that runs to its end, a lane operation that issues, a request that firmware takes. -/

namespace Sys2Proof.Machine

/-! Memories in canonical form. -/

/-- The four byte memories keep the form: addresses strictly rising, no entry equal to what an unlisted byte reads as, zero. -/
def Memory.wf (m : Mem) : Bool := m.wf

/-! The counted fuses. -/

/-- No counter of the fuses is past the last of its fuses, the layout class is one of 0 to 4 and one root key is not revoked (Table 16.7, R407). -/
def fusesOk (f : Fuses) : Prop :=
  f.arvcnt ≤ 255 ∧ f.revoked < 15 ∧ f.layout ≤ 4 ∧ f.layoutChg ≤ 31 ∧ f.ceilRaise ≤ 3

/-- Blown fuses stay blown: no counter goes back and no revoked key returns. -/
def fusesGrow (a b : Fuses) : Prop :=
  a.arvcnt ≤ b.arvcnt ∧ a.layoutChg ≤ b.layoutChg ∧ a.ceilRaise ≤ b.ceilRaise ∧ ∀ k, bitN a.revoked k = true → bitN b.revoked k = true

/-- A state that may go on working: no fatal error, no trip, clocks running. -/
def State.safe (s : State) : Prop := s.fatal = false ∧ s.pin.thermtrip = false ∧ s.pin.stopped = false

/-! A descriptor that runs to its end. -/

/-- The state after the last instance's last work unit: STATUS and what the instances gathered are in the descriptor's run state (R71). -/
def ranTo (c : Cx) (x : X) : State :=
  let s := x.s.modD c.d (fun y => { y with stat := .ran, sticky := y.sticky ||| x.fl, bytes := y.bytes + x.bytes, drops := y.drops + x.drops,
                                           left := some [] })
  { s with pcie := { s.pcie with arrived := s.pcie.arrived.filter (fun q => q.1 != c.d) } }

/-- Every instance of the descriptor runs to its end: no bound extent is past its maximum, none is zero (R73), no work unit faults or waits. -/
def runsOut (s : State) (c : Cx) (slots : List Nat) (count : Cx → Nat) (body : Cx → Nat → M PUnit) (seq : Bool := false) : Option State :=
  if !(c.tooBig slots).isEmpty || c.skipped slots then none
  else
    let dr := dRunOf s c.d
    let s0 := if dr.stat == .waiting then s.noteStart c else s
    match runInsts seq c count body (dr.left.getD ((List.range c.cores.length).map (fun j => (j, 0)))) { s := s0 } with
    | ([], x) => some (ranTo c x)
    | _ => none

/-! Lane operations. -/

/-- What a lane operation sees when it issues now on a core's vector engine (R121, R129). -/
def laneEnv (s : State) (core : Nat) (o : LaneOp) : LEnv :=
  let v := vec s core
  let x := v.ctx.getD (VCtx.idle core)
  ⟨laneCx s core x, x, o, v.settle⟩

/-- The engine after an operation with that result has issued: one clock on, the result in flight (R127, R130). -/
def laneIssued (e : LEnv) (r : LRes) : Vec :=
  { e.v with clk := e.v.clk + 1, sticky := addFlags e.v.sticky r.fl, recent := e.v.recent ++ r.stores,
             fly := (match r.land with
               | some (lat, d, bits, val) => insLand ⟨e.v.clk + lat, e.v.clk, d, bits, val⟩ e.v.fly
               | none => e.v.fly),
             ctx := (match r.cursors with
               | some cs => some { e.x with cursors := cs }
               | none => e.v.ctx) }

/-- The operation is not excluded by COND and gives a result: what it gives, and what it leaves of the memories. -/
def laneRuns (s : State) (core : Nat) (o : LaneOp) (f : LEnv → M LRes) : Option (LRes × X) :=
  if condOut (laneEnv s core o).x o.cond then none
  else match (f (laneEnv s core o)).run { s := s } with
    | (.ok r, x) => some (r, x)
    | (.error _, _) => none

/-- A lane result of one word per active lane: 32 bits of D per lane (R121). -/
def laneWords (e : LEnv) (lat : Nat) (f : Nat → WF) : LRes :=
  toLanes lat e.o.d (e.lanes.map (fun i => (i, f i)))

/-! Commands of a Crema unit. -/

/-- The k-th unfinished command of a unit is of opcode `op` and may start, its descriptor runs, the unit takes commands, and no word it reads is
uncorrectable (R240, R246): its place, the command, its piece and its context. -/
def cremaReady (s : State) (ca : CmdAt) (op : Nat) : Option (Nat × Nat × CCmd × Piece × Cx) :=
  let u := cunit s ca.pc
  match mayStart u ca.k with
  | none => none
  | some (i, j, q) =>
    match u.queue[i]? with
    | none => none
    | some p =>
      match pieceCx s p.d (p.core % 16) with
      | none => none
      | some c =>
        if q.op != op || !unitRuns s ca.pc p.d || (firstUe u q p).isSome then none else some (i, j, q, p, c)

/-! Records of the request ring. -/

/-- The state in which Barista handles the head record: its read of the record has been made (R220, R260). -/
def headSeen (s : State) (lead : Nat) : State := s.sees [(headAddr (jobD s lead), 4096)]

/-! Packets. -/

/-- The expected packet of a queue pair in RTR or RTS, from its peer (rows 3 to 5 of Table 14.6). -/
def netTakes (s : State) (h : NetHdr) : Prop :=
  ((qpOf s h.qp).st = .rtr ∨ (qpOf s h.qp).st = .rts) ∧ h.src = (qpOf s h.qp).addr ∧ seqSub h.psn (qpOf s h.qp).rcvPsn = 0

/-- What its arrival does before the operation: bytes counted, a mark answered, the trace. -/
def netIn (s : State) (h : NetHdr) (bytes : Nat) : State :=
  let x := qpOf s h.qp
  let s := s.addWide .net (x.port / 4) 0x040 (Config.wireBytes bytes)
  let s := if h.ce then s.marked h.qp else s
  (s.modQp h.qp (fun x => { x with nakSent := false })).trace { cls := 3, kind := 2, part := x.job, data := [h.qp, h.psn, bytes] }

/-- An answer to messages of a queue pair in RTS is counted before it is served. -/
def answerIn (s : State) (q bytes : Nat) : State := s.addWide .net ((qpOf s q).port / 4) 0x040 (Config.wireBytes bytes)

/-! Firmware requests (R421 to R425). -/

/-- Firmware takes a request of a command: the class that sends it now, with one of the authorities it needs. -/
def fwClass (s : State) (h : FwHdr) (auth : Nat) : Option RClass :=
  match classNow s h.cls with
  | none => none
  | some c => if authBit s c == 0 || !fwUp s || Nat.land (authBit s c) auth == 0 then none else some c

/-- The state after firmware has answered (Table 17.3). -/
def fwAnswer (s : State) (h : FwHdr) (c : RClass) (code : Nat) (r : Served) : State :=
  { touchFw s ((r.s.respondFw h code ⟨code, r.status, h.tag, r.detail, r.payload⟩).smbUsed c) with fuse := r.fuse.getD s.fuse }

/-! How far a command reaches. -/

/-- What a command may change. `lane k`: core k's vector engine. `quiet`: units, counters and partitions, no memory. `ctl`: a descriptor's state,
flags and traces, no memory. `pins`: pins and slow ports. `desc`: what descriptors, packets and the host link reach. `load`, `unit`, `mbx`,
`fw`, `fuse`, `time`, `thm`: that and the loader's queue; on-die repair; mailboxes; firmware's own state; fuses; time; temperature. `any`: more. -/
inductive Reach where
  | lane (core : Nat) | quiet | ctl | pins | desc | load | unit | mbx | fw | fuse | time | thm | any
  deriving DecidableEq, Repr

/-- The reach of a command. Writes of registers, resets, power and a sample that may trip the device are `any`. -/
def cmdReach : Instr → Reach
  | .resultLand core | .laneNop core _ | .laneAdd core _ | .laneSub core _ | .laneMul core _ | .laneFma core _ | .laneMax core _ | .laneMin core _
  | .laneAbs core _ | .laneNeg core _ | .laneMov core _ | .laneSel core _ | .laneAnd core _ | .laneOr core _ | .laneXor core _ | .laneShl core _
  | .laneShr core _ | .laneSra core _ | .laneCmp core _ | .laneMlog core _ | .laneMcount core _ | .laneExp core _ | .laneLog core _ | .laneRcp core _
  | .laneRsqrt core _ | .laneCvt core _ | .laneScan core _ | .laneSegscan core _ | .laneCompress core _ | .laneExpand core _ | .laneAccld core _ => .lane core
  | .cremaItemDispatch _ | .cremaPieceQueue _ | .cremaBudgetWindow | .rampFall _ | .rampRise _ | .regulatorRefill => .quiet
  | .bTilePrefetch _ | .flagWait _ | .flagWaitSatisfied _ | .fence _ | .stepEnd _ => .ctl
  | .alertHoldEnd | .railCheckRetry _ | .snapshotRead | .pinstat | .extest _ | .idcode | .samplePreload _ | .clamp | .highz | .extestPulse _
  | .extestTrain _ | .bypass _ => .pins
  | .matmul _ | .steer _ | .attnPrefill _ | .attnDecode _ | .resultRecordMerge _ _ | .kvAppend _ | .kvSeal _ | .vlane _ | .laneLd _ _ | .laneLds _ _
  | .laneSt _ _ | .laneSts _ _ | .laneStc _ _ | .sample _ | .move _ | .gather _ | .scatter _ | .codecScan _ | .codecEnc _ | .codecDec _ | .cremaSeq _
  | .cremaGemv _ | .flagSet _ | .flagSetClear _ | .flagWaitTimeout _ | .drain _ | .atomicAdd _ | .atomicMax _ | .atomicMin _ | .atomicSwap _
  | .atomicCas _ | .atomicAnd _ | .atomicOr _ | .netWrite _ | .netRead _ | .netSend _ | .watch _ | .descriptorComplete _ | .cremaNop _ | .stream _
  | .row _ | .act _ | .fold _ | .store _ | .emit _ | .request _ | .cancel _ | .adapterLoad _ | .adapterRetire _ | .ringSet _ | .stepFormation _
  | .stepLaunch _ | .commit _ | .heldRecordWrite _ _ | .demotion _ | .resourceReturn _ | .refreshBreak _
  | .prtFlagsetSet _ _ _ | .prtFlagsetClear _ _ _ | .prtReqdb _ _ | .prtRingset _ _ _ | .prtTruncCtl _ _ _
  | .faultResume _ _ _ _ | .retry _ _ _ _ | .fail _ _ _ _ | .faultHoldExpiry _ _ | .form _ _ | .dissolve _ _ | .suspend _ _ | .jobResume _ _
  | .hold _ _ | .release _ _ | .rcRead _ _ _ | .dbgRingConsWrite _ _ _ | .send _ _ _ | .rdmaWrite _ _ _ _ | .writeWithImmediate _ _ _ _ _
  | .rdmaRead _ _ _ _ | .roceAtomic _ | .ack _ _ _ | .nak _ _ _ | .rnrNak _ _ _ | .cnp _ | .pauseFrame _ _ _ _ | .pfcWatchdog _ _ _
  | .firmwareFrame _ _ _ | .frameDrop _ _ | .req _ | .rep _ | .rtu _ | .rej _ _ | .ackTimeout _ | .ccEpoch _ | .portDown _ _ | .portUp _ _
  | .trainingRetry _ _ | .delta _ | .chunk _ | .heartbeat _ | .sync _ | .depart _ | .hello _ | .heartbeatSend _ | .partnerLost _ | .pairRetry _
  | .pfBar2Access _ _ _ | .vfFlr _ | .completionTimeout _ | .malformedTlp _ | .linkRetrain _ _ | .traceDrain _ | .partitionSleep _ | .partitionWake _
  | .deepSleep _ | .pauseWatchdogRelease _ _ _ | .rnrTimerExpiry _ | .dissolveHoldExpiry _ | .hostReadCompletion _ _ _ => .desc
  | .prtLoaddb _ _ | .load | .unload => .load
  | .fwUeResolve _ _ | .patrolRead _ | .digestScrub _ _ _ _ | .fwRowRepair _ _ | .sramRemap _ _ _ _ | .deviceFatalError => .unit
  | .glbMbxSel _ _ | .mbxData7Read _ | .pfFlr | .perst _ => .mbx
  | .regionSet _ _ _ _ | .regionClear _ _ | .regionClass _ _ | .classSet _ _ _ | .vfBar2 _ _ _ | .qpSet _ _ _ | .keySet _ _ _ _ _ _ _
  | .peerSet _ _ _ | .apertureSet _ _ _ _ | .pairSet _ _ | .unpair _ _ | .jobRelease _ _ | .cremaEnable _ _ | .scrubSet _ _ _ | .settingWrite _ _ _ _
  | .configRead _ _ _ _ | .configWriteStart _ | .configWriteData _ _ _ | .configWriteCommit _ | .fwUpdate _ _ _ _ | .attest _ _ | .certRead _
  | .bmcChallenge _ | .bmcAuth _ _ _ | .bmcEnd _ | .bmcSessionTimeout | .stkClasschg _ _ _ | .classFillDone | .ratEntryWrite _ _ _ _ | .rprNop _ _
  | .readMap _ _ _ | .softRow _ _ | .hardRow _ _ _ | .clearSoft _ _ | .rawRead _ _ | .rawWrite _ _ | .refresh _ _ _ | .refreshWindowEnd _
  | .wcbIdleFlush _ _ | .selfRefreshEntry | .selfRefreshExit _ | .vfBar2Access _ _ _ _ | .modelFetch _ _ _ _ | .journalWrite _ | .configScan
  | .telemetrySnapshot => .fw
  | .arvRaise _ _ | .keyRevoke _ _ _ _ _ | .layoutClass _ _ | .ceilingRaise _ _ => .fuse
  | .timStepCtl _ | .ptpMessage _ | .holdoverEntry | .holdoverExpiry | .ppsIn _ | .ppsOut => .time
  | .powerLoop _ _ _ | .railMeasure _ _ _ | .vrAlert _ | .roastMeasure _ => .thm
  | .registerWrite _ _ _ _ | .mgtReset _ _ _ | .mgtRecovCtl _ _ _ | .sensorSample _ | .pwrgoodRise _ _ _ | .pwrgoodFall | .powerOnReset _
  | .resetN _ _ | .read32 _ | .write32 _ _ | .regacc _ => .any

/-- Unchanged outside what descriptors reach: queue, time, mailboxes, temperature, pins, fuses, on-die repair, firmware's state but for the count of
R81 and the seals. -/
def descFrame (s t : State) : Prop :=
  t.pending = s.pending ∧ t.time = s.time ∧ t.mbx = s.mbx ∧ t.thm = s.thm ∧ t.pin = s.pin ∧ t.fuse = s.fuse ∧ t.sramRemap = s.sramRemap ∧
  t.sramFixed = s.sramFixed ∧ t.fatal = s.fatal ∧ t.fw = { s.fw with protDrops := t.fw.protDrops, sealedR := t.fw.sealedR }

/-- The monotonic counter, a latched trip and the power-good input as before. -/
def aonFrame (s t : State) : Prop :=
  t.time.mono = s.time.mono ∧ t.pin.thermtrip = s.pin.thermtrip ∧ t.pin.pwrgood = s.pin.pwrgood

/-- What a command of that reach leaves as it was. -/
def Reach.frame : Reach → State → State → Prop
  | .lane k, s, t => t = { s with free := t.free, vecs := t.vecs } ∧ ∀ j, j ≠ k → vec t j = vec s j
  | .quiet, s, t => t = { s with free := t.free, regs := t.regs, units := t.units, atts := t.atts, parts := t.parts }
  | .ctl, s, t => descFrame s t ∧ t.mem = s.mem ∧ t.stk = s.stk ∧ t.wide = s.wide ∧ t.units = s.units ∧ t.vecs = s.vecs ∧ t.atts = s.atts ∧ t.net = s.net
  | .pins, s, t => t = { s with free := t.free, pin := t.pin, fw := { s.fw with lastSmb := t.fw.lastSmb } } ∧ aonFrame s t
  | .desc, s, t => descFrame s t
  | .load, s, t => descFrame s { t with fw := { t.fw with loadq := s.fw.loadq } }
  | .unit, s, t => descFrame s { t with fw := s.fw, sramRemap := s.sramRemap, sramFixed := s.sramFixed, fatal := s.fatal }
  | .mbx, s, t => descFrame s { t with mbx := s.mbx }
  | .fw, s, t => descFrame s { t with fw := s.fw }
  | .fuse, s, t => descFrame s { t with fw := s.fw, fuse := s.fuse }
  | .time, s, t => descFrame s { t with time := s.time, pin := s.pin } ∧ aonFrame s t
  | .thm, s, t => descFrame s { t with thm := s.thm, pin := s.pin } ∧ aonFrame s t
  | .any, s, t => t.pending = s.pending

end Sys2Proof.Machine
end

