-- ==== Sys2Proof/Certificates/Slice0/Obligations.lean ====
section
/-! DEFINITION. The statements for the provers. Completion statements give, per command, the state it leaves where it has its own effect; the
others state rules of spec/, frames and invariants. `touchDesc s t`, `touchFw s t`, … are the state t in what such a command may change and s in
everything else (the frame statements say what that is). -/

open Sys2Proof Sys2Proof.Machine

/-! Completion of the engines' commands: where each has its own effect, and what state it leaves. -/

/-- Tensor engine: a MATMUL or STEER that may start on an array no ATTN_PREFILL holds runs to its end; a B tile is read ahead for the next MATMUL. -/
def Obligations.TensorCommandsComplete : Prop :=
  (∀ (s : State) (d : DescRef) (c : Cx) (t : State), startable s d 0x01 = some c → engineBusy s c 2 0x02 = false →
    runsOut s c (mmSlots c) mmCount mmUnit = some t → exec (.matmul d) s = .next (touchDesc s (t.clearPrefetch c))) ∧
  (∀ (s : State) (d : DescRef) (c : Cx) (t : State), startable s d 0x0A = some c → engineBusy s c 2 0x02 = false →
    runsOut s c [0, 1, 2, 3] (fun c => (c.mine ((c.t 0).dim 1)).2) steerUnit = some t → exec (.steer d) s = .next (touchDesc s t)) ∧
  (∀ (s : State) (d : DescRef) (c : Cx), prefetchable s d = some c →
    exec (.bTilePrefetch d) s =
      .next (s.modJob d.lead (fun j => { j with prefetch := c.cores.foldl (fun t k => putT t (16 * c.part + k) c.d) j.prefetch })))

/-- Attention: appending, sealing, prefill on an idle core, decode on the die or with Crema pieces, the dispatch of an item, the merge of a record. -/
def Obligations.AttentionCommandsComplete : Prop :=
  (∀ (s : State) (d : DescRef) (c : Cx) (t : State), startable s d 0x04 = some c →
    runsOut s c [0, 1] (fun c => (kvaSlots c).2) kvaUnit = some t → exec (.kvAppend d) s = .next (touchDesc s t)) ∧
  (∀ (s : State) (d : DescRef) (c : Cx) (t : State), startable s d 0x05 = some c → c.trunc = none →
    runsOut s c [] (fun c => if (sealEntries c).2 == 0 then 0 else (sealEntries c).2 + 1) sealUnit = some t →
    exec (.kvSeal d) s = .next (touchDesc s t)) ∧
  (∀ (s : State) (d : DescRef) (c : Cx) (t : State), startable s d 0x02 = some c → engineBusy s c 0 0 = false →
    runsOut s c [0, 1, 2] (fun c => if (preHeads c).2 * preSlots c == 0 then 0 else (preHeads c).2 * preSlots c + 1) preUnit = some t →
    exec (.attnPrefill d) s = .next (touchDesc s t)) ∧
  (∀ (s : State) (d : DescRef) (c : Cx) (t : State), startable s d 0x03 = some c → c.att.die = true → c.att.nsplit ≤ 1 →
    runsOut s c [0, 2, 3] (fun c => (decSlots c).2) decUnitD = some t → exec (.attnDecode d) s = .next (touchDesc s t)) ∧
  (∀ (s : State) (d : DescRef) (c : Cx) (t : State), startable s d 0x03 = some c → c.att.die = false →
    runsOut s c [0, 2, 3] (fun c => (decSlots c).2) decUnitC = some t →
    exec (.attnDecode d) s = .next (touchDesc s ((finishCores t c).settleAtt c))) ∧
  (∀ (s : State) (core : Nat) (it : AttItem) (rest : List AttItem) (c : Cx) (k : Nat), (att s core).items = it :: rest →
    pieceCx s it.piece.d (core % 16) = some c →
    (List.range ((c.t 3).dim 0 / max c.att.recsz 1)).find? (fun i => !(slotsUsed s c.d).contains i) = some k →
    (cunit s it.pc).waiting = [] → (cunit s it.pc).canQueue (it.placed c k) = true → (cunit s it.pc).disabled = false → pState s (core / 16) < 4 →
    exec (.cremaItemDispatch core) s =
      .next { s with units := putT s.units it.pc { cunit s it.pc with queue := (cunit s it.pc).queue ++ [it.placed c k] },
                     atts := putT s.atts core { att s core with items := rest, slots := (att s core).slots ++ [(k, it.merge, false)] } }) ∧
  (∀ (s : State) (core slot : Nat) (x : Nat × Nat × Bool) (m : MergeSet) (c0 : Cx),
    (att s core).slots.find? (fun x => x.1 == slot && x.2.2) = some x → (att s core).merges.find? (·.id == x.2.1) = some m →
    pieceCx s m.d (core % 16) = some c0 →
    let c := { c0 with inst := c0.cores.findIdx (· == core % 16) }
    (dRunOf (recordIn s core slot x m c) c.d).stat ≠ .faulted →
    exec (.resultRecordMerge core slot) s = .next (touchDesc s ((postRun (recordIn s core slot x m c) c (10 ^ 9) (finishMerges c)).settleAtt c)))

/-- Vector engine: VLANE and SAMPLE run to their end; RESULT_LAND moves the engine's clock to the next landing, where every result due lands. -/
def Obligations.VectorCommandsComplete : Prop :=
  (∀ (s : State) (d : DescRef) (c : Cx) (t : State), startable s d 0x08 = some c →
    runsOut s c (vlSlots c) (fun c => (vlTiles c).length) vlUnit = some t → exec (.vlane d) s = .next (touchDesc s t)) ∧
  (∀ (s : State) (d : DescRef) (c : Cx) (t : State), startable s d 0x09 = some c →
    runsOut s c ([0, 2] ++ (if c.slotIdx 3 == 0 then [] else [3])) (fun c => (sampRows c).2) sampUnit = some t →
    exec (.sample d) s = .next (touchDesc s t)) ∧
  (∀ (s : State) (core : Nat) (l : Land) (rest : List Land), (vec s core).fly = l :: rest →
    exec (.resultLand core) s =
      (let v := { vec s core with clk := max (vec s core).clk l.lands }
       .next (s.setVec core { ((l :: rest).filter (·.lands ≤ v.clk)).foldl Vec.apply v with fly := (l :: rest).filter (v.clk < ·.lands) })))

/-- Lane operations of one word per active lane, by TYPE (Table 06.4): latency and value. -/
def Obligations.LaneArithmeticComplete : Prop :=
  ∀ (s : State) (core : Nat) (o : LaneOp), condOut (laneEnv s core o).x o.cond = false →
    let e := laneEnv s core o
    let done (lat : Nat) (f : Nat → WF) : Host.Outcome State Fault Refusal :=
      .next { s with free := s.free + 1, vecs := putT s.vecs core (laneIssued e (laneWords e lat f)) }
    exec (.laneNop core o) s = .next { s with free := s.free + 1, vecs := putT s.vecs core (laneIssued e {}) } ∧
    exec (.laneAdd core o) s = done 3 (fun i => if o.ty = 1 then (e.a i + e.b i, 0#5) else fadd (e.a i) (e.b i)) ∧
    exec (.laneSub core o) s = done 3 (fun i => if o.ty = 1 then (e.a i - e.b i, 0#5) else fsub (e.a i) (e.b i)) ∧
    exec (.laneMul core o) s = done 4 (fun i => if o.ty = 1 then (e.a i * e.b i, 0#5) else fmul (e.a i) (e.b i)) ∧
    exec (.laneFma core o) s = done 4 (fun i => if o.ty = 1 then (e.a i * e.b i + e.cc i, 0#5) else ffma (e.a i) (e.b i) (e.cc i)) ∧
    exec (.laneMax core o) s = done 3 (fun i =>
      (if o.ty = 1 then (if (e.a i).slt (e.b i) then e.b i else e.a i) else fmaxW (e.a i) (e.b i), 0#5)) ∧
    exec (.laneMin core o) s = done 3 (fun i =>
      (if o.ty = 1 then (if (e.b i).slt (e.a i) then e.b i else e.a i) else fminW (e.a i) (e.b i), 0#5)) ∧
    exec (.laneAbs core o) s = done 3 (fun i => (if o.ty = 1 then (if (e.a i).msb then - e.a i else e.a i) else fabsW (e.a i), 0#5)) ∧
    exec (.laneNeg core o) s = done 3 (fun i => (if o.ty = 1 then - e.a i else fnegW (e.a i), 0#5)) ∧
    exec (.laneMov core o) s = done 3 (fun i => (e.a i, 0#5)) ∧
    exec (.laneSel core o) s = done 3 (fun i => (if (e.v.mask (o.c - 32)).getLsbD i then e.a i else e.b i, 0#5)) ∧
    exec (.laneAnd core o) s = done 3 (fun i => (e.a i &&& e.b i, 0#5)) ∧
    exec (.laneOr core o) s = done 3 (fun i => (e.a i ||| e.b i, 0#5)) ∧
    exec (.laneXor core o) s = done 3 (fun i => (e.a i ^^^ e.b i, 0#5)) ∧
    exec (.laneShl core o) s = done 3 (fun i => (e.a i <<< ((e.b i).toNat % 32), 0#5)) ∧
    exec (.laneShr core o) s = done 3 (fun i => (e.a i >>> ((e.b i).toNat % 32), 0#5)) ∧
    exec (.laneSra core o) s = done 3 (fun i => ((e.a i).sshiftRight ((e.b i).toNat % 32), 0#5)) ∧
    exec (.laneMcount core o) s = done 3 (fun _ => (BitVec.ofNat 32 e.lanes.length, 0#5)) ∧
    exec (.laneLog core o) s = done 8 (fun i => flog (e.a i)) ∧
    exec (.laneRcp core o) s = done 8 (fun i => frcp (e.a i)) ∧
    exec (.laneRsqrt core o) s = done 8 (fun i => frsqrt (e.a i))

/-- The other lane operations on registers and masks: each issues its result. -/
def Obligations.LaneRegisterOpsComplete : Prop :=
  ∀ (s : State) (core : Nat) (o : LaneOp) (r : LRes) (x : X),
    let t : State := { s with free := s.free + 1, vecs := putT s.vecs core (laneIssued (laneEnv s core o) r) }
    (laneRuns s core o opCmp = some (r, x) → exec (.laneCmp core o) s = .next t) ∧
    (laneRuns s core o opMlog = some (r, x) → exec (.laneMlog core o) s = .next t) ∧
    (laneRuns s core o opExp = some (r, x) → exec (.laneExp core o) s = .next t) ∧
    (laneRuns s core o opCvt = some (r, x) → exec (.laneCvt core o) s = .next t) ∧
    (laneRuns s core o opScan = some (r, x) → exec (.laneScan core o) s = .next t) ∧
    (laneRuns s core o opSegscan = some (r, x) → exec (.laneSegscan core o) s = .next t) ∧
    (laneRuns s core o opCompress = some (r, x) → exec (.laneCompress core o) s = .next t) ∧
    (laneRuns s core o opExpand = some (r, x) → exec (.laneExpand core o) s = .next t) ∧
    (laneRuns s core o opAccld = some (r, x) → exec (.laneAccld core o) s = .next t)

/-- Lane operations on streams: the result or the stores, and what the accesses leave of the memories. -/
def Obligations.LaneStreamOpsComplete : Prop :=
  ∀ (s : State) (core : Nat) (o : LaneOp) (r : LRes) (x : X),
    let t : State := touchDesc s (x.s.setVec core (laneIssued (laneEnv s core o) r))
    (laneRuns s core o opLd = some (r, x) → exec (.laneLd core o) s = .next t) ∧
    (laneRuns s core o opLds = some (r, x) → exec (.laneLds core o) s = .next t) ∧
    (laneRuns s core o opSt = some (r, x) → exec (.laneSt core o) s = .next t) ∧
    (laneRuns s core o opSts = some (r, x) → exec (.laneSts core o) s = .next t) ∧
    (laneRuns s core o opStc = some (r, x) → exec (.laneStc core o) s = .next t)

/-- Movement and codec descriptors run to their end; the encoder is free again after CODEC_ENC. -/
def Obligations.MovementCommandsComplete : Prop :=
  ∀ (s : State) (d : DescRef) (c : Cx) (t : State),
    (startable s d 0x10 = some c → runsOut s c [0, 2] moveCount moveUnit = some t → exec (.move d) s = .next (touchDesc s t)) ∧
    (startable s d 0x11 = some c → runsOut s c [0, 1, 2] (fun c => gsCount c (c.t 2)) gatherUnit = some t →
      exec (.gather d) s = .next (touchDesc s t)) ∧
    (startable s d 0x12 = some c → runsOut s c [0, 1, 2] (fun c => gsCount c (c.t 0)) scatterUnit (!c.acc) = some t →
      exec (.scatter d) s = .next (touchDesc s t)) ∧
    (startable s d 0x14 = some c → runsOut s c [0, 2] (fun _ => 1) scanUnit = some t → exec (.codecScan d) s = .next (touchDesc s t)) ∧
    (startable s d 0x15 = some c → encBusy s c = false →
      runsOut (s.modPart c.part (fun q => { q with encoder := some c.d })) c [0, 2]
        (fun c => codecNB (rawSize (c.t 0).w (c.t 0).elems) + 1) encUnit = some t → (dRunOf t c.d).stat = .ran →
      exec (.codecEnc d) s = .next (touchDesc s (t.modPart c.part (fun q => { q with encoder := none })))) ∧
    (startable s d 0x16 = some c →
      runsOut s c [0, 2] (fun c => (c.mine (codecNB (rawSize (c.t 0).w (c.t 0).elems))).2) decUnit = some t →
      exec (.codecDec d) s = .next (touchDesc s t))

/-- Crema descriptors hand out their pieces and then wait for them. -/
def Obligations.CremaDescriptorsComplete : Prop :=
  ∀ (s : State) (d : DescRef) (c : Cx) (t : State),
    (startable s d 0x18 = some c → runsOut s c (seqSlots (seqWords s c)) (fun _ => 1) seqBody = some t →
      exec (.cremaSeq d) s = .next (touchDesc s (t.awaitPieces c))) ∧
    (startable s d 0x19 = some c → runsOut s c [0, 1, 2] (fun _ => 1) gemvBody = some t →
      exec (.cremaGemv d) s = .next (touchDesc s (t.awaitPieces c)))

/-- Commands of a unit's stream run and are marked done. -/
def Obligations.CremaUnitCommandsComplete : Prop :=
  ∀ (s : State) (ca : CmdAt) (i j : Nat) (q : CCmd) (p : Piece) (c : Cx) (x : X),
    let e : CEnv := ⟨c, ca.pc, p, q⟩
    let s1 := s.cmdStart c ca.pc i q p
    let done : Host.Outcome State Fault Refusal := .next (touchDesc s (x.s.cmdEnd c ca.pc i j q p))
    (cremaReady s ca 0 = some (i, j, q, p, c) → exec (.cremaNop ca) s = .next (touchDesc s (s1.cmdEnd c ca.pc i j q p))) ∧
    (cremaReady s ca 1 = some (i, j, q, p, c) → (streamCmd e).run { s := s1 } = (.ok (), x) → exec (.stream ca) s = done) ∧
    (cremaReady s ca 2 = some (i, j, q, p, c) → (rowCmd e).run { s := s1 } = (.ok (), x) → exec (.row ca) s = done) ∧
    (cremaReady s ca 3 = some (i, j, q, p, c) → (actCmd e).run { s := s1 } = (.ok (), x) → exec (.act ca) s = done) ∧
    (cremaReady s ca 4 = some (i, j, q, p, c) → (foldCmd e).run { s := s1 } = (.ok (), x) → exec (.fold ca) s = done) ∧
    (cremaReady s ca 5 = some (i, j, q, p, c) → (storeCmd e).run { s := s1 } = (.ok (), x) → exec (.store ca) s = done) ∧
    (cremaReady s ca 6 = some (i, j, q, p, c) → (emitCmd e).run { s := s1 } = (.ok (), x) → exec (.emit ca) s = done)

/-- The units' queue, budget windows, ramps and refresh breaks (R239, R253, R254). -/
def Obligations.CremaClocksComplete : Prop :=
  (∀ (s : State) (pc : Nat) (p : Piece) (rest : List Piece), (cunit s pc).waiting = p :: rest → (cunit s pc).canQueue p = true →
    exec (.cremaPieceQueue pc) s =
      .next { s with units := putT s.units pc { cunit s pc with queue := (cunit s pc).queue ++ [p], waiting := rest } }) ∧
  (∀ s : State, exec .cremaBudgetWindow s =
    .next { s with units := s.units.map (fun (k, u) => (k, { u with spent := 0 })) }) ∧
  (∀ (s : State) (stack : Nat), (stackUnits s stack).any (·.used) = false →
    exec (.rampFall stack) s = .next { s with regs := (s.setRamp stack (min (rampFloor s) (rampMax s stack))).regs }) ∧
  (∀ (s : State) (stack : Nat), (stackUnits s stack).any (·.used) = true → exec (.rampFall stack) s =
    .next { s with units := s.units.map (fun (k, u) => if k / 64 == stack then (k, { u with used := false }) else (k, u)) }) ∧
  (∀ (s : State) (stack : Nat), (stackUnits s stack).any (·.waited) = true →
    exec (.rampRise stack) s =
      .next { s with regs := (s.setRamp stack (min (rampVal s stack + rampStep s) (rampMax s stack))).regs,
                     units := s.units.map (fun (k, u) => if k / 64 == stack then (k, { u with waited := false }) else (k, u)) }) ∧
  (∀ (s : State) (pc b : Nat), b < 64 → 8 < (getT s.stk.postponed (pc * 64 + b)).getD 0 →
    let banks := (List.range 64).map (pc * 64 + ·)
    let stall := if banks.any (fun b => !((getT s.stk.rhRows b).getD []).isEmpty) then 432 + 12 else 216 + 12
    let s1 := (s.bump .stk (pc / 64) 0x038).bumpRC .crm (pc / 64) 0x018 31 0 stall
    exec (.refreshBreak pc) s = .next (touchDesc s ((banks.foldl State.breakBank s1).trace
      { cls := 2, kind := 2, part := pc % 16, data := [pc, 0xFFFFFFFF, 0, stall] })))

/-- Flags and waits (R309 to R312): a set or clear goes on its way, a wait starts, finds its flag or times out. -/
def Obligations.FlagCommandsComplete : Prop :=
  (∀ (s : State) (d : DescRef) (c : Cx) (mode : Nat), mode ≤ 1 → startable s d 0x20 = some c → wfld (wAt c.w 13) 0 0 = mode →
    let s1 := ((s.noteStart c).flushPart c.part).descFlag c.d c.part (wAt c.w 12) (mode == 0)
    let s2 := s1.trace { cls := 4, kind := 0, part := c.part, core := c.core, engine := c.engine, attempt := c.attempt, id := c.id,
                         step := c.d.step, data := [(wAt c.w 12).toNat, c.id.toNat] }
    exec (if mode = 0 then .flagSet d else .flagSetClear d) s = .next (touchDesc s (s2.setStat c.d .ran))) ∧
  (∀ (s : State) (d : DescRef) (c : Cx), startable s d 0x21 = some c →
    exec (.flagWait d) s = .next (touchDesc s ((s.noteStart c).setStat c.d .running))) ∧
  (∀ (s : State) (d : DescRef) (j : Job) (r : StepRun) (c : Cx) (t : Nat), goingOn s d 0x21 = some (j, r, c) → foundAt s j r c = some t →
    loses s j c t false = false →
    let f := wfld (wAt c.w 12) 11 0
    let clr : FlagChange := { clk := t, flag := f, set := false, part := some c.part, consume := true }
    let s1 :=
      if waitConsumes c = false then s
      else if f < 2048 then s.modRun c.d.lead c.d.step (fun r => { r with changes := insChange clr r.changes })
      else s.modJob c.d.lead (fun j => { j with changes := insChange clr j.changes })
    let s2 := s1.trace { cls := 4, kind := 1, part := c.part, core := c.core, engine := c.engine, attempt := c.attempt, id := c.id,
                         step := c.d.step, data := [(wAt c.w 12).toNat, c.id.toNat] }
    exec (.flagWaitSatisfied d) s = .next (touchDesc s (s2.setStat c.d .ran))) ∧
  (∀ (s : State) (d : DescRef) (j : Job) (r : StepRun) (c : Cx), goingOn s d 0x21 = some (j, r, c) →
    (dRun r c.d.idx).startClk + waitT s c ≤ s.time.clk → missedAtT s j r c = true → c.trunc = none →
    let s1 := (s.setStat c.d .timedOut 2).trace { cls := 4, kind := 2, part := c.part, core := c.core, engine := c.engine, attempt := c.attempt,
                                                  id := c.id, step := c.d.step, data := [(wAt c.w 12).toNat, c.id.toNat] }
    let s2 := match runOf j r.no with
      | some _ => s1.complRec j { r with runs := modT r.runs c.d.idx {} (fun x => { x with status := 2 }) } c.prog c.d.idx 2
      | none => s1
    exec (.flagWaitTimeout d) s =
      .next (touchDesc s (s2.fault (c.at_ 0) { code := 0x3101, flagA := wAt c.w 12, flagB := wAt c.w 10, resumable := false })))

/-- FENCE, DRAIN, WATCH, STEP_END and the completion of a descriptor (R68, R69, R71). -/
def Obligations.ControlCommandsComplete : Prop :=
  (∀ (s : State) (d : DescRef) (c c' : Cx) (j : Job) (r : StepRun), startable s d 0x22 = some c → named s d = some (j, r, c') →
    exec (.fence d) s = .next (touchDesc s ((s.noteStart c).setStat c.d (if fenceMet r c' then .ran else .running)))) ∧
  (∀ (s : State) (d : DescRef) (c : Cx), startable s d 0x23 = some c →
    let s1 := if wbit (wAt c.w 12) 0 then (s.noteStart c).flushPart c.part else s.noteStart c
    let ws := if wbit (wAt c.w 12) 1 then netWrites s c.part else []
    exec (.drain d) s =
      .next (touchDesc s (s1.modD c.d (fun x => { x with stat := if drained s c.part ws then .ran else .running, left := some ws })))) ∧
  (∀ (s : State) (d : DescRef) (c t : _), startable s d 0x30 = some c →
    runsOut s c [0] (fun _ => 1) (watchUnit (dRunOf s { c.d with idx := descIdx c.prog (wAt c.w 12) })) = some t →
    exec (.watch d) s = .next (touchDesc s t)) ∧
  (∀ (s : State) (d : DescRef) (c : Cx), startable s d 0x3F = some c →
    exec (.stepEnd d) s = .next (touchDesc s ((s.noteStart c).setStat c.d .ran))) ∧
  (∀ (s : State) (d : DescRef) (j : Job) (r : StepRun) (c : Cx), named s d = some (j, r, c) → (dRun r d.idx).stat = .ran →
    r.stopping = none → mayGoOn s c.part r d.idx = true → c.trunc = none →
    let s1 := s.descDone c
    exec (.descriptorComplete d) s = .next (touchDesc s (match (job? s1 d.lead).bind (runOf · r.no) with
      | some q => if q.withdrawn && !inProgress q then (s1.endWithdrawn d.lead r.no).dissolveGo d.lead else s1
      | none => s1)))

/-- ATOMIC by operation, and the network descriptors, which a truncated run with NONET skips (R97, R317, R321). -/
def Obligations.AtomicAndNetworkCommandsComplete : Prop :=
  ∀ (s : State) (d : DescRef) (c : Cx) (t : State),
    (∀ op, startable s d 0x24 = some c → wfld (wAt c.w 12) 3 0 = op → runsOut s c (atomicSlots c) (fun _ => 1) (atomicUnit op) = some t →
      (op = 0 → exec (.atomicAdd d) s = .next (touchDesc s t)) ∧ (op = 1 → exec (.atomicMax d) s = .next (touchDesc s t)) ∧
      (op = 2 → exec (.atomicMin d) s = .next (touchDesc s t)) ∧ (op = 3 → exec (.atomicSwap d) s = .next (touchDesc s t)) ∧
      (op = 4 → exec (.atomicCas d) s = .next (touchDesc s t)) ∧ (op = 5 → exec (.atomicAnd d) s = .next (touchDesc s t)) ∧
      (op = 6 → exec (.atomicOr d) s = .next (touchDesc s t))) ∧
    (startable s d 0x28 = some c → c.trunc = none → runsOut s c [0] (fun c => pkts (netTotal c 0)) (netUnit 1) = some t →
      exec (.netWrite d) s = .next (touchDesc s (t.awaitAck c))) ∧
    (startable s d 0x29 = some c → c.trunc = none → readsFull s (netQp c) = false →
      runsOut s c [2] (fun c => pkts (netTotal c 2)) (netUnit 2) = some t → exec (.netRead d) s = .next (touchDesc s (t.awaitAck c))) ∧
    (startable s d 0x2A = some c → c.trunc = none → runsOut s c [0] (fun c => pkts (netTotal c 0)) (netUnit 0) = some t →
      exec (.netSend d) s = .next (touchDesc s (t.awaitAck c))) ∧
    (∀ n, c.trunc = some (n, true) →
      (startable s d 0x28 = some c → exec (.netWrite d) s = .next (touchDesc s ((s.noteStart c).setStat c.d .ran 1))) ∧
      (startable s d 0x29 = some c → exec (.netRead d) s = .next (touchDesc s ((s.noteStart c).setStat c.d .ran 1))) ∧
      (startable s d 0x2A = some c → exec (.netSend d) s = .next (touchDesc s ((s.noteStart c).setStat c.d .ran 1))))

/-! Completion of Barista's, firmware's and the partitions' commands. -/

/-- Records of the request ring (R259 to R269, R283 to R290): a record that Barista handles and does not refuse. -/
def Obligations.RingRecordsComplete : Prop :=
  ∀ (s0 : State) (lead : Nat), handles s0 lead = true → discards s0 (jobD s0 lead) (headWords s0 (jobD s0 lead)) = false →
    let w := headWords s0 (jobD s0 lead)
    let s := headSeen s0 lead
    let j := jobD s lead
    (∀ (toks : List Word) (s1 : State) (ad n : Nat) (items : Nat × Nat × List Nat), recKind w = 1 → wfld (wAt w 4) 20 0 ≠ 0 → wfld (wAt w 5) 20 0 ≠ 0 →
      wfld (wAt w 4) 20 0 + wfld (wAt w 5) 20 0 ≤ j.cfg.maxLen → (addrAt w 12 ≠ 0 ∨ wfld (wAt w 4) 20 0 ≤ 992) →
      promptOf s lead w = (some toks, s1) → (if u64At w 6 == 0 then some 0 else livePack s1 j (u64At w 6)) = some ad →
      freeReq s1 j = some n → admitItems j (wfld (wAt w 4) 20 0) = some items →
      exec (.request lead) s0 = .next (touchServ s0 (s1.takeReq lead w n toks items ad))) ∧
    (∀ (n : Nat) (rest : List Nat), recKind w = 2 →
      let ns := byAdmit s j (reqsWhere s j (fun e => entActive e && u64At e 0 == recClient w && entRing e == recRing w))
      ns.filter (fun n => !wbit (wAt (ent s j n) 2) 10) ++ ns = n :: rest →
      exec (.cancel lead) s0 = .next (touchServ s0
        ((if (s.cancelSeq lead n).1 then (s.cancelSeq lead n).2.finalNoTok lead n 3 0 0 else (s.cancelSeq lead n).2.deltaState lead n).popRec
          lead 2 0 n))) ∧
    (∀ (pk i : Nat) (bs : List Byte) (s1 : State), recKind w = 3 → lowest j j.cfg.nPack .pack = some pk →
      freeAdap s j = some i →
      (segRuns (u64At w 6) (64 + 128 * j.cfg.layers)).all (fun r => ratJob s 0 j.parts r.1) = true →
      u64At w 6 + (64 + 128 * j.cfg.layers) ≤ spreadTop s → readStack s (u64At w 6) (64 + 128 * j.cfg.layers) = (bs, false, s1) →
      packOk j (u64At w 4) (bytesWords 16 bs) = true → livePack (s1.poke (packAddr j pk) bs) j (u64At w 4) = none →
      let s2 := s1.poke (packAddr j pk) bs
      let g := adapGen (adap s2 j i)
      let s3 := s2.pokeWords (adapAddr j i) [lo32 (u64At w 4), hi32 (u64At w 4), BitVec.ofNat 32 (g + 65536), 0#32,
        lo32 (packAddr j pk), hi32 (packAddr j pk), BitVec.ofNat 32 j.cfg.layers, 0#32]
      exec (.adapterLoad lead) s0 =
        .next (touchServ s0 ((s3.modJob lead (fun j => (j.take (.pack pk)).take (.adapter i))).adapReply lead w 0 0))) ∧
    (∀ (o : Nat), recKind w = 4 → livePack s j (u64At w 4) = some o →
      exec (.adapterRetire lead) s0 = .next (touchServ s0
        (((s.pokeWords (adapAddr j o + 8) [wset (wAt (adap s j o) 2) 17 16 2]).adapSettle lead o).adapReply lead w 0 0))) ∧
    (recKind w = 5 → ringEntryOk ((w.drop 4).take 8) = true → ringBusy s j (recRing w) = false →
      exec (.ringSet lead) s0 = .next (touchServ s0 ((s.setRing lead (recRing w) ((w.drop 4).take 8)).popRec lead 5 0 0xFFFF)))

/-- Forming, launching and committing a step, and what follows a commit (R271 to R280, R287, R295, R262, R325). -/
def Obligations.StepCommandsComplete : Prop :=
  (∀ (s : State) (lead entry : Nat) (p : Prog) (xs : List Slot) (jt : Job), mayForm s lead = true →
    let s1 := formRelieved (s.seesReqs lead) lead
    let f := (formSlots s1 lead).1
    fitProg ((batchOrder f.slots).length + 1) f.j (batchOrder f.slots) = some ((entry, p), xs, jt) →
    exec (.stepFormation lead) s =
      .next (touchServ s (formWith (formSlots s1 lead).2 lead (jobD s1 lead) (readySeqs s1 (jobD s1 lead)) entry p xs jt))) ∧
  (∀ (s : State) (lead : Nat), mayLaunch s lead = true → exec (.stepLaunch lead) s = .next (touchServ s (launchStep s lead))) ∧
  (∀ (s : State) (lead : Nat) (r : StepRun), commitReady s lead = some r →
    exec (.commit lead) s = .next (touchServ s ((commitStep s lead r).dissolveGo lead))) ∧
  (∀ (s : State) (lead ring c : Nat) (j : Job) (h : HeldRec) (s1 : State), job? s lead = some j → j.saved = none → s.fatal = false →
    j.held.find? (·.ring == ring) = some h → ringUp s lead ring (ringEnt s j ring) = true →
    readCredit s lead ring = (c, s1) → (getT j.ringP ring).getD 0 - c < ringSize (ringEnt s j ring) →
    exec (.heldRecordWrite lead ring) s =
      .next (touchServ s (((s1.putResp lead ring h.words).heldDone lead h).dissolveGo lead))) ∧
  (∀ (s : State) (lead n k pc f h : Nat) (j : Job) (rest : List (Nat × Nat)) (b : BEnt) (t : State), job? s lead = some j →
    j.debugHold = false → j.saved = none → s.fatal = false → j.demoteQ = (n, k) :: rest → entryAt s (entRoot (ent s j n)) k = some b →
    b.st = 1 → b.half = 0 → (entActive (ent s j n) = true ∨ entState (ent s j n) = 5) → k < entLen (ent s j n) / 64 →
    16 ≤ freeOf j j.cfg.nPage .page → pickHalf s j (nAt (ent s j n) 15) k = some (pc, f, h) →
    (demoteTiles s lead b pc f h).editPool lead (entRoot (ent s j n)) k (demoteEnt s (ent s j n) k pc f h) 0 = some t →
    exec (.demotion lead) s = .next (touchServ s ((t.modJob lead (fun j =>
      { (j.take (.half pc f h)).free (.frame b.pc b.frame) with
        gens := modT (modT ((j.take (.half pc f h)).free (.frame b.pc b.frame)).gens (pc * 2 ^ 20 + f * 4 + h) 0 (· + 1))
          (b.pc * 2 ^ 20 + b.frame * 4) 0 (· + 1) })).modJob lead (fun j => { j with demoteQ := rest })))) ∧
  (∀ (s : State) (lead : Nat) (j : Job), job? s lead = some j → j.debugHold = false →
    exec (.resourceReturn lead) s =
      .next (touchServ s ((j.deferred.filter (fun p => epochOver j p.2)).foldl (fun s p => s.returnOne lead p.1) s))) ∧
  (∀ (s : State) (lead : Nat) (j : Job), job? s lead = some j → j.dissolving = true → j.dissolveAt ≠ 0 →
    j.dissolveAt - 1 + holdNs s lead ≤ s.time.mono →
    exec (.dissolveHoldExpiry lead) s = .next (touchServ s ((dropHeld s lead).dissolveGo lead)))

/-- Loading, unloading and launching a truncated run (R80 to R83, R95 to R98). -/
def Obligations.LoaderCommandsComplete : Prop :=
  (∀ (s : State) (cls : RClass) (p : Nat) (j : Job), reaches s cls p = true → isLead s p = true → job? s p = some j →
    jobReads s j (argOf s cls p) 32 = true →
    let s1 := (s.fnFlush cls).wakeJob p
    let w := bytesWords 8 (peek s1 (argOf s cls p) 32)
    let s2 := s1.seen (argOf s cls p) 32
    s2.fw.loadq.length < 16 →
    exec (.prtLoaddb cls p) s =
      .next (touchLoad s { s2 with fw := { s2.fw with loadq := s2.fw.loadq ++
        [⟨p, w, reqImage w, if !reqUnload w && imageRead s2 j w then reqSize w else 0⟩] } })) ∧
  (∀ (s : State) (q : LoadReq) (rest : List LoadReq) (r : Rep) (p : Prog) (n : Nat), s.fw.loadq = q :: rest → reqUnload q.words = false →
    fwUp s = true → verify s q.lead (jobD s q.lead) q.words (freshProgram s) = (r, some p, n) → r.code = 0 →
    let s1 : State := { s with fw := { s.fw with loadq := rest } }
    let h := if q.size == 0 then [] else headerOf (peek s q.image 256)
    let s2 := s1.modJob q.lead (fun j => { j with progs := j.progs ++ [p] })
    exec .load s = .next (touchLoad s (s2.report q.lead q.words (r.bytes (min (Config.verifyUs s2.free) (verifyBound h q.size n)))))) ∧
  (∀ (s : State) (q : LoadReq) (rest : List LoadReq) (p : Prog), s.fw.loadq = q :: rest → reqUnload q.words = true → fwUp s = true →
    reqReserved q.words = false → reqImage q.words = 0 → reqSize q.words = 0 → progOf (jobD s q.lead) (wAt q.words 4) = some p →
    progBusy (jobD s q.lead) (wAt q.words 4) = false →
    let s1 := s.modJob q.lead (fun j => { j with progs := j.progs.filter (·.id != wAt q.words 4) })
    exec .unload s = .next (touchLoad s (({ s1 with fw := { s1.fw with loadq := rest } } : State).report q.lead q.words
      (({ code := 0, phase := 0 } : Rep).bytes (min (Config.verifyUs s1.free) (verifyBound [] 0 0)))))) ∧
  (∀ (s : State) (cls : RClass) (p : Nat) (nonet : Bool) (j : Job) (q : Prog), reaches s cls p = true → isLead s p = true →
    job? s p = some j → progOf j (BitVec.ofNat 32 (reg (s.setRegF .prt p 0x048 0 0 (b2n nonet)) .prt p 0x040)) = some q →
    pState (s.setRegF .prt p 0x048 0 0 (b2n nonet)) p = pDebug → j.runs = [] → q.closing = false →
    let s1 := s.setRegF .prt p 0x048 0 0 (b2n nonet)
    exec (.prtTruncCtl cls p nonet) s =
      .next (touchServ s (s1.truncLaunch p j q (argOf s1 cls p) (BitVec.ofNat 32 (reg s1 .prt p 0x044)) nonet)))

/-- Doorbells and host flags (R261, R308, R345) and the bandwidth regulators' refill. -/
def Obligations.DoorbellsComplete : Prop :=
  (∀ (s : State) (cls : RClass) (p : Nat) (j : Job), reaches s cls p = true → isLead s p = true → job? s p = some j → ringFull j = false →
    let s1 := (s.fnFlush cls).wakeJob p
    jobReads s1 j (argOf s1 cls p) 4096 = true →
    exec (.prtReqdb cls p) s = .next (touchServ s ((s1.seen (argOf s1 cls p) 4096).ringPut p (peek s1 (argOf s1 cls p) 4096)))) ∧
  (∀ (s : State) (cls : RClass) (p flag : Nat) (j : Job), reaches s cls p = true → isLead s p = true → job? s p = some j →
    2048 ≤ flag → flag ≤ 4095 →
    exec (.prtFlagsetSet cls p flag) s = .next (touchServ s (((s.fnFlush cls).wakeJob p).flagChange p flag true none)) ∧
    exec (.prtFlagsetClear cls p flag) s = .next (touchServ s ((s.fnFlush cls).flagChange p flag false none))) ∧
  (∀ (s : State) (cls : RClass) (p ring : Nat) (j : Job), reaches s cls p = true → isLead s p = true → job? s p = some j →
    let s1 := s.setRegF .prt p 0x064 7 0 (ring % 256)
    let e := peekWords s1 (argOf s1 cls p) 8
    let s2 := s1.seen (argOf s1 cls p) 32
    jobReads s1 j (argOf s1 cls p) 32 = true → ringEntryOk e = true → ringBusy s2 j (ring % 256) = false →
    exec (.prtRingset cls p ring) s = .next (touchServ s (s2.setRing p (ring % 256) e))) ∧
  (∀ s : State, exec .regulatorRefill s =
    .next { s with parts := ((List.range 16).foldl (fun s p => (List.range 3).foldl (fun s r => refillOne s p r) s) s).parts })

/-- Resolution of pending faults (R331 to R333, R338, R367, R372 to R374). -/
def Obligations.FaultResolutionsComplete : Prop :=
  (∀ (s : State) (cls : RClass) (p slot : Nat) (last : Bool) (action : Nat) (f : PFault), reaches s cls p = true →
    let s1 := s.setRegF .prt p 0x0D4 18 0 (b2n last * 2 ^ 18 + action * 2 ^ 16 + slot % 65536)
    pendingFault s1 p slot last = some f → mayResolve cls f action = true → suspending s1 p = false →
    (action = 0 → f.resumable = true → exec (.faultResume cls p slot last) s = .next (touchServ s (s1.resolve p f 0))) ∧
    (action = 1 → exec (.retry cls p slot last) s = .next (touchServ s (s1.resolve p f 1))) ∧
    (action = 2 → exec (.fail cls p slot last) s = .next (touchServ s (s1.resolve p f 2)))) ∧
  (∀ (s : State) (p k : Nat) (f : PFault), (part s p).faults[k]? = some f → (f.code = 0x3103 ∨ f.code = 0x5001 ∨ f.code = 0x4001) →
    f.since + holdNs s p ≤ s.time.mono → suspending s p = false →
    exec (.faultHoldExpiry p k) s = .next (touchServ s (s.resolve p f 2))) ∧
  (∀ (s : State) (p k : Nat) (f : PFault), fwUp s = true →
    let t := s.ueFinds
    (part t p).faults[k]? = some f → (f.code = 0x1002 ∨ f.code = 0x2002 ∨ f.code = 0x1003) → suspending t p = false →
    exec (.fwUeResolve p k) s = .next (touchRes s (resolveUe t p f)))

/-- PRT_JOBCTL (Table 13.4): each command where the partition's state and the job allow it. -/
def Obligations.JobCommandsComplete : Prop :=
  ∀ (s : State) (cls : RClass) (p : Nat), reaches s cls p = true → notVf cls = true →
    let s1 (cmd : Nat) := (s.setRegF .prt p 0x008 2 0 cmd).wakeJob p
    (isLead (s1 2) p = true → (jobD (s1 2) p).dissolving = false →
      let s2 := setResult (s1 2) p 7
      let s3 := ((if suspending s2 p then s2.abandon p else s2).wakeJob p).withdrawFormed p
      exec (.dissolve cls p) s = .next (touchServ s ((s3.modJob p (fun j => { j with dissolving := true })).dissolveGo p))) ∧
    (regF s .prt p 0x008 11 8 ≠ 7 →
    (∀ g, pState (s1 1) p = pFree →
      let a := argOf (s1 1) cls p
      let s2 := (s1 1).seen a 512
      formCheck s2 a p (peek s2 a 512) = (0, g) → exec (.form cls p) s = .next (touchServ s (setResult (s2.formJob p g) p 0))) ∧
    (∀ j, job? (s1 3) p = some j → (pState (s1 3) p = pIdle ∨ pState (s1 3) p = pRunning ∨ pState (s1 3) p = pPaused) → j.dissolving = false →
      j.debugHold = false → saveOk (s1 3) j = true → exec (.suspend cls p) s = .next (touchServ s ((s1 3).suspendBegin p))) ∧
    (∀ j x, job? (s1 4) p = some j → j.saved = some x → saveOk (s1 4) j = true →
      headersStand (s1 4) j x = true →
      exec (.jobResume cls p) s = .next (touchServ s ((s1 4).resumeJob p x))) ∧
    (∀ j, job? (s1 5) p = some j → (pState (s1 5) p = pIdle ∨ pState (s1 5) p = pRunning) → j.dissolving = false → j.debugHold = false →
      exec (.hold cls p) s =
        .next (touchServ s ((((setResult (s1 5) p 7).withdrawFormed p).modJob p (fun j => { j with debugHold := true })).idleIfDone p))) ∧
    (∀ j, job? (s1 6) p = some j → pState (s1 6) p = pDebug → j.runs = [] →
      let s2 := j.parts.foldl (fun s q => s.setPState q pIdle) ((s1 6).modJob p (fun j => { j with debugHold := false }))
      exec (.release cls p) s = .next (touchServ s (setResult ((s2.applyLate p).applyInbox p) p 0))))

/-! Completion of firmware requests, stack commands and resilience. -/

/-- Requests on regions, classes, windows and apertures (Table 17.4): accepted, and answered OK. -/
def Obligations.RegionRequestsComplete : Prop :=
  ∀ (s : State) (h : FwHdr) (c : RClass), fwClass s h aPB = some c →
    (∀ (rat : Nat) (f : RatFields), rat < 64 → ratFieldsOk f = true → ratChangeOk s rat (ratWords f true) = true →
      exec (.regionSet h rat f none) s =
        .next (fwAnswer s h c 0x0001 (done_ (((s.dropClass rat).ratPut rat (ratWords f true)).commitCfg)))) ∧
    (∀ (rat : Nat), rat < 64 → ratChangeOk s rat [0, 0, 0, 0, 0] = true →
      exec (.regionClear h rat) s =
        .next (fwAnswer s h c 0x0002 (done_ (((s.dropClass rat).ratPut rat [0, 0, 0, 0, 0]).commitCfg)))) ∧
    (∀ (r : ClassRec), classFieldsOk r = true → (ratEnt s r.rat).valid = true → (r.sealIt = true → sealable s r.rat r.digtab = true) →
      exec (.regionClass h r) s =
        .next (fwAnswer s h c 0x0003 (done_ (if r.sealIt then (s.putClass r).sealRegion r.rat else s.putClass r)))) ∧
    (∀ (index : Nat) (crema : Bool) (t : State), index < 4 → s.classChange index crema = (0, t) →
      exec (.classSet h index crema) s = .next (fwAnswer s h c 0x0004 (done_ t))) ∧
    (∀ (vf base : Nat), 1 ≤ vf → vf ≤ 16 → base % 0x200000 = 0 → base < 2 ^ 48 →
      exec (.vfBar2 h vf base) s =
        .next (fwAnswer s h c 0x0005 (done_ { s with pcie := { s.pcie with vfBase := putT s.pcie.vfBase (vf - 1) base } }))) ∧
    (∀ (part aper : Nat) (f : AptFields), part < 16 → aper < 16 → f.base % 4096 = 0 → (f.fn = 0 ∨ f.fn = part + 1) →
      exec (.apertureSet h part aper f) s =
        .next (fwAnswer s h c 0x0013 (done_ { s with pcie := { s.pcie with apert := putT s.pcie.apert (part * 16 + aper) f } })))

/-- Requests on the transport's tables and on pairs and jobs. -/
def Obligations.TransportAndPairRequestsComplete : Prop :=
  ∀ (s : State) (h : FwHdr) (c : RClass), fwClass s h aPB = some c →
    (∀ (qp : Nat) (f : QpFields), qpFieldsOk qp f = true → 2 ≤ qp → f.st ≠ 3 → (qpOf s qp).unacked = [] →
      exec (.qpSet h qp f) s = .next (fwAnswer s h c 0x0010 (done_ (s.modQp qp (fun _ => if f.st == 0 then {} else
        { st := qpStOf f.st, job := f.job, purpose := f.purpose, peer := f.peer, rqpn := f.rqpn, sndPsn := f.sndPsn, rcvPsn := f.rcvPsn,
          port := f.port, addr := if f.peer < 65536 then (peer s f.peer).addr else 0, setup := s.time.mono + 1 }))))) ∧
    (∀ (key job rat : Nat) (nrd nwr : Bool), key < 4096 → job < 16 → rat < 64 → (ratEnt s rat).valid = true →
      (nrd = true → bitN (ratEnt s rat).perm 2 = true) → (nwr = true → bitN (ratEnt s rat).perm 3 = true) →
      let k : KeyEnt := { valid := true, tag := ((getT s.net.keys key).getD {}).tag, job := job, rat := rat, nrd := nrd, nwr := nwr }
      exec (.keySet h key true job rat nrd nwr) s =
        .next (fwAnswer s h c 0x0011 (done_ { s with net := { s.net with keys := putT s.net.keys key k } } (natBytes 4 (k.tag.toNat * 4096 + key))))) ∧
    (∀ (first : Nat) (entries : List (BitVec 128 × Bool)), entries.length ≤ 128 → first + entries.length ≤ 65536 →
      exec (.peerSet h first entries) s =
        .next (fwAnswer s h c 0x0012 (done_ (entries.zipIdx.foldl (fun s (e, i) => s.setPeer (first + i) e.1 e.2) s)))) ∧
    (∀ (rec : List Byte) (j : Job), pairFormOk rec = true → job? s (leAt rec 4 1) = some j → pairFits s j rec = true →
      exec (.pairSet h rec) s = .next (fwAnswer s h c 0x0020 (done_ (s.startPair (leAt rec 4 1) rec)))) ∧
    (∀ (lead : Nat) (j : Job), lead < 16 → job? s lead = some j → j.pair.st ≠ .unpaired →
      exec (.unpair h lead) s = .next (fwAnswer s h c 0x0021 (done_ (s.unpairJob lead 1)))) ∧
    (∀ (lead : Nat) (j : Job), lead < 16 → job? s lead = some j → j.heldFw = true →
      exec (.jobRelease h lead) s =
        .next (fwAnswer s h c 0x0022 (done_ (s.modJob lead (fun j => { j with heldFw := false, failRun := 0 })))))

/-- Requests on units, scrubbing, settings, the configuration copies and the image slot. -/
def Obligations.SettingRequestsComplete : Prop :=
  ∀ (s : State) (h : FwHdr) (c : RClass), fwClass s h aPB = some c →
    (∀ pc, pc < 1280 → exec (.cremaEnable h pc) s =
      .next (fwAnswer s h c 0x0023 (done_ { s with fw := { s.fw with unitsOff := s.fw.unitsOff.filter (· != pc) } }))) ∧
    (∀ patrol digest, patrol ≤ 10000 → digest ≤ 100 → exec (.scrubSet h patrol digest) s =
      .next (fwAnswer s h c 0x0024 (done_ { s with fw := { s.fw with patrolRate := patrol, digestRate := digest } }))) ∧
    (∀ (off : Nat) (mask value : Word), (settingWrite s h.cls off mask value).status = stOk →
      exec (.settingWrite h off mask value) s = .next (fwAnswer s h c 0x0025 (settingWrite s h.cls off mask value))) ∧
    (∀ (copyB : Bool) (off len : Nat), len ≤ 8176 → off + len ≤ copySize → exec (.configRead h copyB off len) s =
      .next (fwAnswer s h c 0x0030 (done_ s (flashRead s (copyAt (b2n copyB) + off) len)))) ∧
    exec (.configWriteStart h) s = .next (fwAnswer s h c 0x0031 (done_ { s with fw := { s.fw with cfgWrite := some [] } })) ∧
    (∀ (off : Nat) (bytes : List Byte) (w : List (Nat × Byte)), bytes.length ≤ 4064 → off + bytes.length ≤ copySize - 64 →
      s.fw.cfgWrite = some w → exec (.configWriteData h off bytes) s =
        .next (fwAnswer s h c 0x0031 (done_ { s with fw := { s.fw with
          cfgWrite := some (bytes.zipIdx.foldl (fun w (b, i) => putT w (off + i) b) w) } }))) ∧
    (∀ (w : List (Nat × Byte)), s.fw.cfgWrite = some w →
      let len := w.foldl (fun m x => max m (x.1 + 1)) 0
      let recs := (List.range len).map (fun i => (getT w i).getD 0#8)
      let copy := match s.fw.cfgInUse with | some k => 1 - k | none => 0
      let seq := match s.fw.cfgInUse with | some k => copySeq s k + 1 | none => 1
      let hdr := wordsBytes [0x4B574346#32, 1#32, BitVec.ofNat 32 seq, BitVec.ofNat 32 len] ++ zeros 16 ++ sha3 recs
      exec (.configWriteCommit h) s = .next (fwAnswer s h c 0x0031
        (done_ (({ s with fw := { s.fw with cfgWrite := none } } : State).flashPut (copyAt copy) (hdr ++ recs))))) ∧
    (∀ (addr size : Nat), 1 ≤ size → size ≤ slotSize → addr < bankBase → imageOwned s addr size = true →
      let s1 := s.seen addr size
      imageFail s1 (peek s addr size) = 0 →
      exec (.fwUpdate h addr size true) s = .next (fwAnswer s h c 0x0032 (done_ (s1.programSlot (peek s addr size) true).2)))

/-- Requests on identity, the counted fuses and the BMC's session (Table 17.4): the authorities each needs, and its effect. -/
def Obligations.SecurityRequestsComplete : Prop :=
  ∀ (s : State) (h : FwHdr) (c : RClass),
    (∀ nonce : List Byte, fwClass s h 7 = some c → nonce.length = 32 →
      exec (.attest h nonce) s = .next (fwAnswer s h c 0x0040 (done_ s (attestation s nonce (match h.cls with | .vf p => some p | _ => none))))) ∧
    (fwClass s h 15 = some c → byteAt (flashRead s identityAt 4) 0 = 0x30 → byteAt (flashRead s identityAt 4) 1 = 0x82 →
      byteAt (flashRead s identityAt 4) 2 * 256 + byteAt (flashRead s identityAt 4) 3 + 4 ≤ 8176 →
      exec (.certRead h) s = .next (fwAnswer s h c 0x0041 (done_ s
        (flashRead s identityAt (byteAt (flashRead s identityAt 4) 2 * 256 + byteAt (flashRead s identityAt 4) 3 + 4))))) ∧
    (∀ target, fwClass s h aPB = some c → target ≤ 255 → s.fuse.arvcnt < target → target ≤ regF s .mgt 0 0x010 15 8 →
      exec (.arvRaise h target) s = .next (fwAnswer s h c 0x0050 (fused s { s.fuse with arvcnt := target }))) ∧
    (∀ (slot signer : Nat) (pubkey sig : List Byte), fwClass s h aPB = some c → slot < 4 → signer < 4 → slot ≠ signer →
      pubkey.length = 1312 → sig.length = 2420 → bitN s.fuse.revoked slot = false → bitN s.fuse.revoked signer = false →
      sha3 pubkey = Config.rootKeyDigest signer → Config.mldsaVerify pubkey sig (sha3 [BitVec.ofNat 8 slot]) = true →
      exec (.keyRevoke h slot signer pubkey sig) s =
        .next (fwAnswer s h c 0x0051 (fused s { s.fuse with revoked := s.fuse.revoked + 2 ^ slot }))) ∧
    (∀ n, fwClass s h 4 = some c → n ≤ 4 → s.jobs = [] → s.fuse.layoutChg < 31 →
      exec (.layoutClass h n) s =
        .next (fwAnswer s h c 0x0052 (fused s { s.fuse with layout := n, layoutChg := s.fuse.layoutChg + 1 }))) ∧
    (∀ watts, fwClass s h 4 = some c → 1600 ≤ watts → watts ≤ 3400 → regF s .thm 0 0x028 11 0 < watts → s.fuse.ceilRaise < 3 →
      exec (.ceilingRaise h watts) s =
        .next (fwAnswer s h c 0x0053 (fused (s.setCeiling watts) { s.fuse with ceilRaise := s.fuse.ceilRaise + 1 }))) ∧
    (fwClass s h 12 = some c → s.fw.refuseUntil ≤ s.time.mono →
      exec (.bmcChallenge h) s = .next (fwAnswer s h c 0x0060 (done_
        { s.endSession with fw := { s.fw with nonce := some (padTo 32 (Config.nonce s.free)) } } (padTo 32 (Config.nonce s.free))))) ∧
    (∀ (key sig n : List Byte), fwClass s h 8 = some c → key.length = 1312 → sig.length = 2420 → s.fw.nonce = some n →
      (bmcKeyWords s).all (· == 0#32) = false → sha3 key = wordsBytes (bmcKeyWords s) →
      Config.mldsaVerify key sig (sha3 (n ++ natBytes 8 Config.serial.toNat)) = true →
      exec (.bmcAuth h key sig) s =
        .next (fwAnswer s h c 0x0061 (done_ { s.setRegF .mgt 1 0x038 0 0 1 with fw := { s.fw with nonce := none } }))) ∧
    (fwClass s h 4 = some c → exec (.bmcEnd h) s = .next (fwAnswer s h c 0x0062 (done_ s.endSession))) ∧
    (session s = true → s.fw.lastSmb + minuteNs ≤ s.time.mono → exec .bmcSessionTimeout s = .next (touchFw s s.endSession))

/-- Row repair (Table 09.15), class changes and RAT entries: a GRD class on a stack that exists. -/
def Obligations.StackSettingsComplete : Prop :=
  ∀ (s : State) (cls : RClass), grdClass s cls = true →
    (∀ (index : Nat) (crema : Bool) (t : State), s.classChange (index % 4) crema = (0, t) →
      exec (.stkClasschg cls index crema) s = .next (touchStk s t)) ∧
    (∀ (n word : Nat) (value : Word), n < 64 → word < 5 →
      let old := (List.range 5).map (fun i => reg s .stkc 0 (0x800 + 32 * n + 4 * i))
      let m := match findReg .stkc (0x800 + 32 * n + 4 * word) with | some r => maskOf r.fields | none => 0
      let ws := old.set word (Nat.land value.toNat m)
      ratChangeOk s n ws = true → exec (.ratEntryWrite cls n word value) s = .next (touchStk s ((s.ratPut n ws).commitCfg))) ∧
    (∀ (stack index : Nat), stack < 20 →
      let s1 (code : Nat) := s.setRegF .stk stack 0x100 2 0 code
      let k (code : Nat) := rprKey (s1 code) stack
      let fin (r code : Nat) (t : State) : Host.Outcome State Fault Refusal :=
        .next (touchStk s (t.setReg .stk stack 0x108 ((8 - (spares t (keyBankId (k code))).length) * 256 + r)))
      exec (.rprNop cls stack) s = fin 0 0 (s1 0) ∧
      (index < 8 → exec (.readMap cls stack index) s = fin 0 1 (((s1 1).setRegF .stk stack 0x100 7 3 index).setReg .stk stack 0x140
        (match (spares (s1 1) (keyBankId (k 1))).find? (·.slot == index) with
          | some x => 2 ^ 31 + b2n x.hard * 2 ^ 30 + x.row
          | none => 0))) ∧
      (∀ i, spareFree (s1 2) (keyBankId (k 2)) = some i → exec (.softRow cls stack) s = fin 0 2
        (((s1 2).setSpares (keyBankId (k 2)) (spares (s1 2) (keyBankId (k 2)) ++ [⟨i, keyRow (k 2), false⟩])).rowLost
          (keyBankId (k 2)) (keyRow (k 2)))) ∧
      (∀ t, inMaint (s1 3) stack = true → (s1 3).hardRow (keyBankId (k 3)) (keyRow (k 3)) true = (0, t) →
        exec (.hardRow cls stack true) s = fin 0 3 t) ∧
      exec (.clearSoft cls stack) s = fin 0 4 ((s1 4).clearSoft (keyBankId (k 4))) ∧
      (inMaint (s1 5) stack = true → exec (.rawRead cls stack) s = fin 0 5
        ((rawRead (s1 5) (k 5)).zipIdx.foldl (fun t (w, i) => t.setReg .stk stack (0x140 + 4 * i) w.toNat) (s1 5))) ∧
      (inMaint (s1 6) stack = true → exec (.rawWrite cls stack) s = fin 0 6
        ((s1 6).rawWrite (k 6) ((List.range 18).map (fun i => BitVec.ofNat 32 (reg (s1 6) .stk stack (0x140 + 4 * i)))))))

/-- Refresh, write combining, self-refresh and the end of a class fill (R223, R230 to R233, R210). -/
def Obligations.StackClocksComplete : Prop :=
  (∀ (s : State) (pc bank : Nat), pc < 1280 →
    let b := pc * 64 + bank % 64
    let n := (getT s.stk.postponed b).getD 0
    let less (k : Nat) : State := { s with stk := { s.stk with
      postponed := if n - k = 0 then delT s.stk.postponed b else putT s.stk.postponed b (n - k), openRow := delT s.stk.openRow b } }
    ((getT s.stk.rhRows b).getD [] = [] → exec (.refresh pc bank true) s = .next (touchStk s (less 1))) ∧
    (∀ row rest, (getT s.stk.rhRows b).getD [] = row :: rest →
      exec (.refresh pc bank true) s = .next (touchStk s ((less 2).targeted b row))) ∧
    exec (.refresh pc bank false) s = .next (touchStk s
      (({ s with stk := { s.stk with postponed := putT s.stk.postponed b (n + 1) } } : State).updRC .stk (pc / 64) 0x034 3 0
        (max (min (n + 1) 8))))) ∧
  (∀ (s : State) (pc : Nat),
    let t := ((List.range 64).map (pc * 64 + ·)).foldl State.targetAll s
    exec (.refreshWindowEnd pc) s = .next (touchStk s { t with stk := { t.stk with
      act := t.stk.act.filter (fun e => e.1 / 64 != pc), postponed := t.stk.postponed.filter (fun e => e.1 / 64 != pc) } })) ∧
  (∀ (s : State) (stack seg : Nat) (e : WcbEntry), s.mem.wcb.find? (fun e => e.stack == stack && e.seg == seg) = some e →
    e.last + 2000 ≤ s.time.now → exec (.wcbIdleFlush stack seg) s = .next (touchStk s (s.flushEntry e))) ∧
  (∀ s : State, stackIdle s = true → exec .selfRefreshEntry s = .next (touchStk s s.selfRefresh)) ∧
  (∀ (s : State) (stack : Nat), stack < 20 → bitN (reg s .stk stack 0x008) 3 = true → fwUp s = true →
    exec (.selfRefreshExit stack) s = .next (touchStk s (s.setRegF .stk stack 0x008 1 1 0))) ∧
  (∀ (s : State) (i : Nat) (crema : Bool), s.stk.fill = some (i, crema) →
    let s1 : State := { s with
      mem := { s.mem with dram := s.mem.dram.filter (fun c => keyBg c.1 != i), synd := s.mem.synd.filter (fun c => keyBg (16 * c.1) != i) },
      stk := { s.stk with fill := none } }
    let s2 := (List.range 20).foldl (fun t k => t.setRegF .stk k 0x008 2 2 0) ((s1.setRegF .stkc 0 4 30 30 0).setRegF .stkc 0 4 10 8 0)
    let s3 := s2.fwSet .stkc 0 0 (setFld (reg s2 .stkc 0 0) i i (b2n crema))
    exec .classFillDone s = .next (touchStk s ((s3.raise { code := 0x1007 }).commitCfg)))

/-- Scrubbing, repair and remapping (R367 to R371, R376 to R379, R391). -/
def Obligations.ResilienceCommandsComplete : Prop :=
  (∀ (s : State) (pc rowNo : Nat), pc < 1280 → rowNo < 2 ^ 20 → fwUp s = true → isCremaIdx s ((pc * 64 + rowNo / 2 ^ 14) % 64 / 16) = false →
    repairDue s (pc * 64 + rowNo / 2 ^ 14) (rowNo % 2 ^ 14) = true →
    exec (.fwRowRepair pc rowNo) s = .next (touchRes s (s.repairRow (pc * 64 + rowNo / 2 ^ 14) (rowNo % 2 ^ 14)))) ∧
  (∀ (s : State) (stack : Nat), stack < 20 → s.fw.patrolRate ≠ 0 → bitN (reg s .stk stack 0x008) 1 = false →
    bitN (reg s .stk stack 0x008) 0 = false → s.fatal = false →
    let n := (getT s.stk.patrol stack).getD 0
    let s1 : State := { s with stk := { s.stk with patrol := putT s.stk.patrol stack ((n + 1) % 2 ^ 30) } }
    exec (.patrolRead stack) s =
      .next (touchRes s (if patrolled s1 (patrolKey stack n) then s1.patrolSeg (patrolKey stack n) else s1))) ∧
  (∀ (s : State) (rat block lead : Nat) (second : Bool), s.fatal = false → s.fw.digestRate ≠ 0 → ownerLead s (ratEnt s rat) = some lead →
    s.fw.sealedR.contains rat = true → block < regionBlocks (ratEnt s rat) → fetching s rat block = false →
    (blockBad s rat block = true → exec (.digestScrub true rat block second) s = .next (touchRes s (s.mismatch lead true rat block))) ∧
    (blockBad s rat block = false → exec (.digestScrub true rat block second) s = .next (touchRes s (if second then
      { s with fw := { s.fw with digestRetries := s.fw.digestRetries + 1 } } else s)))) ∧
  (∀ (s : State) (k : SramKind) (inst unit n : Nat) (ue : Bool), remapEntries k = some n →
    (s.sramRemap.filter (fun x => x.1 == k && sameTable k x.2.1 inst)).length < n →
    let s1 : State := { s with sramRemap := s.sramRemap ++ [(k, inst, unit)] }
    exec (.sramRemap k inst unit ue) s = .next (touchRes s (if ue then s1.sramLoss k inst unit true else s1))) ∧
  (∀ s : State, s.fatal = false → exec .deviceFatalError s = .next (touchRes s s.deviceFatal) ∧ s.deviceFatal.fatal = true)

/-! Completion of what arrives from outside: packets, connection management, the pair's partner, ports, the host link. -/

/-- Messages of a queue pair's peer in order (R345, R349, R350): a request to Barista, a Decant message, a write, a read, a refused atomic. -/
def Obligations.MessagesComplete : Prop :=
  (∀ (s : State) (h : NetHdr) (data : List Byte) (imm : Option Word) (j : Job), netTakes s h →
    let t := netIn s h data.length
    job? t (qpOf t h.qp).job = some j →
    ((qpOf t h.qp).purpose = 1 → data.length ≤ 4096 → ringFull j = false →
      exec (.send h data imm) s = .next (touchDesc s (t.reqArrive h (qpOf t h.qp).job data))) ∧
    ((qpOf t h.qp).purpose = 3 → j.pair.st ≠ .unpaired → pairPeer j = (qpOf t h.qp).peer → data.length ≤ 2 ^ 31 →
      rxRoom j data.length = true →
      ∀ (type : Nat) (m : DecMsg), decType data = some type → m.hdr = h → m.bytes = data →
        let u : Host.Outcome State Fault Refusal := .next (touchDesc s ((t.taken h (pkts data.length)).decArrive (qpOf t h.qp).job data))
        (type = 1 → exec (.delta m) s = u) ∧ (type = 2 → exec (.chunk m) s = u) ∧ (type = 3 → exec (.heartbeat m) s = u) ∧
        (type = 4 → exec (.sync m) s = u) ∧ (type = 5 → exec (.depart m) s = u) ∧ (type = 6 → exec (.hello m) s = u))) ∧
  (∀ (s : State) (h : NetHdr) (va : Nat) (rkey : Word) (data : List Byte) (imm : Word), netTakes s h →
    let t := netIn s h data.length
    data.length ≤ 2 ^ 31 → keyOk t (qpOf t h.qp) rkey.toNat va data.length 3 = true →
    exec (.rdmaWrite h va rkey data) s = .next (touchDesc s ((t.placeNet va data).taken h (pkts data.length))) ∧
    exec (.writeWithImmediate h va rkey data imm) s =
      .next (touchDesc s (((t.placeNet va data).immediate h imm).taken h (pkts data.length)))) ∧
  (∀ (s : State) (h : NetHdr) (va : Nat) (rkey : Word) (len : Nat) (bs : List Byte) (t1 : State), netTakes s h →
    let t := netIn s h 0
    len ≤ 2 ^ 31 → readsOwed t h.qp < 16 → keyOk t (qpOf t h.qp) rkey.toNat va len 2 = true → readStack t va len = (bs, false, t1) →
    exec (.rdmaRead h va rkey len) s =
      .next (touchDesc s ((t1.modQp h.qp (fun x => { x with rcvPsn := seqAdd h.psn (pkts len) })).answer h.qp len (.readResp h.qp h.psn bs)))) ∧
  (∀ (s : State) (h : NetHdr), netTakes s h → exec (.roceAtomic h) s = .next (touchDesc s ((netIn s h 0).refuse h 1 6 0x104C)))

/-- Answers to our messages and the transport's timers (R344, R349, R351, R353). -/
def Obligations.AnswersAndTimersComplete : Prop :=
  ∀ (s : State) (qp : Nat), (qpOf s qp).st = .rts →
    (∀ (psn : Nat) (data : List Byte), exec (.ack qp psn data) s = .next (touchDesc s ((answerIn s qp data.length).acked qp psn data))) ∧
    (∀ (psn : Nat), exec (.nak qp psn 0) s = .next (touchDesc s (((answerIn s qp 0).acked qp (seqSub psn 1) []).resend qp))) ∧
    (∀ (psn code : Nat), (code = 1 ∨ code = 2) →
      let t := (answerIn s qp 0).acked qp (seqSub psn 1) []
      exec (.nak qp psn code) s = .next (touchDesc s (((t.qpError qp false).settleNet).resolveQp (qpOf t qp).job qp 2))) ∧
    (∀ (psn timer : Nat),
      let t := (answerIn s qp 0).acked qp (seqSub psn 1) []
      (regF t .net 0 0x1004 11 9 = 7 ∨ (qpOf t qp).rnrs < regF t .net 0 0x1004 11 9) →
      exec (.rnrNak qp psn timer) s = .next (touchDesc s (t.modQp qp (fun x => { x with rnrs := x.rnrs + 1, rnrWait := true })))) ∧
    ((qpOf s qp).rnrWait = true →
      exec (.rnrTimerExpiry qp) s = .next (touchDesc s ((s.modQp qp (fun x => { x with rnrWait := false })).resend qp))) ∧
    ((qpOf s qp).unacked ≠ [] → (qpOf s qp).rnrWait = false → (qpOf s qp).retries < regF s .net 0 0x1004 8 6 →
      portIsUp (s.modQp qp (fun x => { x with retries := x.retries + 1 })) (qpOf s qp).port = true →
      exec (.ackTimeout qp) s = .next (touchDesc s ((s.modQp qp (fun x => { x with retries := x.retries + 1 })).resend qp))) ∧
    ((qpOf s qp).unacked ≠ [] → (qpOf s qp).rnrWait = false → regF s .net 0 0x1004 8 6 ≤ (qpOf s qp).retries →
      exec (.ackTimeout qp) s = .next (touchDesc s (s.spent qp))) ∧
    exec (.cnp qp) s = .next (touchDesc s (s.modQp qp (fun x => { x with cnps := x.cnps + 1 }))) ∧
    exec (.ccEpoch qp) s = .next (touchDesc s (s.modQp qp (fun x => ccRate x (regF s .net 0 0x100C 31 24) (regF s .net 0 0x1008 23 16)
      (1000 * regF s .net 0 0x100C 15 8) (1000 * regF s .net 0 0x1014 15 0) (100 * regF s .net 0 0x1010 15 0) (lineRate s x.port))))

/-- Connection management (Table 14.5): device firmware runs and a port is up. -/
def Obligations.ConnectionCommandsComplete : Prop :=
  ∀ (s : State) (m : CmMsg) (k : Nat), fwUp s = true → somePort s = some k →
    (∀ q, reqReason s m (reqCoupled s m) = none → freeQp s = some q →
      exec (.req m) s = .next (touchDesc s (s.accept m (reqCoupled s m) ((cmTarget m).getD (0, 0)).1 ((cmTarget m).getD (0, 0)).2 q))) ∧
    ((qpOf s m.localQpn).st = .init → m.src = (qpOf s m.localQpn).addr →
      let x := qpOf s m.localQpn
      let t := s.modQp m.localQpn (fun x => { x with rqpn := m.remoteQpn, rcvPsn := m.psn % 2 ^ 24,
                                                     model := if cmMagic m.priv then leAt m.priv 12 8 else 0 })
      exec (.rep m) s = .next (touchDesc s (((t.answer m.localQpn 0
        (.cm 2 m.src m.localQpn m.remoteQpn x.sndPsn m.serviceId.toNat [])).ready m.localQpn).resolveQp x.job m.localQpn 0)) ∧
      ∀ reason, exec (.rej m reason) s = .next (touchDesc s (
        let s1 := s.modQp m.localQpn (fun x => { st := .reset, job := x.job, peer := x.peer })
        let s2 := if reason == 1 && x.peer != 0xFFFFFFFF then s1.digestMismatch x.peer else s1
        if x.purpose == 0 then s2.wantedGo x.job x.peer false else s2))) ∧
    ((qpOf s m.localQpn).st = .rtr → m.src = (qpOf s m.localQpn).addr →
      exec (.rtu m) s = .next (touchDesc s (s.ready m.localQpn)))

/-- Ports, pause and frames that are not for a queue pair (R340 to R343, R354). -/
def Obligations.PortCommandsComplete : Prop :=
  (∀ (s : State) (die port : Nat), die < 4 → port < diePorts s die →
    (bitN (reg s .net die 0x008) port = true → exec (.portDown die port) s = .next (touchDesc s (s.portFall die port))) ∧
    (bitN (reg s .net die 0x008) port = false → exec (.portUp die port) s = .next (touchDesc s (s.portRise die port)) ∧
      exec (.trainingRetry die port) s =
        .next (touchDesc s { s with net := { s.net with trainTries := modT s.net.trainTries (die * 4 + port) 0 (· + 1) } }))) ∧
  (∀ (s : State) (die port prio : Nat), pauseOk s die port prio = true →
    let k := pauseKey die port prio
    (bitN (regF s .net die 0x010 15 8) prio = true → getT s.net.ignoring k = none → getT s.net.paused k = none →
      exec (.pauseFrame die port prio true) s =
        .next (touchDesc s { s with net := { s.net with paused := putT s.net.paused k s.time.mono } })) ∧
    (bitN (regF s .net die 0x010 15 8) prio = true → getT s.net.ignoring k = none →
      exec (.pauseFrame die port prio false) s = .next (touchDesc s (s.unpausePrio die k))) ∧
    (∀ t, getT s.net.paused k = some t → regF s .net die 0x014 15 0 ≠ 0 → t + regF s .net die 0x014 15 0 * 1000000 ≤ s.time.mono →
      let s1 := s.unpausePrio die k
      let s2 : State := { s1 with net := { s1.net with ignoring := putT s1.net.ignoring k s1.time.mono } }
      exec (.pfcWatchdog die port prio) s =
        .next (touchDesc s ((s2.viol die 11 0x064).raise { code := 0x4005, die := 21 + die, detail := [port, prio] }))) ∧
    (∀ t, getT s.net.ignoring k = some t → t + 1000000000 ≤ s.time.mono →
      exec (.pauseWatchdogRelease die port prio) s =
        .next (touchDesc s { s with net := { s.net with ignoring := delT s.net.ignoring k } }))) ∧
  (∀ (s : State) (port kind : Nat) (payload : List Byte), port < 16 → portIsUp s port = true →
    (kind ≤ 2 → payload.length ≤ 9216 - 18 → fwUp s = true →
      exec (.firmwareFrame port kind payload) s = .next (touchDesc s (s.sendOn port 0 payload.length (.frame port kind payload)))) ∧
    ((2 < kind ∨ 9216 - 18 < payload.length) → exec (.firmwareFrame port kind payload) s = .next (touchDesc s (s.viol (port / 4) 2 0x1044)))) ∧
  (∀ (s : State) (die : Nat), die < 4 →
    exec (.frameDrop die 0) s = .next (touchDesc s (s.bump .net die 0x068)) ∧
    exec (.frameDrop die 1) s = .next (touchDesc s (s.viol die 1 0x05C)) ∧
    exec (.frameDrop die 2) s = .next (touchDesc s (s.viol die 2 0x1044)) ∧
    exec (.frameDrop die 3) s = .next (touchDesc s (s.viol die 3 0x1044)))

/-- A pair's own timers (R383, R388). -/
def Obligations.PairTimersComplete : Prop :=
  ∀ (s : State) (lead : Nat) (j : Job), job? s lead = some j → s.fatal = false →
    (pairLive j = true → exec (.heartbeatSend lead) s = .next (touchServ s (heartbeatOut s lead))) ∧
    (pairLive j = true → j.saved = none → inHold j = false → j.pair.lastHeard + 3000000 ≤ s.time.mono →
      exec (.partnerLost lead) s = .next (touchServ s (s.partnerGone lead))) ∧
    ((j.pair.st = .connecting ∨ j.pair.st = .broken) → exec (.pairRetry lead) s = .next (touchServ s (pairTry s lead j)))

/-- The host link (R355 to R360, R465): BAR2, completions, function-level resets, PERST#, malformed packets, retraining. -/
def Obligations.HostLinkCommandsComplete : Prop :=
  (∀ (s : State) (off len : Nat) (bs : List Byte), s.pcie.perstLow = false → s.pin.stopped = false → inRecovery s = false →
    (off + bs.length ≤ 2 ^ 30 → exec (.pfBar2Access off (some bs) len) s =
      .next (touchDesc s (s.hostTouch.barWrite 0 (fun _ => true) (bar2Base s + off) bs))) ∧
    (off + len ≤ 2 ^ 30 → exec (.pfBar2Access off none len) s =
      .next (touchDesc s (s.hostTouch.barRead (fun _ => true) (bar2Base s + off) len)))) ∧
  (∀ (s : State) (p off len : Nat) (bs : List Byte), vfUp s p = true → s.pin.stopped = false →
    (off + bs.length ≤ vfPage → off < vfPage → exec (.vfBar2Access p off (some bs) len) s =
      .next (touchDesc s ((s.hostTouch.charge p 2 (ceilDiv bs.length 64)).barWrite (p + 1) (vfMay s p 5) ((getT s.pcie.vfBase p).getD 0 + off) bs))) ∧
    (off + len ≤ vfPage → off < vfPage → exec (.vfBar2Access p off none len) s =
      .next (touchDesc s ((s.hostTouch.charge p 2 (ceilDiv len 64)).barRead (vfMay s p 4) ((getT s.pcie.vfBase p).getD 0 + off) len)))) ∧
  (∀ (s : State) (tag : Nat) (r : HostRd), s.pcie.reads.find? (fun r => r.tag == tag) = some r →
    (∀ (data : List Byte) (d : DTag), r.d = some d →
      let s1 := s.dropRead tag
      let s2 : State := { s1 with pcie := { s1.pcie with
        arrived := s1.pcie.arrived ++ [(d, (data.take r.len).zipIdx.map (fun (b, i) => (r.addr + i, b)))] } }
      exec (.hostReadCompletion tag true data) s =
        .next (touchDesc s (s2.modD d (fun x => if x.stat == .running then { x with stat := .resumed } else x)))) ∧
    exec (.completionTimeout tag) s = .next (touchDesc s (s.readFailed r))) ∧
  (∀ (s : State) (p : Nat), vfUp s p = true → s.pin.stopped = false →
    exec (.vfFlr p) s = .next (touchDesc s (((s.vfClear p).msixReset (· == p + 1)).raise { code := 0x5003, part := some p }))) ∧
  (∀ s : State, s.pcie.perstLow = false → s.pin.stopped = false →
    exec .pfFlr s = .next (flrDone s) ∧ exec (.perst true) s = .next { flrDone s with pcie := { (flrDone s).pcie with perstLow := true } } ∧
    (∀ line, line ≤ 2 → exec (.malformedTlp line) s = .next (touchDesc s (({ s with pcie := { s.pcie with
      aer := s.pcie.aer ++ [line], cpl := if line == 2 then [] else s.pcie.cpl } } : State).hostViol (if line == 2 then 2 else 1)))) ∧
    (∀ gen width, 3 ≤ gen → gen ≤ 5 → [1, 2, 4, 8].contains width = true →
      let t : State := { s with pcie := { s.pcie with gen := gen, width := width } }
      exec (.linkRetrain gen width) s = .next (touchDesc s
        (if gen < s.pcie.gen ∨ width < s.pcie.width then t.raise { code := 0x5004, detail := [gen, width] } else t)))) ∧
  (∀ s : State, s.pcie.perstLow = true → s.pin.stopped = false →
    exec (.perst false) s = .next { s with pcie := { s.pcie with perstLow := false, gen := 5, width := 8 } })

/-! Completion of register accesses, time, temperature, start-up and the slow ports. -/

/-- Register accesses of a class in force (R415 to R422, R429): reads, writes, the mailbox, a ring's CONS. -/
def Obligations.RegisterAccessesComplete : Prop :=
  ∀ (s : State) (cls c : RClass), classNow s cls = some c →
    (∀ off, off % 4 = 0 → exec (.rcRead cls off false) s =
      .next (touchDesc s ((read4 s c off).2.complete (natBytes 4 (read4 s c off).1) false))) ∧
    (∀ off, off % 8 = 0 → exec (.rcRead cls off true) s =
      .next (touchDesc s ((read8 s c off).2.complete (natBytes 8 (read8 s c off).1) false))) ∧
    (∀ (off : Nat) (value : DWord), off % 4 = 0 →
      exec (.registerWrite cls off value false) s = .next (write4 s c off (value.toNat % 2 ^ 32))) ∧
    (∀ (off : Nat) (value : DWord), off % 8 = 0 → exec (.registerWrite cls off value true) s =
      .next (write4 (write4 s c off (value.toNat % 2 ^ 32)) c (off + 4) (value.toNat / 2 ^ 32))) ∧
    (hasMbx c = true → (∀ value : Word, exec (.glbMbxSel cls value) s = .next (touchMbx s (capture s c value.toNat))) ∧
      exec (.mbxData7Read cls) s = .next (touchMbx s ((s.mbxDone c).complete (natBytes 4 (readReg s c .glb 0 0x05C)) false))) ∧
    (∀ (off i o prod n : Nat) (b : Blk) (value : Word), c ≠ .bmcU → regAt s c off = some (b, i, o) → ringAt s b i o = some (prod, n) →
      exec (.dbgRingConsWrite cls off value) s = .next (touchDesc s (s.putCons b i o prod n value.toNat)))

/-- Device time (R361 to R364): a PTP message of the device's domain on an enabled port, holdover, a step, the event pin. -/
def Obligations.TimeCommandsComplete : Prop :=
  (∀ (s : State) (m : PtpMsg), m.port < 16 → portIsUp s m.port = true → fwUp s = true → m.domain = regF s .tim 0 0x028 23 16 →
    bitN (reg s .tim 0 0x028) m.port = true →
    (m.select = true → exec (.ptpMessage m) s = .next (touchTime s (s.timSelect m.port m.offset))) ∧
    (m.select = false → regF s .tim 0 0x010 23 20 = m.port → exec (.ptpMessage m) s = .next (touchTime s (s.timOffset m.offset)))) ∧
  (∀ s : State, timState s = tLocked → exec .holdoverEntry s =
    .next (touchTime s { s.setTim tHoldover with time := { s.time with holdStart := s.time.mono } })) ∧
  (∀ s : State, timState s = tHoldover → s.time.holdStart + 1000000000 * regF s .tim 0 0x02C 31 16 ≤ s.time.mono →
    exec .holdoverExpiry s = .next (touchTime s ((s.setTim tFree).raise { code := 0x4010, detail := [tFree] }))) ∧
  (∀ (s : State) (cls : RClass), grdClass s cls = true → exec (.timStepCtl cls) s =
    .next (touchTime s (s.stepTime (signed32 (reg s .tim 0 0x024) * 2 ^ 32 + reg s .tim 0 0x020)))) ∧
  (∀ (s : State) (nsOff : Nat), regF s .tim 0 0x030 30 30 = 1 → exec (.ppsIn nsOff) s = .next (touchTime s (ppsEdge s nsOff))) ∧
  (∀ s : State, regF s .tim 0 0x030 31 31 = 1 → exec .ppsOut s = .next (touchTime s (ppsPulse s))) ∧
  (∀ (s : State) (t : Nat), s.pin.alertAt = some t → regF s .thm 0 0x000 9 9 = 0 → t + 1000000000 ≤ s.time.mono →
    exec .alertHoldEnd s = .next { s with pin := { s.pin with alertAt := none } })

/-- Temperature and power (R430 to R442): samples without a trip, a trip, the power loop, rails, regulator alert, ageing. -/
def Obligations.ThermalCommandsComplete : Prop :=
  (∀ (s : State) (readings : List (Option Reading)), s.pin.thermtrip = false →
    ((∀ d, d < 26 → tripOf (sampleAll s readings) d = none) →
      exec (.sensorSample readings) s =
        .next (touchThm s ((List.range 26).foldl (fun s d => s.sampleDie readings d) s).showBands.clipRamps)) ∧
    (∀ d n, d < 26 → tripOf (sampleAll s readings) d = some n → (∀ e, e < d → tripOf (sampleAll s readings) e = none) →
      exec (.sensorSample readings) s = .next (resetTo s { (sampleAll s readings).trip d n with time := s.time }))) ∧
  (∀ s : State, s.pin.stopped = false →
    (∀ pkg cd stk, exec (.powerLoop pkg cd stk) s = .next (touchThm s (loopStep s pkg cd stk))) ∧
    (∀ mv cur pw, exec (.railMeasure mv cur pw) s =
      .next (touchThm s ((List.range 7).foldl (fun s k => railOne s k (mv.getD k 0) (cur.getD k 0) (pw.getD k 0)) s))) ∧
    exec (.vrAlert true) s =
      .next (touchThm s (({ s with pin := { s.pin with vrLow := true } } : State).raise { code := 0x7003, detail := [0] })) ∧
    exec (.vrAlert false) s = .next { s with pin := { s.pin with vrLow := false } } ∧
    (fwUp s = true → ∀ slow, exec (.roastMeasure slow) s = .next (touchThm s (roastStep s slow))))

/-- Power and resets (R394, R398 to R400, R404, R408, R466 to R471). -/
def Obligations.StartCommandsComplete : Prop :=
  (∀ (s : State) (testEn : Bool) (smbAddr railsOk : Nat), s.pin.pwrgood = false →
    exec (.pwrgoodRise testEn smbAddr railsOk) s = .next (resetTo s (s.powerBase
      { pwrgood := true, resetN := true, testEn := testEn, smbAddr := smbAddr % 4, railOk := railsOk % 128, vrLow := s.pin.vrLow }))) ∧
  (∀ s : State, s.pin.pwrgood = true →
    exec .pwrgoodFall s = .next (resetTo s { s.dark with pin := { s.dark.pin with pwrgood := false } })) ∧
  (∀ (s : State), inBoot s = true →
    (∀ railsOk, s.pin.railOk ≠ 127 → exec (.railCheckRetry railsOk) s = .next { s with pin := { s.pin with railOk := railsOk % 128 } }) ∧
    (∀ env : BootEnv, s.pin.railOk = 127 → exec (.powerOnReset env) s = .next (resetTo s ((s.powerBase s.pin).start env
      (if env.flashOk then ⟨((jAll s).map (·.key)).dedup.map (fun x => (x, jValue s x)), !(jAll s).isEmpty⟩ else ⟨[], false⟩) false false 0)))) ∧
  (∀ (s : State) (us : Nat) (env : BootEnv), 50 ≤ us → running s = true → exec (.resetN us env) s = .next (s.warmReset env false 1)) ∧
  (∀ (s : State) (cls : RClass) (recovery : Bool) (env : BootEnv) (k : Nat), resetCause s cls = some k → running s = true →
    exec (.mgtReset cls recovery env) s =
      .next ((if s.fatal then s else touchDesc s s.departAll).warmReset env recovery (if recovery then 5 else k))) ∧
  (∀ (s : State) (cls c : RClass) (write : Bool) (env : BootEnv), classNow s cls = some c → c ≠ .bmcU → (∀ p, c ≠ .vf p) →
    inRecovery s = true → regF s .mgt 0 0 3 0 = 3 → running s = true →
    exec (.mgtRecovCtl cls write env) s = .next (warmTo s (recovGo s write env)))

/-- Firmware's own work: fetching a model, the journal, the configuration scan, snapshots, trace rings, sleep (R402 to R412, R448, R452). -/
def Obligations.HousekeepingComplete : Prop :=
  (∀ (s : State) (lead : Nat) (manifest : List Byte) (programs blocks : List (List Byte)) (j : Job) (u : State),
    s.fw.jobsToFetch.contains lead = true → job? s lead = some j → fwUp s = true →
    ({ s with fw := { s.fw with jobsToFetch := s.fw.jobsToFetch.filter (· != lead) } } : State).fetchModel lead manifest programs blocks = (true, u) →
    exec (.modelFetch lead manifest programs blocks) s =
      .next (touchFw s (u.modJob lead (fun j => { j with open_ := true, idleSince := u.time.mono })))) ∧
  (∀ (s : State) (x : Nat × List Word), fwUp s = true → s.fw.jReadOnly = false →
    (jPending s).find? (fun x => jMay s { key := x.1, seq := s.fw.jSeq + 1, words := x.2 }) = some x →
    exec (.journalWrite true) s = .next (touchFw s (writeOne s true x.1 x.2))) ∧
  (∀ s : State, s.pin.stopped = false →
    exec .configScan s = .next (touchFw s (scanPass (if fwUp s && bitN (reg s .glb 0 0x0C8) 0 then cfgRepair s else s))) ∧
    ((fwUp s = true ∨ inRecovery s = true) → exec .telemetrySnapshot s = .next (touchFw s (snapStep s)))) ∧
  (∀ (s : State) (p : Nat), exec (.traceDrain p) s = .next (touchDesc s (drainTrace s p (part s p).trace.length))) ∧
  (∀ (s : State) (lead : Nat) (j : Job), job? s lead = some j →
    (pState s lead = pIdle → jobIdle s j = true → exec (.partitionSleep lead) s =
      .next (touchServ s (j.parts.foldl (fun s p => s.modPart p (fun q => { q with asleep := true })) s))) ∧
    (j.saved = none → exec (.partitionWake lead) s = .next (touchServ s (s.wakeJob lead)))) ∧
  (∀ (s : State) (p : Nat), p < 16 → (part s p).lead = none → pState s p = pFree → (part s p).freeSince + 1000000000 ≤ s.time.mono →
    exec (.deepSleep p) s = .next (touchServ s (s.deepen p)))

/-- SMBus (R461): a well-formed command whose offset the BMC may reach. -/
def Obligations.SmbusCommandsComplete : Prop :=
  ∀ s : State,
    (∀ (off o : Nat) (b : Blk), off % 4 = 0 → off < 0x4000000 → aonOff off = some (b, o) →
      exec (.read32 off) s = .next (s.smbReply smOk (natBytes 4 (readWord s .bmcU b 0 o)))) ∧
    (∀ off, off % 4 = 0 → off < 0x4000000 → aonOff off = none → smReady s = true → smbPath s off = true →
      exec (.read32 off) s = .next ((touchDesc s (read4 s (bmcNow s) off).2).smbReply smOk (natBytes 4 (read4 s (bmcNow s) off).1))) ∧
    (∀ (off : Nat) (value : Word), off % 4 = 0 → off < 0x4000000 → smReady s = true → smbPath s off = true →
      exec (.write32 off value) s = .next ((write4 s (bmcNow s) off value.toNat).smbReply smOk [])) ∧
    (smReady s = true → exec .snapshotRead s = .next (s.smbReply smOk (padTo 192 s.fw.snapshot))) ∧
    exec .pinstat s = .next (({ s with free := s.free + 1 } : State).smbReply smOk (pinBytes s))

/-- JTAG (R462, R463): what each instruction loads and what it makes of the pins. -/
def Obligations.JtagCommandsComplete : Prop :=
  ∀ s : State,
    (∀ pins : List Bool,
      exec (.extest pins) s = .next { s with pin := { s.pin with ir := irExtest, drive := driveCells, cells := pins } } ∧
      exec (.samplePreload pins) s = .next { s with pin := { s.pin with ir := irSample, drive := driveSystem, cells := pins } } ∧
      exec (.extestPulse pins) s = .next { s with pin := { s.pin with ir := irPulse, drive := driveCells, cells := pins } } ∧
      exec (.extestTrain pins) s = .next { s with pin := { s.pin with ir := irTrain, drive := driveCells, cells := pins } }) ∧
    exec .idcode s = .next { s with pin := { s.pin with ir := irIdcode, drive := driveSystem, dr := BitVec.ofNat 64 idcodeVal } } ∧
    exec .clamp s = .next { s with pin := { s.pin with ir := irClamp, drive := driveCells, dr := 0 } } ∧
    exec .highz s = .next { s with pin := { s.pin with ir := irHighz, drive := driveOff, dr := 0 } } ∧
    (∀ tdi, exec (.bypass tdi) s =
      .next { s with pin := { s.pin with ir := irBypass, drive := driveSystem, dr := if tdi then 1 else 0 } }) ∧
    (∀ dr : BitVec 64, s.pin.testEn = true → s.pin.stopped = false → fld dr.toNat 57 32 % 4 = 0 →
      let t : State := { s with pin := { s.pin with ir := irRegacc, drive := driveSystem, dr := regCaptured s } }
      (bitN dr.toNat 63 = true → exec (.regacc dr) s =
        .next (let u := write4 t .jtag (fld dr.toNat 57 32) (dr.toNat % 2 ^ 32); { u with pin := { u.pin with regFail := false } })) ∧
      (bitN dr.toNat 63 = false → exec (.regacc dr) s =
        .next (let u := touchDesc t (read4 t .jtag (fld dr.toNat 57 32)).2
               { u with pin := { u.pin with regRead := BitVec.ofNat 32 (read4 t .jtag (fld dr.toNat 57 32)).1, regFail := false } })))

/-! The queue, time and trips over every step. -/

/-- The command at the front of the queue runs with the queue's rest, and nothing is added to its effect. -/
def Obligations.StepRunsTheFrontCommand : Prop :=
  ∀ (s : State) (c : Instr) (rest : List Instr), step { s with pending := c :: rest } = exec c { s with pending := rest }

/-- An empty queue lets one tick of the always-on clock pass (the model's choice, log entry 3): time goes on as R361 says, nothing else changes. -/
def Obligations.AnEmptyQueueTicks : Prop :=
  ∀ s : State, s.pending = [] → ∃ t, step s = .next t ∧ t = { s with time := t.time } ∧ s.time.mono ≤ t.time.mono ∧
    t.time.frac < 2 ^ 32 ∧
    (freqAdj s = 0 → s.time.frac < 2 ^ 32 →
      t.time.mono = s.time.mono + 40 ∧ t.time.now = (s.time.now + 40) % 2 ^ 64 ∧ t.time.frac = s.time.frac)

/-- No command stops the block: every step of every state answers a next state. -/
def Obligations.EveryStepAnswers : Prop :=
  ∀ s : State, ∃ t, step s = .next t

/-- A step takes the front command off the queue and adds none. -/
def Obligations.TheQueueOnlyLosesItsFront : Prop :=
  ∀ s t : State, step s = .next t → t.pending = s.pending.tail

/-- Blown fuses stay blown and their counters stay in range (R406, R407, Table 16.7), whatever the step. -/
def Obligations.FusesStayInRange : Prop :=
  ∀ s t : State, fusesOk s.fuse → step s = .next t → fusesOk t.fuse ∧ fusesGrow s.fuse t.fuse

/-- TIM_MONO never goes back unless the device is powered up again (R361, Table 16.1). -/
def Obligations.MonotonicTimeNeverGoesBack : Prop :=
  ∀ s t : State, step s = .next t →
    (∀ testEn smbAddr railsOk, s.pending.head? ≠ some (.pwrgoodRise testEn smbAddr railsOk)) → (∀ env, s.pending.head? ≠ some (.powerOnReset env)) →
    s.time.mono ≤ t.time.mono

/-- THERMTRIP# stays asserted until the device is powered up again (R435). -/
def Obligations.ATripHolds : Prop :=
  ∀ s t : State, s.pin.thermtrip = true → step s = .next t →
    (∀ testEn smbAddr railsOk, s.pending.head? ≠ some (.pwrgoodRise testEn smbAddr railsOk)) → (∀ env, s.pending.head? ≠ some (.powerOnReset env)) →
    t.pin.thermtrip = true

/-- The state after reset: an empty queue, no job, fuses unprogrammed, memories in canonical form; register reset values of chapters 17 to 19. -/
def Obligations.TheStateAfterReset : Prop :=
  State.reset.pending = [] ∧ State.reset.jobs = [] ∧ State.reset.fatal = false ∧ State.reset.pin.thermtrip = false ∧
  fusesOk State.reset.fuse ∧ State.reset.fuse = { arvcnt := 0, revoked := 0, layout := 0, layoutChg := 0, ceilRaise := 0 } ∧
  Memory.wf State.reset.mem = true ∧ regF State.reset .thm 0 0x028 11 0 = 3400 ∧
  regF State.reset .dbgc 0 0x014 9 1 = 0x1FF ∧ regF State.reset .dbgc 0 0x004 20 16 = 0xA ∧
  (∀ p, p < 16 → regF State.reset .dbg p 0x008 20 16 = 6 ∧ ∀ r, r < 16 → regF State.reset .dbg p (0x044 + 16 * r) 20 16 = 0x14) ∧
  regF State.reset .tim 0 0x030 19 0 = 100000

/-! Frames: what each command leaves as it was. -/

/-- A lane register operation and the landing of a result change one core's vector engine and nothing else (R121, R127, R130). -/
def Obligations.LaneOperationsReachOneEngine : Prop :=
  ∀ (i : Instr) (k : Nat) (s t : State), cmdReach i = .lane k → exec i s = .next t → (Reach.lane k).frame s t

/-- Commands of Crema's clocks and queues, of the regulators, of waits and of the pins store to no memory, and leave jobs' neighbours alone. -/
def Obligations.QuietCommandsStoreNothing : Prop :=
  ∀ (i : Instr) (s t : State), cmdReach i = .quiet ∨ cmdReach i = .ctl ∨ cmdReach i = .pins → exec i s = .next t →
    (cmdReach i).frame s t ∧ t.mem = s.mem ∧ t.net = s.net ∧ t.fuse = s.fuse

/-- Descriptors, records, steps, packets, doorbells and host accesses reach no time, temperature, pin, fuse or firmware state; the loader's
commands add its queue, the mailbox commands and the endpoint's resets the mailboxes. -/
def Obligations.DescriptorsAndPacketsReach : Prop :=
  ∀ (i : Instr) (s t : State), cmdReach i = .desc ∨ cmdReach i = .load ∨ cmdReach i = .mbx → exec i s = .next t → (cmdReach i).frame s t

/-- Requests, housekeeping, stack settings and on-die repair reach no time, temperature, pin or mailbox; fuses only in the four requests that
program one. -/
def Obligations.FirmwareCommandsReach : Prop :=
  ∀ (i : Instr) (s t : State), cmdReach i = .fw ∨ cmdReach i = .fuse ∨ cmdReach i = .unit → exec i s = .next t → (cmdReach i).frame s t

/-- Commands about time and about temperature reach each their own state: no fuse, no firmware state; none steps TIM_MONO, releases a trip or
moves PWRGOOD (R361, R435). -/
def Obligations.TimeAndThermalCommandsReach : Prop :=
  ∀ (i : Instr) (s t : State), cmdReach i = .time ∨ cmdReach i = .thm → exec i s = .next t → (cmdReach i).frame s t

/-- LANE_STS stores one element: in a partition buffer or a scratchpad every byte outside the element's bytes reads as before, and so does every
byte of the other memories; a vector engine has no path to host memory (R26). RAW_WRITE stores 64 bytes of a stack. -/
def Obligations.StoresTouchTheirBytesOnly : Prop :=
  (∀ (s : State) (core : Nat) (o : LaneOp) (v : TView) (r : LRes) (x : X) (t : State), (laneEnv s core o).stream = some v →
    laneRuns s core o opSts = some (r, x) → exec (.laneSts core o) s = .next t →
    let (a, sh) := v.bitAddr (streamIdx (laneEnv s core o).x v o.imm8)
    let n := ceilDiv (sh + fmtBits v.fmt) 8
    let p := TV.part v.w
    (v.space = 2 → (∀ k, k < pbufKey p a.toNat ∨ pbufKey p a.toNat + n ≤ k → getB t.mem.pbuf k = getB s.mem.pbuf k) ∧
      (∀ k, getB t.mem.scratch k = getB s.mem.scratch k ∧ getB t.mem.host k = getB s.mem.host k ∧ getB t.mem.dram k = getB s.mem.dram k)) ∧
    (v.space = 3 → (∀ k, k < scratchKey p a.toNat ∨ scratchKey p a.toNat + n ≤ k → getB t.mem.scratch k = getB s.mem.scratch k) ∧
      (∀ k, getB t.mem.pbuf k = getB s.mem.pbuf k ∧ getB t.mem.host k = getB s.mem.host k ∧ getB t.mem.dram k = getB s.mem.dram k))) ∧
  (∀ (s : State) (core : Nat) (o : LaneOp) (v : TView), (laneEnv s core o).stream = some v → v.space = 4 → (laneEnv s core o).c.engine ≠ 3 →
    (laneEnv s core o).act.getLsbD 0 = true → laneRuns s core o opSts = none) ∧
  (∀ (s : State) (cls : RClass) (stack : Nat) (t : State), exec (.rawWrite cls stack) s = .next t →
    (∀ k, k < rprKey (s.setReg .stk stack 0x100 6) stack ∨ rprKey (s.setReg .stk stack 0x100 6) stack + 64 ≤ k →
      getB t.mem.dram k = getB s.mem.dram k) ∧
    (∀ k, getB t.mem.pbuf k = getB s.mem.pbuf k ∧ getB t.mem.scratch k = getB s.mem.scratch k ∧ getB t.mem.host k = getB s.mem.host k))

/-! Rules of the host link, of time, temperature and power. -/

/-- R328. The state u before the event that R358 adds: every register of the VF's copy in its PRT page reads its reset value, RC fields zero (the
doorbells latch nothing but the ARG registers), its MSI-X state is at reset, and jobs, steps, memory and every other copy are as they were. -/
def Obligations.AFunctionLevelResetOfAVf : Prop :=
  ∀ (s : State) (p : Nat), vfUp s p = true → s.pin.stopped = false → ∃ u : State,
    exec (.vfFlr p) s = .next (touchDesc s (u.raise { code := 0x5003, part := some p })) ∧
    (∀ off, rawW u ⟨.prt, p, off, 1⟩ = resetW ⟨.prt, p, off, 1⟩) ∧
    (∀ r ∈ regsOf .prt, ∀ f ∈ r.fields, f.acc = .rc → fld (rawW u ⟨.prt, p, r.off, 1⟩).toNat f.hi f.lo = 0) ∧
    rawW u ⟨.prt, p, 0x00C, 1⟩ = 0#32 ∧ rawW u ⟨.prt, p, 0x010, 1⟩ = 0#32 ∧
    (∀ v, (p + 1, v) ∉ u.pcie.masked ∧ (p + 1, v) ∉ u.pcie.pend) ∧
    (∀ f v, f ≠ p + 1 → ((f, v) ∈ u.pcie.masked ↔ (f, v) ∈ s.pcie.masked) ∧ ((f, v) ∈ u.pcie.pend ↔ (f, v) ∈ s.pcie.pend)) ∧
    (∀ k : RegKey, (k.blk ≠ .prt ∨ k.inst ≠ p ∨ k.cls ≠ 1) → rawW u k = rawW s k) ∧
    u.jobs = s.jobs ∧ u.parts = s.parts ∧ u.mem = s.mem ∧ u.stk = s.stk

/-- R465. A fall of PERST# does what a function-level reset of the PF does and keeps the endpoint in reset (no function is reached) till PERST#
rises, when the link trains; jobs, partitions, ports, engines and firmware are as they were before the event of R358; a power-up with PERST# low
leaves it so, and the device starts whether it is low or not. -/
def Obligations.PerstResetsTheEndpointOnly : Prop :=
  (∀ s : State, s.pcie.perstLow = false → s.pin.stopped = false → ∃ u t : State,
    exec .pfFlr s = .next t ∧ exec (.perst true) s = .next { t with pcie := { t.pcie with perstLow := true } } ∧
    t = { touchDesc s (u.raise { code := 0x5003 }) with mbx := t.mbx } ∧
    u.jobs = s.jobs ∧ u.parts = s.parts ∧ u.net = s.net ∧ u.units = s.units ∧ u.vecs = s.vecs ∧ u.atts = s.atts ∧ u.mem = s.mem ∧ u.stk = s.stk ∧
    u.fw = s.fw) ∧
  (∀ s : State, s.pcie.perstLow = true → classNow s .pf = none ∧ ∀ p, vfUp s p = false ∧ classNow s (.vf p) = none) ∧
  (∀ s : State, s.pcie.perstLow = true → s.pin.stopped = false →
    exec (.perst false) s = .next { s with pcie := { s.pcie with perstLow := false, gen := 5, width := 8 } }) ∧
  (∀ (s : State) (testEn : Bool) (smbAddr railsOk : Nat) (t : State), s.pin.pwrgood = false → exec (.pwrgoodRise testEn smbAddr railsOk) s = .next t →
    t.pcie.perstLow = s.pcie.perstLow) ∧
  (∀ (s : State) (env : BootEnv), inBoot s = true → s.pin.railOk = 127 → ∃ (k : Kept) (t : State), exec (.powerOnReset env) s = .next t ∧
    t = resetTo s ((s.powerBase s.pin).start env k false false 0) ∧ t.pcie.perstLow = s.pcie.perstLow)

/-- R436. After every sample without a trip, THM_STATUS.ALERT is set just when a die is at or above the alert band (3, or 2 where BAND is 2) or a
sensor is broken and BROKEN is set; while it is set the event pin is high. -/
def Obligations.TheAlertFollowsBandsAndSensors : Prop :=
  ∀ (s : State) (readings : List (Option Reading)), s.pin.thermtrip = false → (∀ d, d < 26 → tripOf (sampleAll s readings) d = none) →
    ∃ t, exec (.sensorSample readings) s = .next t ∧
      (regF t .thm 0 0x000 9 9 = 1 ↔
        (∃ d, d < 26 ∧ (if regF t .thm 0 0x014 2 0 = 2 then 2 else 3) ≤ bandOf t d) ∨
        (regF t .thm 0 0x014 8 8 = 1 ∧ ∃ n, n < 220 ∧ (sensor t n).broken = true)) ∧
      (regF t .thm 0 0x000 9 9 = 1 → eventPin t = true)

/-- R364. An edge of the PPS input is held in TIM_PPSIN_TS and sets PPSIN in every copy; a whole second with OUTEN starts a pulse of WIDTH µs (at most
500,000, R464) on the event pin, where no alert holds the pin (R464), and a suppressed one otherwise. -/
def Obligations.ThePpsInputAndOutput : Prop :=
  (∀ (s : State) (nsOff : Nat), regF s .tim 0 0x030 30 30 = 1 → ∃ t, exec (.ppsIn nsOff) s = .next t ∧
    getWide t ⟨.tim, 0, 0x038, 0⟩ = (s.time.now + nsOff) % 2 ^ 64 ∧
    ∀ c ∈ rcCopies .tim, fld (rawW t ⟨.tim, 0, 0x010, c⟩).toNat 19 19 = 1) ∧
  (∀ s : State, regF s .tim 0 0x030 31 31 = 1 → alertHolds s = false → ∃ t, exec .ppsOut s = .next t ∧
    ∀ n, eventPin { t with time := { t.time with now := n } } =
      decide (n < s.time.now / 1000000000 * 1000000000 + 1000 * min (regF s .tim 0 0x030 19 0) 500000)) ∧
  (∀ s : State, regF s .tim 0 0x030 31 31 = 1 → alertHolds s = true → ∃ t, exec .ppsOut s = .next t ∧
    t.pin.suppressed = s.pin.suppressed + 1 ∧ t.pin.pulseUntil = none)

/-- From R437: a write of THM_PLIMIT by the PF is clamped to 1,600 W and the ceiling; CEILING_RAISE is malformed outside 1,600 to 3,400 W, refused at or
below the ceiling, and uses no fuse then. -/
def Obligations.ThePowerLimitStaysBelowTheCeiling : Prop :=
  (∀ (s : State) (v : DWord), classNow s .pf = some .pf → inRecovery s = false → v.toNat < 2 ^ 12 → ∃ u : State,
    exec (.registerWrite .pf 0x200024 v false) s =
      .next (touchDesc s (if reg u .thm 0 0x024 = reg s .thm 0 0x024 then u else u.raise { code := 0x7001 })) ∧
    regF u .thm 0 0x024 11 0 = max 1600 (min v.toNat (regF s .thm 0 0x028 11 0)) ∧
    (∀ k : RegKey, k ≠ ⟨.thm, 0, 0x024, 0⟩ → rawW u k = rawW s k) ∧ u.mem = s.mem) ∧
  (∀ (s : State) (h : FwHdr) (c : RClass) (watts : Nat), fwClass s h 4 = some c →
    ((watts < 1600 ∨ 3400 < watts) → ∃ t, exec (.ceilingRaise h watts) s = .next t ∧
      t = fwAnswer s h c 0x0053 (stop_ s stMalformed) ∧ t.fuse = s.fuse) ∧
    (1600 ≤ watts → watts ≤ 3400 → watts ≤ regF s .thm 0 0x028 11 0 → ∃ t, exec (.ceilingRaise h watts) s = .next t ∧
      t = fwAnswer s h c 0x0053 (stop_ s stRefused) ∧ t.fuse = s.fuse))

/-- From R433 and R435: a die with more than a quarter of its sensors broken (21 of the compute die, 2 of any other) trips with index 0xFF, one whose
hottest sensor is at TRIP with that sensor; THERMTRIP# is asserted, clocks stop, THM_TRIP is latched, stack contents and jobs are gone. -/
def Obligations.ATripStopsTheDevice : Prop :=
  (∀ k, (dieSensors 0).length < 4 * k ↔ 21 ≤ k) ∧
  (∀ d, 1 ≤ d → d < 26 → ∀ k, (dieSensors d).length < 4 * k ↔ 2 ≤ k) ∧
  (∀ (s : State) (readings : List (Option Reading)) (d n : Nat), s.pin.thermtrip = false → d < 26 →
    (∀ e, e < d → tripOf (sampleAll s readings) e = none) →
    ((dieSensors d).length < 4 * brokenOf (sampleAll s readings) d ∧ n = 0xFF) ∨
      (4 * brokenOf (sampleAll s readings) d ≤ (dieSensors d).length ∧
        ∃ q, hottest (sampleAll s readings) d = some (n, q) ∧ bandLow d 4 ≤ q) →
    ∃ t, exec (.sensorSample readings) s = .next t ∧ t.pin.thermtrip = true ∧ t.pin.stopped = true ∧ bandOf t d = 4 ∧
      reg t .thm 0 0x018 = 2 ^ 31 + d * 256 + n ∧ t.mem.dram = [] ∧ t.jobs = [] ∧ t.fuse = s.fuse ∧ t.time = s.time)

/-- From R419, on the counters of a DBG page: a read by the PF returns the PF's copy and clears it, a read by the BMC or JTAG returns firmware's copy and
clears nothing; no other register or copy and no memory is changed. -/
def Obligations.ARcReadClearsTheReadersCopy : Prop :=
  ∀ (s : State) (p o : Nat), p < 16 → o ∈ [0x014, 0x140, 0x144, 0x148] → inRecovery s = false →
    let k (c : Nat) : RegKey := ⟨.dbg, p, o, c⟩
    (classNow s .pf = some .pf → ∃ t, exec (.rcRead .pf (0xC00000 + p * 0x20000 + o) false) s = .next t ∧
      t.pcie.cpl = [(natBytes 4 (rawW s (k 0)).toNat, false)] ∧ rawW t (k 0) = 0#32 ∧ (∀ j, j ≠ k 0 → rawW t j = rawW s j) ∧ t.mem = s.mem) ∧
    (∀ c, c = .bmc ∨ c = .jtag → classNow s c = some c → ∃ t, exec (.rcRead c (0xC00000 + p * 0x20000 + o) false) s = .next t ∧
      t.pcie.cpl = [(natBytes 4 (rawW s (k 2)).toNat, false)] ∧ t.regs = s.regs ∧ t.mem = s.mem)
end

