-- ==== Sys2Proof/Laws/State.lean ====
section
/-! SUPPORT. What an update of the state leaves in each field: register and memory updates, job and partition updates, and the `touch` functions that
say how far a command reaches. -/

namespace Sys2Proof.Machine
/-! Field updates. -/

@[simp] theorem State.setW_pending (s : State) (k : RegKey) (w : Word) : (s.setW k w).pending = s.pending := rfl
@[simp] theorem State.setW_free (s : State) (k : RegKey) (w : Word) : (s.setW k w).free = s.free := rfl
@[simp] theorem State.setW_launches (s : State) (k : RegKey) (w : Word) : (s.setW k w).launches = s.launches := rfl
@[simp] theorem State.setW_time (s : State) (k : RegKey) (w : Word) : (s.setW k w).time = s.time := rfl
@[simp] theorem State.setW_regs (s : State) (k : RegKey) (w : Word) : (s.setW k w).regs = storeR s.regs k w := rfl
@[simp] theorem State.setW_wide (s : State) (k : RegKey) (w : Word) : (s.setW k w).wide = s.wide := rfl
@[simp] theorem State.setW_mbx (s : State) (k : RegKey) (w : Word) : (s.setW k w).mbx = s.mbx := rfl
@[simp] theorem State.setW_mem (s : State) (k : RegKey) (w : Word) : (s.setW k w).mem = s.mem := rfl
@[simp] theorem State.setW_stk (s : State) (k : RegKey) (w : Word) : (s.setW k w).stk = s.stk := rfl
@[simp] theorem State.setW_units (s : State) (k : RegKey) (w : Word) : (s.setW k w).units = s.units := rfl
@[simp] theorem State.setW_vecs (s : State) (k : RegKey) (w : Word) : (s.setW k w).vecs = s.vecs := rfl
@[simp] theorem State.setW_atts (s : State) (k : RegKey) (w : Word) : (s.setW k w).atts = s.atts := rfl
@[simp] theorem State.setW_jobs (s : State) (k : RegKey) (w : Word) : (s.setW k w).jobs = s.jobs := rfl
@[simp] theorem State.setW_parts (s : State) (k : RegKey) (w : Word) : (s.setW k w).parts = s.parts := rfl
@[simp] theorem State.setW_net (s : State) (k : RegKey) (w : Word) : (s.setW k w).net = s.net := rfl
@[simp] theorem State.setW_pcie (s : State) (k : RegKey) (w : Word) : (s.setW k w).pcie = s.pcie := rfl
@[simp] theorem State.setW_fw (s : State) (k : RegKey) (w : Word) : (s.setW k w).fw = s.fw := rfl
@[simp] theorem State.setW_thm (s : State) (k : RegKey) (w : Word) : (s.setW k w).thm = s.thm := rfl
@[simp] theorem State.setW_pin (s : State) (k : RegKey) (w : Word) : (s.setW k w).pin = s.pin := rfl
@[simp] theorem State.setW_fuse (s : State) (k : RegKey) (w : Word) : (s.setW k w).fuse = s.fuse := rfl
@[simp] theorem State.setW_supp (s : State) (k : RegKey) (w : Word) : (s.setW k w).supp = s.supp := rfl
@[simp] theorem State.setW_sramRemap (s : State) (k : RegKey) (w : Word) : (s.setW k w).sramRemap = s.sramRemap := rfl
@[simp] theorem State.setW_sramFixed (s : State) (k : RegKey) (w : Word) : (s.setW k w).sramFixed = s.sramFixed := rfl
@[simp] theorem State.setW_fatal (s : State) (k : RegKey) (w : Word) : (s.setW k w).fatal = s.fatal := rfl

@[simp] theorem State.setReg_pending (s : State) (b : Blk) (i o v : Nat) : (s.setReg b i o v).pending = s.pending := rfl
@[simp] theorem State.setReg_free (s : State) (b : Blk) (i o v : Nat) : (s.setReg b i o v).free = s.free := rfl
@[simp] theorem State.setReg_launches (s : State) (b : Blk) (i o v : Nat) : (s.setReg b i o v).launches = s.launches := rfl
@[simp] theorem State.setReg_time (s : State) (b : Blk) (i o v : Nat) : (s.setReg b i o v).time = s.time := rfl
@[simp] theorem State.setReg_regs (s : State) (b : Blk) (i o v : Nat) : (s.setReg b i o v).regs = storeR s.regs ⟨b, i, o, 0⟩ (BitVec.ofNat 32 v) := rfl
@[simp] theorem State.setReg_wide (s : State) (b : Blk) (i o v : Nat) : (s.setReg b i o v).wide = s.wide := rfl
@[simp] theorem State.setReg_mbx (s : State) (b : Blk) (i o v : Nat) : (s.setReg b i o v).mbx = s.mbx := rfl
@[simp] theorem State.setReg_mem (s : State) (b : Blk) (i o v : Nat) : (s.setReg b i o v).mem = s.mem := rfl
@[simp] theorem State.setReg_stk (s : State) (b : Blk) (i o v : Nat) : (s.setReg b i o v).stk = s.stk := rfl
@[simp] theorem State.setReg_units (s : State) (b : Blk) (i o v : Nat) : (s.setReg b i o v).units = s.units := rfl
@[simp] theorem State.setReg_vecs (s : State) (b : Blk) (i o v : Nat) : (s.setReg b i o v).vecs = s.vecs := rfl
@[simp] theorem State.setReg_atts (s : State) (b : Blk) (i o v : Nat) : (s.setReg b i o v).atts = s.atts := rfl
@[simp] theorem State.setReg_jobs (s : State) (b : Blk) (i o v : Nat) : (s.setReg b i o v).jobs = s.jobs := rfl
@[simp] theorem State.setReg_parts (s : State) (b : Blk) (i o v : Nat) : (s.setReg b i o v).parts = s.parts := rfl
@[simp] theorem State.setReg_net (s : State) (b : Blk) (i o v : Nat) : (s.setReg b i o v).net = s.net := rfl
@[simp] theorem State.setReg_pcie (s : State) (b : Blk) (i o v : Nat) : (s.setReg b i o v).pcie = s.pcie := rfl
@[simp] theorem State.setReg_fw (s : State) (b : Blk) (i o v : Nat) : (s.setReg b i o v).fw = s.fw := rfl
@[simp] theorem State.setReg_thm (s : State) (b : Blk) (i o v : Nat) : (s.setReg b i o v).thm = s.thm := rfl
@[simp] theorem State.setReg_pin (s : State) (b : Blk) (i o v : Nat) : (s.setReg b i o v).pin = s.pin := rfl
@[simp] theorem State.setReg_fuse (s : State) (b : Blk) (i o v : Nat) : (s.setReg b i o v).fuse = s.fuse := rfl
@[simp] theorem State.setReg_supp (s : State) (b : Blk) (i o v : Nat) : (s.setReg b i o v).supp = s.supp := rfl
@[simp] theorem State.setReg_sramRemap (s : State) (b : Blk) (i o v : Nat) : (s.setReg b i o v).sramRemap = s.sramRemap := rfl
@[simp] theorem State.setReg_sramFixed (s : State) (b : Blk) (i o v : Nat) : (s.setReg b i o v).sramFixed = s.sramFixed := rfl
@[simp] theorem State.setReg_fatal (s : State) (b : Blk) (i o v : Nat) : (s.setReg b i o v).fatal = s.fatal := rfl

@[simp] theorem State.setWide_pending (s : State) (k : RegKey) (v : Nat) : (s.setWide k v).pending = s.pending := rfl
@[simp] theorem State.setWide_free (s : State) (k : RegKey) (v : Nat) : (s.setWide k v).free = s.free := rfl
@[simp] theorem State.setWide_launches (s : State) (k : RegKey) (v : Nat) : (s.setWide k v).launches = s.launches := rfl
@[simp] theorem State.setWide_time (s : State) (k : RegKey) (v : Nat) : (s.setWide k v).time = s.time := rfl
@[simp] theorem State.setWide_regs (s : State) (k : RegKey) (v : Nat) : (s.setWide k v).regs = s.regs := rfl
@[simp] theorem State.setWide_wide (s : State) (k : RegKey) (v : Nat) : (s.setWide k v).wide = storeR s.wide k (BitVec.ofNat 512 v) := rfl
@[simp] theorem State.setWide_mbx (s : State) (k : RegKey) (v : Nat) : (s.setWide k v).mbx = s.mbx := rfl
@[simp] theorem State.setWide_mem (s : State) (k : RegKey) (v : Nat) : (s.setWide k v).mem = s.mem := rfl
@[simp] theorem State.setWide_stk (s : State) (k : RegKey) (v : Nat) : (s.setWide k v).stk = s.stk := rfl
@[simp] theorem State.setWide_units (s : State) (k : RegKey) (v : Nat) : (s.setWide k v).units = s.units := rfl
@[simp] theorem State.setWide_vecs (s : State) (k : RegKey) (v : Nat) : (s.setWide k v).vecs = s.vecs := rfl
@[simp] theorem State.setWide_atts (s : State) (k : RegKey) (v : Nat) : (s.setWide k v).atts = s.atts := rfl
@[simp] theorem State.setWide_jobs (s : State) (k : RegKey) (v : Nat) : (s.setWide k v).jobs = s.jobs := rfl
@[simp] theorem State.setWide_parts (s : State) (k : RegKey) (v : Nat) : (s.setWide k v).parts = s.parts := rfl
@[simp] theorem State.setWide_net (s : State) (k : RegKey) (v : Nat) : (s.setWide k v).net = s.net := rfl
@[simp] theorem State.setWide_pcie (s : State) (k : RegKey) (v : Nat) : (s.setWide k v).pcie = s.pcie := rfl
@[simp] theorem State.setWide_fw (s : State) (k : RegKey) (v : Nat) : (s.setWide k v).fw = s.fw := rfl
@[simp] theorem State.setWide_thm (s : State) (k : RegKey) (v : Nat) : (s.setWide k v).thm = s.thm := rfl
@[simp] theorem State.setWide_pin (s : State) (k : RegKey) (v : Nat) : (s.setWide k v).pin = s.pin := rfl
@[simp] theorem State.setWide_fuse (s : State) (k : RegKey) (v : Nat) : (s.setWide k v).fuse = s.fuse := rfl
@[simp] theorem State.setWide_supp (s : State) (k : RegKey) (v : Nat) : (s.setWide k v).supp = s.supp := rfl
@[simp] theorem State.setWide_sramRemap (s : State) (k : RegKey) (v : Nat) : (s.setWide k v).sramRemap = s.sramRemap := rfl
@[simp] theorem State.setWide_sramFixed (s : State) (k : RegKey) (v : Nat) : (s.setWide k v).sramFixed = s.sramFixed := rfl
@[simp] theorem State.setWide_fatal (s : State) (k : RegKey) (v : Nat) : (s.setWide k v).fatal = s.fatal := rfl

@[simp] theorem State.setVec_pending (s : State) (k : Nat) (v : Vec) : (s.setVec k v).pending = s.pending := rfl
@[simp] theorem State.setVec_free (s : State) (k : Nat) (v : Vec) : (s.setVec k v).free = s.free := rfl
@[simp] theorem State.setVec_launches (s : State) (k : Nat) (v : Vec) : (s.setVec k v).launches = s.launches := rfl
@[simp] theorem State.setVec_time (s : State) (k : Nat) (v : Vec) : (s.setVec k v).time = s.time := rfl
@[simp] theorem State.setVec_regs (s : State) (k : Nat) (v : Vec) : (s.setVec k v).regs = s.regs := rfl
@[simp] theorem State.setVec_wide (s : State) (k : Nat) (v : Vec) : (s.setVec k v).wide = s.wide := rfl
@[simp] theorem State.setVec_mbx (s : State) (k : Nat) (v : Vec) : (s.setVec k v).mbx = s.mbx := rfl
@[simp] theorem State.setVec_mem (s : State) (k : Nat) (v : Vec) : (s.setVec k v).mem = s.mem := rfl
@[simp] theorem State.setVec_stk (s : State) (k : Nat) (v : Vec) : (s.setVec k v).stk = s.stk := rfl
@[simp] theorem State.setVec_units (s : State) (k : Nat) (v : Vec) : (s.setVec k v).units = s.units := rfl
@[simp] theorem State.setVec_vecs (s : State) (k : Nat) (v : Vec) : (s.setVec k v).vecs = putT s.vecs k v := rfl
@[simp] theorem State.setVec_atts (s : State) (k : Nat) (v : Vec) : (s.setVec k v).atts = s.atts := rfl
@[simp] theorem State.setVec_jobs (s : State) (k : Nat) (v : Vec) : (s.setVec k v).jobs = s.jobs := rfl
@[simp] theorem State.setVec_parts (s : State) (k : Nat) (v : Vec) : (s.setVec k v).parts = s.parts := rfl
@[simp] theorem State.setVec_net (s : State) (k : Nat) (v : Vec) : (s.setVec k v).net = s.net := rfl
@[simp] theorem State.setVec_pcie (s : State) (k : Nat) (v : Vec) : (s.setVec k v).pcie = s.pcie := rfl
@[simp] theorem State.setVec_fw (s : State) (k : Nat) (v : Vec) : (s.setVec k v).fw = s.fw := rfl
@[simp] theorem State.setVec_thm (s : State) (k : Nat) (v : Vec) : (s.setVec k v).thm = s.thm := rfl
@[simp] theorem State.setVec_pin (s : State) (k : Nat) (v : Vec) : (s.setVec k v).pin = s.pin := rfl
@[simp] theorem State.setVec_fuse (s : State) (k : Nat) (v : Vec) : (s.setVec k v).fuse = s.fuse := rfl
@[simp] theorem State.setVec_supp (s : State) (k : Nat) (v : Vec) : (s.setVec k v).supp = s.supp := rfl
@[simp] theorem State.setVec_sramRemap (s : State) (k : Nat) (v : Vec) : (s.setVec k v).sramRemap = s.sramRemap := rfl
@[simp] theorem State.setVec_sramFixed (s : State) (k : Nat) (v : Vec) : (s.setVec k v).sramFixed = s.sramFixed := rfl
@[simp] theorem State.setVec_fatal (s : State) (k : Nat) (v : Vec) : (s.setVec k v).fatal = s.fatal := rfl

@[simp] theorem State.putPbuf_pending (s : State) (p o : Nat) (bs : List Byte) : (s.putPbuf p o bs).pending = s.pending := rfl
@[simp] theorem State.putPbuf_free (s : State) (p o : Nat) (bs : List Byte) : (s.putPbuf p o bs).free = s.free := rfl
@[simp] theorem State.putPbuf_launches (s : State) (p o : Nat) (bs : List Byte) : (s.putPbuf p o bs).launches = s.launches := rfl
@[simp] theorem State.putPbuf_time (s : State) (p o : Nat) (bs : List Byte) : (s.putPbuf p o bs).time = s.time := rfl
@[simp] theorem State.putPbuf_regs (s : State) (p o : Nat) (bs : List Byte) : (s.putPbuf p o bs).regs = s.regs := rfl
@[simp] theorem State.putPbuf_wide (s : State) (p o : Nat) (bs : List Byte) : (s.putPbuf p o bs).wide = s.wide := rfl
@[simp] theorem State.putPbuf_mbx (s : State) (p o : Nat) (bs : List Byte) : (s.putPbuf p o bs).mbx = s.mbx := rfl
@[simp] theorem State.putPbuf_mem (s : State) (p o : Nat) (bs : List Byte) : (s.putPbuf p o bs).mem = { s.mem with pbuf := putBs s.mem.pbuf (pbufKey p o) bs } := rfl
@[simp] theorem State.putPbuf_stk (s : State) (p o : Nat) (bs : List Byte) : (s.putPbuf p o bs).stk = s.stk := rfl
@[simp] theorem State.putPbuf_units (s : State) (p o : Nat) (bs : List Byte) : (s.putPbuf p o bs).units = s.units := rfl
@[simp] theorem State.putPbuf_vecs (s : State) (p o : Nat) (bs : List Byte) : (s.putPbuf p o bs).vecs = s.vecs := rfl
@[simp] theorem State.putPbuf_atts (s : State) (p o : Nat) (bs : List Byte) : (s.putPbuf p o bs).atts = s.atts := rfl
@[simp] theorem State.putPbuf_jobs (s : State) (p o : Nat) (bs : List Byte) : (s.putPbuf p o bs).jobs = s.jobs := rfl
@[simp] theorem State.putPbuf_parts (s : State) (p o : Nat) (bs : List Byte) : (s.putPbuf p o bs).parts = s.parts := rfl
@[simp] theorem State.putPbuf_net (s : State) (p o : Nat) (bs : List Byte) : (s.putPbuf p o bs).net = s.net := rfl
@[simp] theorem State.putPbuf_pcie (s : State) (p o : Nat) (bs : List Byte) : (s.putPbuf p o bs).pcie = s.pcie := rfl
@[simp] theorem State.putPbuf_fw (s : State) (p o : Nat) (bs : List Byte) : (s.putPbuf p o bs).fw = s.fw := rfl
@[simp] theorem State.putPbuf_thm (s : State) (p o : Nat) (bs : List Byte) : (s.putPbuf p o bs).thm = s.thm := rfl
@[simp] theorem State.putPbuf_pin (s : State) (p o : Nat) (bs : List Byte) : (s.putPbuf p o bs).pin = s.pin := rfl
@[simp] theorem State.putPbuf_fuse (s : State) (p o : Nat) (bs : List Byte) : (s.putPbuf p o bs).fuse = s.fuse := rfl
@[simp] theorem State.putPbuf_supp (s : State) (p o : Nat) (bs : List Byte) : (s.putPbuf p o bs).supp = s.supp := rfl
@[simp] theorem State.putPbuf_sramRemap (s : State) (p o : Nat) (bs : List Byte) : (s.putPbuf p o bs).sramRemap = s.sramRemap := rfl
@[simp] theorem State.putPbuf_sramFixed (s : State) (p o : Nat) (bs : List Byte) : (s.putPbuf p o bs).sramFixed = s.sramFixed := rfl
@[simp] theorem State.putPbuf_fatal (s : State) (p o : Nat) (bs : List Byte) : (s.putPbuf p o bs).fatal = s.fatal := rfl

@[simp] theorem State.putScratch_pending (s : State) (p o : Nat) (bs : List Byte) : (s.putScratch p o bs).pending = s.pending := rfl
@[simp] theorem State.putScratch_free (s : State) (p o : Nat) (bs : List Byte) : (s.putScratch p o bs).free = s.free := rfl
@[simp] theorem State.putScratch_launches (s : State) (p o : Nat) (bs : List Byte) : (s.putScratch p o bs).launches = s.launches := rfl
@[simp] theorem State.putScratch_time (s : State) (p o : Nat) (bs : List Byte) : (s.putScratch p o bs).time = s.time := rfl
@[simp] theorem State.putScratch_regs (s : State) (p o : Nat) (bs : List Byte) : (s.putScratch p o bs).regs = s.regs := rfl
@[simp] theorem State.putScratch_wide (s : State) (p o : Nat) (bs : List Byte) : (s.putScratch p o bs).wide = s.wide := rfl
@[simp] theorem State.putScratch_mbx (s : State) (p o : Nat) (bs : List Byte) : (s.putScratch p o bs).mbx = s.mbx := rfl
@[simp] theorem State.putScratch_mem (s : State) (p o : Nat) (bs : List Byte) : (s.putScratch p o bs).mem = { s.mem with scratch := putBs s.mem.scratch (scratchKey p o) bs } := rfl
@[simp] theorem State.putScratch_stk (s : State) (p o : Nat) (bs : List Byte) : (s.putScratch p o bs).stk = s.stk := rfl
@[simp] theorem State.putScratch_units (s : State) (p o : Nat) (bs : List Byte) : (s.putScratch p o bs).units = s.units := rfl
@[simp] theorem State.putScratch_vecs (s : State) (p o : Nat) (bs : List Byte) : (s.putScratch p o bs).vecs = s.vecs := rfl
@[simp] theorem State.putScratch_atts (s : State) (p o : Nat) (bs : List Byte) : (s.putScratch p o bs).atts = s.atts := rfl
@[simp] theorem State.putScratch_jobs (s : State) (p o : Nat) (bs : List Byte) : (s.putScratch p o bs).jobs = s.jobs := rfl
@[simp] theorem State.putScratch_parts (s : State) (p o : Nat) (bs : List Byte) : (s.putScratch p o bs).parts = s.parts := rfl
@[simp] theorem State.putScratch_net (s : State) (p o : Nat) (bs : List Byte) : (s.putScratch p o bs).net = s.net := rfl
@[simp] theorem State.putScratch_pcie (s : State) (p o : Nat) (bs : List Byte) : (s.putScratch p o bs).pcie = s.pcie := rfl
@[simp] theorem State.putScratch_fw (s : State) (p o : Nat) (bs : List Byte) : (s.putScratch p o bs).fw = s.fw := rfl
@[simp] theorem State.putScratch_thm (s : State) (p o : Nat) (bs : List Byte) : (s.putScratch p o bs).thm = s.thm := rfl
@[simp] theorem State.putScratch_pin (s : State) (p o : Nat) (bs : List Byte) : (s.putScratch p o bs).pin = s.pin := rfl
@[simp] theorem State.putScratch_fuse (s : State) (p o : Nat) (bs : List Byte) : (s.putScratch p o bs).fuse = s.fuse := rfl
@[simp] theorem State.putScratch_supp (s : State) (p o : Nat) (bs : List Byte) : (s.putScratch p o bs).supp = s.supp := rfl
@[simp] theorem State.putScratch_sramRemap (s : State) (p o : Nat) (bs : List Byte) : (s.putScratch p o bs).sramRemap = s.sramRemap := rfl
@[simp] theorem State.putScratch_sramFixed (s : State) (p o : Nat) (bs : List Byte) : (s.putScratch p o bs).sramFixed = s.sramFixed := rfl
@[simp] theorem State.putScratch_fatal (s : State) (p o : Nat) (bs : List Byte) : (s.putScratch p o bs).fatal = s.fatal := rfl

@[simp] theorem State.setJob_pending (s : State) (l : Nat) (j : Job) : (s.setJob l j).pending = s.pending := rfl
@[simp] theorem State.setJob_free (s : State) (l : Nat) (j : Job) : (s.setJob l j).free = s.free := rfl
@[simp] theorem State.setJob_launches (s : State) (l : Nat) (j : Job) : (s.setJob l j).launches = s.launches := rfl
@[simp] theorem State.setJob_time (s : State) (l : Nat) (j : Job) : (s.setJob l j).time = s.time := rfl
@[simp] theorem State.setJob_regs (s : State) (l : Nat) (j : Job) : (s.setJob l j).regs = s.regs := rfl
@[simp] theorem State.setJob_wide (s : State) (l : Nat) (j : Job) : (s.setJob l j).wide = s.wide := rfl
@[simp] theorem State.setJob_mbx (s : State) (l : Nat) (j : Job) : (s.setJob l j).mbx = s.mbx := rfl
@[simp] theorem State.setJob_mem (s : State) (l : Nat) (j : Job) : (s.setJob l j).mem = s.mem := rfl
@[simp] theorem State.setJob_stk (s : State) (l : Nat) (j : Job) : (s.setJob l j).stk = s.stk := rfl
@[simp] theorem State.setJob_units (s : State) (l : Nat) (j : Job) : (s.setJob l j).units = s.units := rfl
@[simp] theorem State.setJob_vecs (s : State) (l : Nat) (j : Job) : (s.setJob l j).vecs = s.vecs := rfl
@[simp] theorem State.setJob_atts (s : State) (l : Nat) (j : Job) : (s.setJob l j).atts = s.atts := rfl
@[simp] theorem State.setJob_jobs (s : State) (l : Nat) (j : Job) : (s.setJob l j).jobs = putT s.jobs l j := rfl
@[simp] theorem State.setJob_parts (s : State) (l : Nat) (j : Job) : (s.setJob l j).parts = s.parts := rfl
@[simp] theorem State.setJob_net (s : State) (l : Nat) (j : Job) : (s.setJob l j).net = s.net := rfl
@[simp] theorem State.setJob_pcie (s : State) (l : Nat) (j : Job) : (s.setJob l j).pcie = s.pcie := rfl
@[simp] theorem State.setJob_fw (s : State) (l : Nat) (j : Job) : (s.setJob l j).fw = s.fw := rfl
@[simp] theorem State.setJob_thm (s : State) (l : Nat) (j : Job) : (s.setJob l j).thm = s.thm := rfl
@[simp] theorem State.setJob_pin (s : State) (l : Nat) (j : Job) : (s.setJob l j).pin = s.pin := rfl
@[simp] theorem State.setJob_fuse (s : State) (l : Nat) (j : Job) : (s.setJob l j).fuse = s.fuse := rfl
@[simp] theorem State.setJob_supp (s : State) (l : Nat) (j : Job) : (s.setJob l j).supp = s.supp := rfl
@[simp] theorem State.setJob_sramRemap (s : State) (l : Nat) (j : Job) : (s.setJob l j).sramRemap = s.sramRemap := rfl
@[simp] theorem State.setJob_sramFixed (s : State) (l : Nat) (j : Job) : (s.setJob l j).sramFixed = s.sramFixed := rfl
@[simp] theorem State.setJob_fatal (s : State) (l : Nat) (j : Job) : (s.setJob l j).fatal = s.fatal := rfl

/-! Reaches. -/

@[simp] theorem touchDesc_pending (s t : State) : (touchDesc s t).pending = s.pending := rfl
@[simp] theorem touchDesc_free (s t : State) : (touchDesc s t).free = s.free + 1 := rfl
@[simp] theorem touchDesc_launches (s t : State) : (touchDesc s t).launches = t.launches := rfl
@[simp] theorem touchDesc_time (s t : State) : (touchDesc s t).time = s.time := rfl
@[simp] theorem touchDesc_regs (s t : State) : (touchDesc s t).regs = t.regs := rfl
@[simp] theorem touchDesc_wide (s t : State) : (touchDesc s t).wide = t.wide := rfl
@[simp] theorem touchDesc_mbx (s t : State) : (touchDesc s t).mbx = s.mbx := rfl
@[simp] theorem touchDesc_mem (s t : State) : (touchDesc s t).mem = t.mem := rfl
@[simp] theorem touchDesc_stk (s t : State) : (touchDesc s t).stk = t.stk := rfl
@[simp] theorem touchDesc_units (s t : State) : (touchDesc s t).units = t.units := rfl
@[simp] theorem touchDesc_vecs (s t : State) : (touchDesc s t).vecs = t.vecs := rfl
@[simp] theorem touchDesc_atts (s t : State) : (touchDesc s t).atts = t.atts := rfl
@[simp] theorem touchDesc_jobs (s t : State) : (touchDesc s t).jobs = t.jobs := rfl
@[simp] theorem touchDesc_parts (s t : State) : (touchDesc s t).parts = t.parts := rfl
@[simp] theorem touchDesc_net (s t : State) : (touchDesc s t).net = t.net := rfl
@[simp] theorem touchDesc_pcie (s t : State) : (touchDesc s t).pcie = t.pcie := rfl
@[simp] theorem touchDesc_fw (s t : State) : (touchDesc s t).fw = { s.fw with protDrops := t.fw.protDrops, sealedR := t.fw.sealedR } := rfl
@[simp] theorem touchDesc_thm (s t : State) : (touchDesc s t).thm = s.thm := rfl
@[simp] theorem touchDesc_pin (s t : State) : (touchDesc s t).pin = s.pin := rfl
@[simp] theorem touchDesc_fuse (s t : State) : (touchDesc s t).fuse = s.fuse := rfl
@[simp] theorem touchDesc_supp (s t : State) : (touchDesc s t).supp = t.supp := rfl
@[simp] theorem touchDesc_sramRemap (s t : State) : (touchDesc s t).sramRemap = s.sramRemap := rfl
@[simp] theorem touchDesc_sramFixed (s t : State) : (touchDesc s t).sramFixed = s.sramFixed := rfl
@[simp] theorem touchDesc_fatal (s t : State) : (touchDesc s t).fatal = s.fatal := rfl

@[simp] theorem touchServ_pending (s t : State) : (touchServ s t).pending = s.pending := rfl
@[simp] theorem touchServ_free (s t : State) : (touchServ s t).free = s.free + 1 := rfl
@[simp] theorem touchServ_launches (s t : State) : (touchServ s t).launches = t.launches := rfl
@[simp] theorem touchServ_time (s t : State) : (touchServ s t).time = s.time := rfl
@[simp] theorem touchServ_regs (s t : State) : (touchServ s t).regs = t.regs := rfl
@[simp] theorem touchServ_wide (s t : State) : (touchServ s t).wide = t.wide := rfl
@[simp] theorem touchServ_mbx (s t : State) : (touchServ s t).mbx = s.mbx := rfl
@[simp] theorem touchServ_mem (s t : State) : (touchServ s t).mem = t.mem := rfl
@[simp] theorem touchServ_stk (s t : State) : (touchServ s t).stk = t.stk := rfl
@[simp] theorem touchServ_units (s t : State) : (touchServ s t).units = t.units := rfl
@[simp] theorem touchServ_vecs (s t : State) : (touchServ s t).vecs = t.vecs := rfl
@[simp] theorem touchServ_atts (s t : State) : (touchServ s t).atts = t.atts := rfl
@[simp] theorem touchServ_jobs (s t : State) : (touchServ s t).jobs = t.jobs := rfl
@[simp] theorem touchServ_parts (s t : State) : (touchServ s t).parts = t.parts := rfl
@[simp] theorem touchServ_net (s t : State) : (touchServ s t).net = t.net := rfl
@[simp] theorem touchServ_pcie (s t : State) : (touchServ s t).pcie = t.pcie := rfl
@[simp] theorem touchServ_fw (s t : State) : (touchServ s t).fw = { s.fw with protDrops := t.fw.protDrops, sealedR := t.fw.sealedR } := rfl
@[simp] theorem touchServ_thm (s t : State) : (touchServ s t).thm = s.thm := rfl
@[simp] theorem touchServ_pin (s t : State) : (touchServ s t).pin = s.pin := rfl
@[simp] theorem touchServ_fuse (s t : State) : (touchServ s t).fuse = s.fuse := rfl
@[simp] theorem touchServ_supp (s t : State) : (touchServ s t).supp = t.supp := rfl
@[simp] theorem touchServ_sramRemap (s t : State) : (touchServ s t).sramRemap = s.sramRemap := rfl
@[simp] theorem touchServ_sramFixed (s t : State) : (touchServ s t).sramFixed = s.sramFixed := rfl
@[simp] theorem touchServ_fatal (s t : State) : (touchServ s t).fatal = s.fatal := rfl

@[simp] theorem touchLoad_pending (s t : State) : (touchLoad s t).pending = s.pending := rfl
@[simp] theorem touchLoad_free (s t : State) : (touchLoad s t).free = s.free + 1 := rfl
@[simp] theorem touchLoad_launches (s t : State) : (touchLoad s t).launches = t.launches := rfl
@[simp] theorem touchLoad_time (s t : State) : (touchLoad s t).time = s.time := rfl
@[simp] theorem touchLoad_regs (s t : State) : (touchLoad s t).regs = t.regs := rfl
@[simp] theorem touchLoad_wide (s t : State) : (touchLoad s t).wide = t.wide := rfl
@[simp] theorem touchLoad_mbx (s t : State) : (touchLoad s t).mbx = s.mbx := rfl
@[simp] theorem touchLoad_mem (s t : State) : (touchLoad s t).mem = t.mem := rfl
@[simp] theorem touchLoad_stk (s t : State) : (touchLoad s t).stk = t.stk := rfl
@[simp] theorem touchLoad_units (s t : State) : (touchLoad s t).units = t.units := rfl
@[simp] theorem touchLoad_vecs (s t : State) : (touchLoad s t).vecs = t.vecs := rfl
@[simp] theorem touchLoad_atts (s t : State) : (touchLoad s t).atts = t.atts := rfl
@[simp] theorem touchLoad_jobs (s t : State) : (touchLoad s t).jobs = t.jobs := rfl
@[simp] theorem touchLoad_parts (s t : State) : (touchLoad s t).parts = t.parts := rfl
@[simp] theorem touchLoad_net (s t : State) : (touchLoad s t).net = t.net := rfl
@[simp] theorem touchLoad_pcie (s t : State) : (touchLoad s t).pcie = t.pcie := rfl
@[simp] theorem touchLoad_fw (s t : State) : (touchLoad s t).fw = { s.fw with protDrops := t.fw.protDrops, sealedR := t.fw.sealedR, loadq := t.fw.loadq } := rfl
@[simp] theorem touchLoad_thm (s t : State) : (touchLoad s t).thm = s.thm := rfl
@[simp] theorem touchLoad_pin (s t : State) : (touchLoad s t).pin = s.pin := rfl
@[simp] theorem touchLoad_fuse (s t : State) : (touchLoad s t).fuse = s.fuse := rfl
@[simp] theorem touchLoad_supp (s t : State) : (touchLoad s t).supp = t.supp := rfl
@[simp] theorem touchLoad_sramRemap (s t : State) : (touchLoad s t).sramRemap = s.sramRemap := rfl
@[simp] theorem touchLoad_sramFixed (s t : State) : (touchLoad s t).sramFixed = s.sramFixed := rfl
@[simp] theorem touchLoad_fatal (s t : State) : (touchLoad s t).fatal = s.fatal := rfl

@[simp] theorem touchFw_pending (s t : State) : (touchFw s t).pending = s.pending := rfl
@[simp] theorem touchFw_free (s t : State) : (touchFw s t).free = s.free + 1 := rfl
@[simp] theorem touchFw_launches (s t : State) : (touchFw s t).launches = t.launches := rfl
@[simp] theorem touchFw_time (s t : State) : (touchFw s t).time = s.time := rfl
@[simp] theorem touchFw_regs (s t : State) : (touchFw s t).regs = t.regs := rfl
@[simp] theorem touchFw_wide (s t : State) : (touchFw s t).wide = t.wide := rfl
@[simp] theorem touchFw_mbx (s t : State) : (touchFw s t).mbx = s.mbx := rfl
@[simp] theorem touchFw_mem (s t : State) : (touchFw s t).mem = t.mem := rfl
@[simp] theorem touchFw_stk (s t : State) : (touchFw s t).stk = t.stk := rfl
@[simp] theorem touchFw_units (s t : State) : (touchFw s t).units = t.units := rfl
@[simp] theorem touchFw_vecs (s t : State) : (touchFw s t).vecs = t.vecs := rfl
@[simp] theorem touchFw_atts (s t : State) : (touchFw s t).atts = t.atts := rfl
@[simp] theorem touchFw_jobs (s t : State) : (touchFw s t).jobs = t.jobs := rfl
@[simp] theorem touchFw_parts (s t : State) : (touchFw s t).parts = t.parts := rfl
@[simp] theorem touchFw_net (s t : State) : (touchFw s t).net = t.net := rfl
@[simp] theorem touchFw_pcie (s t : State) : (touchFw s t).pcie = t.pcie := rfl
@[simp] theorem touchFw_fw (s t : State) : (touchFw s t).fw = t.fw := rfl
@[simp] theorem touchFw_thm (s t : State) : (touchFw s t).thm = s.thm := rfl
@[simp] theorem touchFw_pin (s t : State) : (touchFw s t).pin = s.pin := rfl
@[simp] theorem touchFw_fuse (s t : State) : (touchFw s t).fuse = s.fuse := rfl
@[simp] theorem touchFw_supp (s t : State) : (touchFw s t).supp = t.supp := rfl
@[simp] theorem touchFw_sramRemap (s t : State) : (touchFw s t).sramRemap = s.sramRemap := rfl
@[simp] theorem touchFw_sramFixed (s t : State) : (touchFw s t).sramFixed = s.sramFixed := rfl
@[simp] theorem touchFw_fatal (s t : State) : (touchFw s t).fatal = s.fatal := rfl

@[simp] theorem touchStk_pending (s t : State) : (touchStk s t).pending = s.pending := rfl
@[simp] theorem touchStk_free (s t : State) : (touchStk s t).free = s.free + 1 := rfl
@[simp] theorem touchStk_launches (s t : State) : (touchStk s t).launches = t.launches := rfl
@[simp] theorem touchStk_time (s t : State) : (touchStk s t).time = s.time := rfl
@[simp] theorem touchStk_regs (s t : State) : (touchStk s t).regs = t.regs := rfl
@[simp] theorem touchStk_wide (s t : State) : (touchStk s t).wide = t.wide := rfl
@[simp] theorem touchStk_mbx (s t : State) : (touchStk s t).mbx = s.mbx := rfl
@[simp] theorem touchStk_mem (s t : State) : (touchStk s t).mem = t.mem := rfl
@[simp] theorem touchStk_stk (s t : State) : (touchStk s t).stk = t.stk := rfl
@[simp] theorem touchStk_units (s t : State) : (touchStk s t).units = t.units := rfl
@[simp] theorem touchStk_vecs (s t : State) : (touchStk s t).vecs = t.vecs := rfl
@[simp] theorem touchStk_atts (s t : State) : (touchStk s t).atts = t.atts := rfl
@[simp] theorem touchStk_jobs (s t : State) : (touchStk s t).jobs = t.jobs := rfl
@[simp] theorem touchStk_parts (s t : State) : (touchStk s t).parts = t.parts := rfl
@[simp] theorem touchStk_net (s t : State) : (touchStk s t).net = t.net := rfl
@[simp] theorem touchStk_pcie (s t : State) : (touchStk s t).pcie = t.pcie := rfl
@[simp] theorem touchStk_fw (s t : State) : (touchStk s t).fw = t.fw := rfl
@[simp] theorem touchStk_thm (s t : State) : (touchStk s t).thm = s.thm := rfl
@[simp] theorem touchStk_pin (s t : State) : (touchStk s t).pin = s.pin := rfl
@[simp] theorem touchStk_fuse (s t : State) : (touchStk s t).fuse = s.fuse := rfl
@[simp] theorem touchStk_supp (s t : State) : (touchStk s t).supp = t.supp := rfl
@[simp] theorem touchStk_sramRemap (s t : State) : (touchStk s t).sramRemap = s.sramRemap := rfl
@[simp] theorem touchStk_sramFixed (s t : State) : (touchStk s t).sramFixed = s.sramFixed := rfl
@[simp] theorem touchStk_fatal (s t : State) : (touchStk s t).fatal = s.fatal := rfl

@[simp] theorem touchRes_pending (s t : State) : (touchRes s t).pending = s.pending := rfl
@[simp] theorem touchRes_free (s t : State) : (touchRes s t).free = s.free + 1 := rfl
@[simp] theorem touchRes_launches (s t : State) : (touchRes s t).launches = t.launches := rfl
@[simp] theorem touchRes_time (s t : State) : (touchRes s t).time = s.time := rfl
@[simp] theorem touchRes_regs (s t : State) : (touchRes s t).regs = t.regs := rfl
@[simp] theorem touchRes_wide (s t : State) : (touchRes s t).wide = t.wide := rfl
@[simp] theorem touchRes_mbx (s t : State) : (touchRes s t).mbx = s.mbx := rfl
@[simp] theorem touchRes_mem (s t : State) : (touchRes s t).mem = t.mem := rfl
@[simp] theorem touchRes_stk (s t : State) : (touchRes s t).stk = t.stk := rfl
@[simp] theorem touchRes_units (s t : State) : (touchRes s t).units = t.units := rfl
@[simp] theorem touchRes_vecs (s t : State) : (touchRes s t).vecs = t.vecs := rfl
@[simp] theorem touchRes_atts (s t : State) : (touchRes s t).atts = t.atts := rfl
@[simp] theorem touchRes_jobs (s t : State) : (touchRes s t).jobs = t.jobs := rfl
@[simp] theorem touchRes_parts (s t : State) : (touchRes s t).parts = t.parts := rfl
@[simp] theorem touchRes_net (s t : State) : (touchRes s t).net = t.net := rfl
@[simp] theorem touchRes_pcie (s t : State) : (touchRes s t).pcie = t.pcie := rfl
@[simp] theorem touchRes_fw (s t : State) : (touchRes s t).fw = t.fw := rfl
@[simp] theorem touchRes_thm (s t : State) : (touchRes s t).thm = s.thm := rfl
@[simp] theorem touchRes_pin (s t : State) : (touchRes s t).pin = s.pin := rfl
@[simp] theorem touchRes_fuse (s t : State) : (touchRes s t).fuse = s.fuse := rfl
@[simp] theorem touchRes_supp (s t : State) : (touchRes s t).supp = t.supp := rfl
@[simp] theorem touchRes_sramRemap (s t : State) : (touchRes s t).sramRemap = t.sramRemap := rfl
@[simp] theorem touchRes_sramFixed (s t : State) : (touchRes s t).sramFixed = t.sramFixed := rfl
@[simp] theorem touchRes_fatal (s t : State) : (touchRes s t).fatal = t.fatal := rfl

@[simp] theorem touchMbx_pending (s t : State) : (touchMbx s t).pending = s.pending := rfl
@[simp] theorem touchMbx_free (s t : State) : (touchMbx s t).free = s.free + 1 := rfl
@[simp] theorem touchMbx_launches (s t : State) : (touchMbx s t).launches = t.launches := rfl
@[simp] theorem touchMbx_time (s t : State) : (touchMbx s t).time = s.time := rfl
@[simp] theorem touchMbx_regs (s t : State) : (touchMbx s t).regs = t.regs := rfl
@[simp] theorem touchMbx_wide (s t : State) : (touchMbx s t).wide = t.wide := rfl
@[simp] theorem touchMbx_mbx (s t : State) : (touchMbx s t).mbx = t.mbx := rfl
@[simp] theorem touchMbx_mem (s t : State) : (touchMbx s t).mem = t.mem := rfl
@[simp] theorem touchMbx_stk (s t : State) : (touchMbx s t).stk = t.stk := rfl
@[simp] theorem touchMbx_units (s t : State) : (touchMbx s t).units = t.units := rfl
@[simp] theorem touchMbx_vecs (s t : State) : (touchMbx s t).vecs = t.vecs := rfl
@[simp] theorem touchMbx_atts (s t : State) : (touchMbx s t).atts = t.atts := rfl
@[simp] theorem touchMbx_jobs (s t : State) : (touchMbx s t).jobs = t.jobs := rfl
@[simp] theorem touchMbx_parts (s t : State) : (touchMbx s t).parts = t.parts := rfl
@[simp] theorem touchMbx_net (s t : State) : (touchMbx s t).net = t.net := rfl
@[simp] theorem touchMbx_pcie (s t : State) : (touchMbx s t).pcie = t.pcie := rfl
@[simp] theorem touchMbx_fw (s t : State) : (touchMbx s t).fw = { s.fw with protDrops := t.fw.protDrops, sealedR := t.fw.sealedR } := rfl
@[simp] theorem touchMbx_thm (s t : State) : (touchMbx s t).thm = s.thm := rfl
@[simp] theorem touchMbx_pin (s t : State) : (touchMbx s t).pin = s.pin := rfl
@[simp] theorem touchMbx_fuse (s t : State) : (touchMbx s t).fuse = s.fuse := rfl
@[simp] theorem touchMbx_supp (s t : State) : (touchMbx s t).supp = t.supp := rfl
@[simp] theorem touchMbx_sramRemap (s t : State) : (touchMbx s t).sramRemap = s.sramRemap := rfl
@[simp] theorem touchMbx_sramFixed (s t : State) : (touchMbx s t).sramFixed = s.sramFixed := rfl
@[simp] theorem touchMbx_fatal (s t : State) : (touchMbx s t).fatal = s.fatal := rfl

@[simp] theorem touchTime_pending (s t : State) : (touchTime s t).pending = s.pending := rfl
@[simp] theorem touchTime_free (s t : State) : (touchTime s t).free = s.free + 1 := rfl
@[simp] theorem touchTime_launches (s t : State) : (touchTime s t).launches = t.launches := rfl
@[simp] theorem touchTime_time (s t : State) : (touchTime s t).time = { t.time with mono := s.time.mono } := rfl
@[simp] theorem touchTime_regs (s t : State) : (touchTime s t).regs = t.regs := rfl
@[simp] theorem touchTime_wide (s t : State) : (touchTime s t).wide = t.wide := rfl
@[simp] theorem touchTime_mbx (s t : State) : (touchTime s t).mbx = s.mbx := rfl
@[simp] theorem touchTime_mem (s t : State) : (touchTime s t).mem = t.mem := rfl
@[simp] theorem touchTime_stk (s t : State) : (touchTime s t).stk = t.stk := rfl
@[simp] theorem touchTime_units (s t : State) : (touchTime s t).units = t.units := rfl
@[simp] theorem touchTime_vecs (s t : State) : (touchTime s t).vecs = t.vecs := rfl
@[simp] theorem touchTime_atts (s t : State) : (touchTime s t).atts = t.atts := rfl
@[simp] theorem touchTime_jobs (s t : State) : (touchTime s t).jobs = t.jobs := rfl
@[simp] theorem touchTime_parts (s t : State) : (touchTime s t).parts = t.parts := rfl
@[simp] theorem touchTime_net (s t : State) : (touchTime s t).net = t.net := rfl
@[simp] theorem touchTime_pcie (s t : State) : (touchTime s t).pcie = t.pcie := rfl
@[simp] theorem touchTime_fw (s t : State) : (touchTime s t).fw = { s.fw with protDrops := t.fw.protDrops, sealedR := t.fw.sealedR } := rfl
@[simp] theorem touchTime_thm (s t : State) : (touchTime s t).thm = s.thm := rfl
@[simp] theorem touchTime_pin (s t : State) : (touchTime s t).pin = { t.pin with thermtrip := s.pin.thermtrip, pwrgood := s.pin.pwrgood } := rfl
@[simp] theorem touchTime_fuse (s t : State) : (touchTime s t).fuse = s.fuse := rfl
@[simp] theorem touchTime_supp (s t : State) : (touchTime s t).supp = t.supp := rfl
@[simp] theorem touchTime_sramRemap (s t : State) : (touchTime s t).sramRemap = s.sramRemap := rfl
@[simp] theorem touchTime_sramFixed (s t : State) : (touchTime s t).sramFixed = s.sramFixed := rfl
@[simp] theorem touchTime_fatal (s t : State) : (touchTime s t).fatal = s.fatal := rfl

@[simp] theorem touchThm_pending (s t : State) : (touchThm s t).pending = s.pending := rfl
@[simp] theorem touchThm_free (s t : State) : (touchThm s t).free = s.free + 1 := rfl
@[simp] theorem touchThm_launches (s t : State) : (touchThm s t).launches = t.launches := rfl
@[simp] theorem touchThm_time (s t : State) : (touchThm s t).time = s.time := rfl
@[simp] theorem touchThm_regs (s t : State) : (touchThm s t).regs = t.regs := rfl
@[simp] theorem touchThm_wide (s t : State) : (touchThm s t).wide = t.wide := rfl
@[simp] theorem touchThm_mbx (s t : State) : (touchThm s t).mbx = s.mbx := rfl
@[simp] theorem touchThm_mem (s t : State) : (touchThm s t).mem = t.mem := rfl
@[simp] theorem touchThm_stk (s t : State) : (touchThm s t).stk = t.stk := rfl
@[simp] theorem touchThm_units (s t : State) : (touchThm s t).units = t.units := rfl
@[simp] theorem touchThm_vecs (s t : State) : (touchThm s t).vecs = t.vecs := rfl
@[simp] theorem touchThm_atts (s t : State) : (touchThm s t).atts = t.atts := rfl
@[simp] theorem touchThm_jobs (s t : State) : (touchThm s t).jobs = t.jobs := rfl
@[simp] theorem touchThm_parts (s t : State) : (touchThm s t).parts = t.parts := rfl
@[simp] theorem touchThm_net (s t : State) : (touchThm s t).net = t.net := rfl
@[simp] theorem touchThm_pcie (s t : State) : (touchThm s t).pcie = t.pcie := rfl
@[simp] theorem touchThm_fw (s t : State) : (touchThm s t).fw = { s.fw with protDrops := t.fw.protDrops, sealedR := t.fw.sealedR } := rfl
@[simp] theorem touchThm_thm (s t : State) : (touchThm s t).thm = t.thm := rfl
@[simp] theorem touchThm_pin (s t : State) : (touchThm s t).pin = { t.pin with thermtrip := s.pin.thermtrip, pwrgood := s.pin.pwrgood } := rfl
@[simp] theorem touchThm_fuse (s t : State) : (touchThm s t).fuse = s.fuse := rfl
@[simp] theorem touchThm_supp (s t : State) : (touchThm s t).supp = t.supp := rfl
@[simp] theorem touchThm_sramRemap (s t : State) : (touchThm s t).sramRemap = s.sramRemap := rfl
@[simp] theorem touchThm_sramFixed (s t : State) : (touchThm s t).sramFixed = s.sramFixed := rfl
@[simp] theorem touchThm_fatal (s t : State) : (touchThm s t).fatal = s.fatal := rfl

@[simp] theorem resetTo_pending (s t : State) : (resetTo s t).pending = s.pending := rfl
@[simp] theorem resetTo_free (s t : State) : (resetTo s t).free = s.free + 1 := rfl
@[simp] theorem resetTo_launches (s t : State) : (resetTo s t).launches = t.launches := rfl
@[simp] theorem resetTo_time (s t : State) : (resetTo s t).time = t.time := rfl
@[simp] theorem resetTo_regs (s t : State) : (resetTo s t).regs = t.regs := rfl
@[simp] theorem resetTo_wide (s t : State) : (resetTo s t).wide = t.wide := rfl
@[simp] theorem resetTo_mbx (s t : State) : (resetTo s t).mbx = t.mbx := rfl
@[simp] theorem resetTo_mem (s t : State) : (resetTo s t).mem = t.mem := rfl
@[simp] theorem resetTo_stk (s t : State) : (resetTo s t).stk = t.stk := rfl
@[simp] theorem resetTo_units (s t : State) : (resetTo s t).units = t.units := rfl
@[simp] theorem resetTo_vecs (s t : State) : (resetTo s t).vecs = t.vecs := rfl
@[simp] theorem resetTo_atts (s t : State) : (resetTo s t).atts = t.atts := rfl
@[simp] theorem resetTo_jobs (s t : State) : (resetTo s t).jobs = t.jobs := rfl
@[simp] theorem resetTo_parts (s t : State) : (resetTo s t).parts = t.parts := rfl
@[simp] theorem resetTo_net (s t : State) : (resetTo s t).net = t.net := rfl
@[simp] theorem resetTo_pcie (s t : State) : (resetTo s t).pcie = { t.pcie with perstLow := s.pcie.perstLow } := rfl
@[simp] theorem resetTo_fw (s t : State) : (resetTo s t).fw = t.fw := rfl
@[simp] theorem resetTo_thm (s t : State) : (resetTo s t).thm = t.thm := rfl
@[simp] theorem resetTo_pin (s t : State) : (resetTo s t).pin = t.pin := rfl
@[simp] theorem resetTo_fuse (s t : State) : (resetTo s t).fuse = s.fuse := rfl
@[simp] theorem resetTo_supp (s t : State) : (resetTo s t).supp = t.supp := rfl
@[simp] theorem resetTo_sramRemap (s t : State) : (resetTo s t).sramRemap = t.sramRemap := rfl
@[simp] theorem resetTo_sramFixed (s t : State) : (resetTo s t).sramFixed = t.sramFixed := rfl
@[simp] theorem resetTo_fatal (s t : State) : (resetTo s t).fatal = t.fatal := rfl

@[simp] theorem warmTo_pending (s t : State) : (warmTo s t).pending = s.pending := rfl
@[simp] theorem warmTo_free (s t : State) : (warmTo s t).free = s.free + 1 := rfl
@[simp] theorem warmTo_launches (s t : State) : (warmTo s t).launches = t.launches := rfl
@[simp] theorem warmTo_time (s t : State) : (warmTo s t).time = { t.time with mono := s.time.mono } := rfl
@[simp] theorem warmTo_regs (s t : State) : (warmTo s t).regs = t.regs := rfl
@[simp] theorem warmTo_wide (s t : State) : (warmTo s t).wide = t.wide := rfl
@[simp] theorem warmTo_mbx (s t : State) : (warmTo s t).mbx = t.mbx := rfl
@[simp] theorem warmTo_mem (s t : State) : (warmTo s t).mem = t.mem := rfl
@[simp] theorem warmTo_stk (s t : State) : (warmTo s t).stk = t.stk := rfl
@[simp] theorem warmTo_units (s t : State) : (warmTo s t).units = t.units := rfl
@[simp] theorem warmTo_vecs (s t : State) : (warmTo s t).vecs = t.vecs := rfl
@[simp] theorem warmTo_atts (s t : State) : (warmTo s t).atts = t.atts := rfl
@[simp] theorem warmTo_jobs (s t : State) : (warmTo s t).jobs = t.jobs := rfl
@[simp] theorem warmTo_parts (s t : State) : (warmTo s t).parts = t.parts := rfl
@[simp] theorem warmTo_net (s t : State) : (warmTo s t).net = t.net := rfl
@[simp] theorem warmTo_pcie (s t : State) : (warmTo s t).pcie = { t.pcie with perstLow := s.pcie.perstLow } := rfl
@[simp] theorem warmTo_fw (s t : State) : (warmTo s t).fw = t.fw := rfl
@[simp] theorem warmTo_thm (s t : State) : (warmTo s t).thm = t.thm := rfl
@[simp] theorem warmTo_pin (s t : State) : (warmTo s t).pin = { t.pin with thermtrip := s.pin.thermtrip } := rfl
@[simp] theorem warmTo_fuse (s t : State) : (warmTo s t).fuse = s.fuse := rfl
@[simp] theorem warmTo_supp (s t : State) : (warmTo s t).supp = t.supp := rfl
@[simp] theorem warmTo_sramRemap (s t : State) : (warmTo s t).sramRemap = t.sramRemap := rfl
@[simp] theorem warmTo_sramFixed (s t : State) : (warmTo s t).sramFixed = t.sramFixed := rfl
@[simp] theorem warmTo_fatal (s t : State) : (warmTo s t).fatal = t.fatal := rfl

end Sys2Proof.Machine
end

