-- ==== Sys2Proof/Laws/Memory.lean ====
section
/-! SUPPORT. Laws of the byte memories: a read after a write, and that every memory operation keeps the canonical form. -/

namespace Sys2Proof.Machine

/-! Reads after writes. -/

theorem getB_nil (k : Nat) : getB [] k = unlisted := rfl

theorem getB_cons (a k : Nat) (v : Byte) (m : List Host.Cell) : getB ((a, v) :: m) k = if a = k then v else getB m k := by
  unfold getB getT
  by_cases h : a = k
  · simp [h]
  · have : (a == k) = false := by simp [h]
    simp [List.find?, this, h]

theorem getB_insB_other (m : List Host.Cell) (a k : Nat) (v : Byte) (h : k ≠ a) : getB (insB m a v) k = getB m k := by
  induction m with
  | nil => simp [insB, getB_cons, getB_nil, Ne.symm h]
  | cons c t ih =>
    obtain ⟨b, x⟩ := c
    unfold insB
    split
    · simp only [getB_cons, ih]
    · split
      · rename_i e; simp [getB_cons, e, Ne.symm h]
      · simp [getB_cons, Ne.symm h]

theorem getB_delB_other (m : List Host.Cell) (a k : Nat) (h : k ≠ a) : getB (delB m a) k = getB m k := by
  induction m with
  | nil => rfl
  | cons c t ih =>
    obtain ⟨b, x⟩ := c
    unfold delB
    split
    · simp only [getB_cons, ih]
    · split
      · rename_i e; simp [getB_cons, e, Ne.symm h]
      · rfl

/-- A byte write leaves every other byte as it was. -/
theorem getB_putB_other (m : List Host.Cell) (a k : Nat) (v : Byte) (h : k ≠ a) : getB (putB m a v) k = getB m k := by
  unfold putB; split
  · exact getB_delB_other m a k h
  · exact getB_insB_other m a k v h

theorem getB_insB_same (m : List Host.Cell) (a : Nat) (v : Byte) : getB (insB m a v) a = v := by
  induction m with
  | nil => simp [insB, getB_cons]
  | cons c t ih =>
    obtain ⟨b, x⟩ := c
    unfold insB
    split
    · rename_i e; rw [getB_cons, ih]; simp [Nat.ne_of_lt e]
    · split <;> simp [getB_cons]

/-- A write of a run leaves every byte outside it as it was. -/
theorem getB_putBs_other (bs : List Byte) : ∀ (m : List Host.Cell) (a k : Nat), (k < a ∨ a + bs.length ≤ k) → getB (putBs m a bs) k = getB m k := by
  induction bs with
  | nil => intros; rfl
  | cons b t ih =>
    intro m a k h
    simp only [List.length_cons] at h
    rw [putBs, ih _ _ _ (by omega), getB_putB_other _ _ _ _ (by omega)]

/-! Canonical form. -/

theorem cellsFrom_weaken (m : List Host.Cell) (l k : Nat) (h : k ≤ l) (w : cellsFrom (some l) m = true) : cellsFrom (some k) m = true := by
  cases m with
  | nil => rfl
  | cons c t =>
    obtain ⟨a, v⟩ := c
    simp only [cellsFrom, Bool.and_eq_true, decide_eq_true_eq] at w ⊢
    exact ⟨⟨by omega, w.1.2⟩, w.2⟩

theorem cellsFrom_none (m : List Host.Cell) (l : Nat) (w : cellsFrom (some l) m = true) : cellsFrom none m = true := by
  cases m with
  | nil => rfl
  | cons c t =>
    obtain ⟨a, v⟩ := c
    simp only [cellsFrom, Bool.and_eq_true, decide_eq_true_eq] at w ⊢
    exact ⟨⟨trivial, w.1.2⟩, w.2⟩

theorem cellsFrom_insB (a : Nat) (v : Byte) (hv : v ≠ unlisted) : ∀ (m : List Host.Cell) (o : Option Nat),
    (∀ l, o = some l → l < a) → cellsFrom o m = true → cellsFrom o (insB m a v) = true := by
  intro m
  induction m with
  | nil =>
    intro o ho _
    cases o with
    | none => simp [insB, cellsFrom, hv]
    | some l => simp [insB, cellsFrom, hv, ho l rfl]
  | cons c t ih =>
    obtain ⟨b, x⟩ := c
    intro o ho w
    simp only [cellsFrom, Bool.and_eq_true] at w
    unfold insB
    split
    · rename_i e
      simp only [cellsFrom, Bool.and_eq_true]
      exact ⟨w.1, ih (some b) (by intro l hl; cases hl; exact e) w.2⟩
    · split
      · rename_i e; subst e
        simp only [cellsFrom, Bool.and_eq_true, decide_eq_true_eq]
        exact ⟨⟨w.1.1, hv⟩, w.2⟩
      · rename_i e1 e2
        simp only [cellsFrom, Bool.and_eq_true, decide_eq_true_eq]
        refine ⟨⟨?_, hv⟩, ⟨by omega, by simpa using w.1.2⟩, w.2⟩
        cases o with
        | none => trivial
        | some l => simp [ho l rfl]

theorem cellsFrom_delB (a : Nat) : ∀ (m : List Host.Cell) (o : Option Nat), cellsFrom o m = true → cellsFrom o (delB m a) = true := by
  intro m
  induction m with
  | nil => intro o w; exact w
  | cons c t ih =>
    obtain ⟨b, x⟩ := c
    intro o w
    unfold delB
    have w' := w
    simp only [cellsFrom, Bool.and_eq_true] at w'
    split
    · simp only [cellsFrom, Bool.and_eq_true]
      exact ⟨w'.1, ih _ w'.2⟩
    · split
      · cases o with
        | none => exact cellsFrom_none t b w'.2
        | some l => exact cellsFrom_weaken t b l (Nat.le_of_lt (by simpa using w'.1.1)) w'.2
      · exact w

/-- A byte write keeps the canonical form. -/
theorem cellsWf_putB (m : List Host.Cell) (a : Nat) (v : Byte) (w : cellsWf m = true) : cellsWf (putB m a v) = true := by
  unfold putB; split
  · exact cellsFrom_delB a m none w
  · rename_i h; exact cellsFrom_insB a v h m none (by intro l hl; cases hl) w

/-- A write of a run keeps the canonical form. -/
theorem cellsWf_putBs (bs : List Byte) : ∀ (m : List Host.Cell) (a : Nat), cellsWf m = true → cellsWf (putBs m a bs) = true := by
  induction bs with
  | nil => intro m a w; exact w
  | cons b t ih => intro m a w; exact ih _ _ (cellsWf_putB m a b w)

theorem cellsFrom_filter (p : Host.Cell → Bool) : ∀ (m : List Host.Cell) (o : Option Nat), cellsFrom o m = true → cellsFrom o (m.filter p) = true := by
  intro m
  induction m with
  | nil => intro o w; exact w
  | cons c t ih =>
    obtain ⟨b, x⟩ := c
    intro o w
    have w' := w
    simp only [cellsFrom, Bool.and_eq_true] at w'
    rw [List.filter_cons]
    split
    · simp only [cellsFrom, Bool.and_eq_true]
      exact ⟨w'.1, ih _ w'.2⟩
    · apply ih
      cases o with
      | none => exact cellsFrom_none t b w'.2
      | some l => exact cellsFrom_weaken t b l (Nat.le_of_lt (by simpa using w'.1.1)) w'.2

/-- Dropping bytes (a stack's contents lost, a range cleared) keeps the canonical form. -/
theorem cellsWf_filter (p : Host.Cell → Bool) (m : List Host.Cell) (w : cellsWf m = true) : cellsWf (m.filter p) = true :=
  cellsFrom_filter p m none w

theorem Memory.wf_iff (m : Mem) :
    Memory.wf m = true ↔ cellsWf m.dram = true ∧ cellsWf m.pbuf = true ∧ cellsWf m.scratch = true ∧ cellsWf m.host = true := by
  simp [Memory.wf, Mem.wf, and_assoc]

theorem Memory.wf_reset : Memory.wf State.reset.mem = true := rfl

theorem Memory.wf_putPbuf (s : State) (p o : Nat) (bs : List Byte) (w : Memory.wf s.mem = true) : Memory.wf (s.putPbuf p o bs).mem = true := by
  rw [Memory.wf_iff] at *; exact ⟨w.1, cellsWf_putBs _ _ _ w.2.1, w.2.2⟩

theorem Memory.wf_putScratch (s : State) (p o : Nat) (bs : List Byte) (w : Memory.wf s.mem = true) : Memory.wf (s.putScratch p o bs).mem = true := by
  rw [Memory.wf_iff] at *; exact ⟨w.1, w.2.1, cellsWf_putBs _ _ _ w.2.2.1, w.2.2.2⟩

/-! A read of what was written. -/

theorem getB_delB_same (m : List Host.Cell) (a : Nat) (h : cellsWf m = true) : getB (delB m a) a = unlisted := by
  have go : ∀ (m : List Host.Cell) (p : Option Nat), cellsFrom p m = true → (∀ l, p = some l → a ≤ l → getB m a = unlisted) ∧ getB (delB m a) a = unlisted := by
    intro m
    induction m with
    | nil => exact fun _ _ => ⟨fun _ _ _ => rfl, rfl⟩
    | cons c t ih =>
      obtain ⟨b, x⟩ := c
      intro p w
      have w2 : cellsFrom (some b) t = true ∧ ∀ l, p = some l → l < b := by
        cases p <;> simp_all [cellsFrom]
      obtain ⟨i1, i2⟩ := ih _ w2.1
      refine ⟨fun l hl ha => ?_, ?_⟩
      · have := w2.2 l hl
        rw [getB_cons, if_neg (by omega)]
        exact i1 b rfl (by omega)
      · unfold delB
        split
        · rw [getB_cons, if_neg (by omega), i2]
        · split
          · rename_i e
            exact i1 b rfl (by omega)
          · rw [getB_cons, if_neg (by omega)]
            exact i1 b rfl (by omega)
  exact (go m none h).2

/-- In a memory in canonical form a byte that was written reads back. -/
theorem getB_putB_same (m : List Host.Cell) (a : Nat) (v : Byte) (h : cellsWf m = true) : getB (putB m a v) a = v := by
  unfold putB
  split
  · rename_i e
    rw [getB_delB_same m a h, e]
  · exact getB_insB_same m a v

/-- A run that was written reads back, byte by byte. -/
theorem getB_putBs_same (bs : List Byte) : ∀ (m : List Host.Cell) (a i : Nat), cellsWf m = true → i < bs.length →
    getB (putBs m a bs) (a + i) = bs.getD i 0#8 := by
  induction bs with
  | nil => exact fun _ _ _ _ h => absurd h (by simp)
  | cons b t ih =>
    intro m a i w h
    rw [putBs]
    cases i with
    | zero => rw [getB_putBs_other _ _ _ _ (by omega), Nat.add_zero, getB_putB_same _ _ _ w]; rfl
    | succ i =>
      rw [show a + (i + 1) = a + 1 + i by omega, ih _ _ _ (cellsWf_putB _ _ _ w) (by simpa using h)]
      rfl

end Sys2Proof.Machine
end

