-- ==== Sys2Proof/Laws/Reach.lean ====
section
/-! SUPPORT. What the shared operations can change: for each one lemma that says which frame of `Reach` it keeps, and what no command but power and
resets changes. The commands' own frames follow by unfolding one meaning. -/

namespace Sys2Proof.Machine

/-! Frames of the reaches. -/

theorem descFrame_refl (s : State) : descFrame s s := ⟨rfl, rfl, rfl, rfl, rfl, rfl, rfl, rfl, rfl, rfl⟩
theorem aonFrame_refl (s : State) : aonFrame s s := ⟨rfl, rfl, rfl⟩
theorem descFrame_touchDesc (s t : State) : descFrame s (touchDesc s t) := ⟨rfl, rfl, rfl, rfl, rfl, rfl, rfl, rfl, rfl, rfl⟩
theorem descFrame_touchServ (s t : State) : descFrame s (touchServ s t) := descFrame_touchDesc s t

/-- A command that changes nothing keeps every frame. -/
theorem frame_refl (r : Reach) (s : State) : r.frame s s := by
  cases r <;> first
    | exact descFrame_refl s
    | exact ⟨descFrame_refl s, aonFrame_refl s⟩
    | exact ⟨rfl, aonFrame_refl s⟩
    | exact ⟨rfl, fun _ _ => rfl⟩
    | exact ⟨descFrame_refl s, rfl, rfl, rfl, rfl, rfl, rfl, rfl⟩
    | rfl

theorem frame_touchLoad (s t : State) : Reach.load.frame s (touchLoad s t) := descFrame_touchDesc s t
theorem frame_load_touchDesc (s t : State) : Reach.load.frame s (touchDesc s t) := descFrame_touchDesc s t
theorem frame_touchRes (s t : State) : Reach.unit.frame s (touchRes s t) := ⟨rfl, rfl, rfl, rfl, rfl, rfl, rfl, rfl, rfl, rfl⟩
theorem frame_touchMbx (s t : State) : Reach.mbx.frame s (touchMbx s t) := ⟨rfl, rfl, rfl, rfl, rfl, rfl, rfl, rfl, rfl, rfl⟩
theorem frame_flrDone (s : State) : Reach.mbx.frame s (flrDone s) := ⟨rfl, rfl, rfl, rfl, rfl, rfl, rfl, rfl, rfl, rfl⟩
theorem frame_touchFw (s t : State) : Reach.fw.frame s (touchFw s t) := ⟨rfl, rfl, rfl, rfl, rfl, rfl, rfl, rfl, rfl, rfl⟩
theorem frame_touchStk (s t : State) : Reach.fw.frame s (touchStk s t) := ⟨rfl, rfl, rfl, rfl, rfl, rfl, rfl, rfl, rfl, rfl⟩
theorem frame_fw_touchDesc (s t : State) : Reach.fw.frame s (touchDesc s t) := ⟨rfl, rfl, rfl, rfl, rfl, rfl, rfl, rfl, rfl, rfl⟩
theorem frame_fuse_touchFw (s t : State) : Reach.fuse.frame s (touchFw s t) := ⟨rfl, rfl, rfl, rfl, rfl, rfl, rfl, rfl, rfl, rfl⟩
theorem frame_fuse_set (s t : State) (f : Fuses) : Reach.fuse.frame s { touchFw s t with fuse := f } :=
  ⟨rfl, rfl, rfl, rfl, rfl, rfl, rfl, rfl, rfl, rfl⟩
theorem frame_touchTime (s t : State) : Reach.time.frame s (touchTime s t) := ⟨⟨rfl, rfl, rfl, rfl, rfl, rfl, rfl, rfl, rfl, rfl⟩, rfl, rfl, rfl⟩
theorem frame_touchThm (s t : State) : Reach.thm.frame s (touchThm s t) := ⟨⟨rfl, rfl, rfl, rfl, rfl, rfl, rfl, rfl, rfl, rfl⟩, rfl, rfl, rfl⟩

/-! Shared operations over descriptors, jobs and messages. -/

theorem descFrame_descStep (s : State) (d : DescRef) (op : Nat) (f : State → Cx → State) : descFrame s (descStep s d op f) := by
  unfold descStep; split <;> first | exact descFrame_refl s | exact descFrame_touchDesc s _

theorem descFrame_contStep (s : State) (d : DescRef) (op : Nat) (f : State → Job → StepRun → Cx → State) : descFrame s (contStep s d op f) := by
  unfold contStep; split <;> first | exact descFrame_refl s | exact descFrame_touchDesc s _

theorem descFrame_atomicStep (s : State) (d : DescRef) (op : Nat) : descFrame s (atomicStep s d op) := descFrame_descStep _ _ _ _

theorem descFrame_drainStep (s : State) (d : DescRef) : descFrame s (drainStep s d) := by
  unfold drainStep; split
  · exact descFrame_touchDesc s _
  · exact descFrame_contStep _ _ _ _

theorem descFrame_completeStep (s : State) (d : DescRef) : descFrame s (completeStep s d) := by
  unfold completeStep; split
  · exact descFrame_refl s
  · split <;> first | exact descFrame_refl s | exact descFrame_touchDesc s _

theorem descFrame_laneMem (s : State) (core : Nat) (o : LaneOp) (f : LEnv → M LRes) : descFrame s (laneMem s core o f) := by
  unfold laneMem; exact descFrame_touchDesc s _

theorem descFrame_ringStep (s : State) (lead kind : Nat) (f : State → Job → List Word → State) : descFrame s (ringStep s lead kind f) := by
  unfold ringStep
  repeat' (with_reducible first | exact descFrame_refl s | exact descFrame_touchServ s _ | split | dsimp only)

theorem descFrame_leadCmd (s : State) (c : RClass) (p : Nat) (f : State → Job → State) : descFrame s (leadCmd s c p f) := by
  unfold leadCmd
  repeat' (with_reducible first | exact descFrame_refl s | exact descFrame_touchServ s _ | split)

theorem descFrame_jobctl (s : State) (c : RClass) (p cmd : Nat) (f : State → State) : descFrame s (jobctl s c p cmd f) := by
  unfold jobctl
  repeat' (with_reducible first | exact descFrame_refl s | exact descFrame_touchServ s _ | split)

theorem descFrame_cmStep (s f : State) : descFrame s (cmStep s f) := by
  unfold cmStep; split <;> first | exact descFrame_refl s | exact descFrame_touchDesc s _

theorem descFrame_decMsg (s : State) (m : DecMsg) (n : Nat) : descFrame s (decMsg s m n) := by
  unfold decMsg; split <;> first | exact descFrame_refl s | exact descFrame_touchDesc s _

theorem frame_rprRun (s : State) (c : RClass) (stack code : Nat) (f : State → Nat → Nat × State) :
    Reach.fw.frame s (rprRun s c stack code f) := by
  unfold rprRun; split
  · exact frame_refl _ s
  · exact frame_touchStk s _

/-! Firmware requests. -/

@[simp] theorem done_fuse (s : State) (p : List Byte) : (done_ s p).fuse = none := rfl
@[simp] theorem stop_fuse (s : State) (st d : Nat) : (stop_ s st d).fuse = none := rfl

theorem frame_getD (s t : State) (f : Option Fuses) (h : f = none) : Reach.fw.frame s { touchFw s t with fuse := f.getD s.fuse } := by
  subst h; exact frame_touchFw s t

/-- A request that programs no fuse reaches firmware's own state and what descriptors reach. -/
theorem frame_fwReq (s : State) (h : FwHdr) (code auth : Nat) (f : State → Served) (hf : ∀ s, (f s).fuse = none) :
    Reach.fw.frame s (fwReq s h code auth f) := by
  unfold fwReq; split
  · exact frame_refl _ s
  · dsimp only; split
    · exact frame_refl _ s
    · split
      · exact frame_touchFw s _
      · exact frame_getD s _ _ (hf s)

/-- Any request reaches that and the fuses. -/
theorem frame_fuse_fwReq (s : State) (h : FwHdr) (code auth : Nat) (f : State → Served) : Reach.fuse.frame s (fwReq s h code auth f) := by
  unfold fwReq; split
  · exact frame_refl _ s
  · dsimp only; split
    · exact frame_refl _ s
    · split
      · exact frame_fuse_touchFw s _
      · exact frame_fuse_set s _ _

/-- A request's answer: what firmware does when it takes it. -/
theorem fwReq_of (s : State) (h : FwHdr) (code auth : Nat) (f : State → Served) (c : RClass) (hc : fwClass s h auth = some c) :
    fwReq s h code auth f = fwAnswer s h c code (f s) := by
  unfold fwClass at hc
  unfold fwReq fwAnswer
  split at hc
  · cases hc
  · rename_i c' hc'
    split at hc
    · cases hc
    · rename_i hn
      cases hc
      simp only [Bool.or_eq_true, not_or, Bool.not_eq_true] at hn
      simp only [hc', hn.1.1, hn.1.2, hn.2, Bool.or_self, Bool.false_eq_true, if_false]

/-! Tables. -/

theorem getT_putT_same {α : Type} (t : Tbl α) (a : Nat) (v : α) : getT (putT t a v) a = some v := by
  induction t with
  | nil => simp [getT, putT]
  | cons c t ih =>
    obtain ⟨b, x⟩ := c
    unfold getT at ih ⊢
    unfold putT
    split
    · rename_i h; simp only [List.find?, show (b == a) = false by simp [Nat.ne_of_lt h]]; exact ih
    · split <;> simp [List.find?]

theorem getT_putT_other {α : Type} (t : Tbl α) (a k : Nat) (v : α) (h : k ≠ a) : getT (putT t a v) k = getT t k := by
  induction t with
  | nil => simp [getT, putT, Ne.symm h]
  | cons c t ih =>
    obtain ⟨b, x⟩ := c
    unfold getT at ih ⊢
    unfold putT
    split
    · simp only [List.find?]; split <;> simp_all
    · split
      · rename_i e; subst e; simp [List.find?, show (b == k) = false by simp [Ne.symm h]]
      · simp [List.find?, show (a == k) = false by simp [Ne.symm h]]

/-! Lane operations. -/

theorem frame_laneReg (s : State) (k : Nat) (o : LaneOp) (f : LEnv → M LRes) : (Reach.lane k).frame s (laneReg s k o f) := by
  unfold laneReg; dsimp only; split
  · exact ⟨rfl, fun j h => by unfold vec; dsimp only; rw [getT_putT_other _ _ _ _ h]⟩
  · exact ⟨rfl, fun j h => rfl⟩

theorem frame_setVec (s : State) (k : Nat) (v : Vec) : (Reach.lane k).frame s (s.setVec k v) :=
  ⟨rfl, fun j h => by unfold vec State.setVec; dsimp only; rw [getT_putT_other _ _ _ _ h]⟩

/-! What control descriptors and host flags leave alone. -/

/-- No memory, stack, counter of 64 bits, unit, engine or port is changed. -/
def quietAt (s t : State) : Prop :=
  t.mem = s.mem ∧ t.stk = s.stk ∧ t.wide = s.wide ∧ t.units = s.units ∧ t.vecs = s.vecs ∧ t.atts = s.atts ∧ t.net = s.net

theorem quietAt_refl (s : State) : quietAt s s := ⟨rfl, rfl, rfl, rfl, rfl, rfl, rfl⟩

theorem quietAt_trans {a b c : State} (h : quietAt a b) (k : quietAt b c) : quietAt a c := by
  obtain ⟨h1, h2, h3, h4, h5, h6, h7⟩ := h
  obtain ⟨k1, k2, k3, k4, k5, k6, k7⟩ := k
  exact ⟨k1.trans h1, k2.trans h2, k3.trans h3, k4.trans h4, k5.trans h5, k6.trans h6, k7.trans h7⟩

theorem frame_ctl_touchDesc (s t : State) (h : quietAt s t) : Reach.ctl.frame s (touchDesc s t) := ⟨descFrame_touchDesc s t, h⟩
theorem frame_ctl_touchServ (s t : State) (h : quietAt s t) : Reach.ctl.frame s (touchServ s t) := ⟨descFrame_touchDesc s t, h⟩

theorem quietAt_setW (s : State) (k : RegKey) (w : Word) : quietAt s (s.setW k w) := quietAt_refl s
theorem quietAt_modPart (s : State) (p : Nat) (f : PartState → PartState) : quietAt s (s.modPart p f) := quietAt_refl s

theorem quietAt_foldl {β : Type} (l : List β) (f : State → β → State) (h : ∀ s b, quietAt s (f s b)) : ∀ s, quietAt s (l.foldl f s) := by
  induction l with
  | nil => exact quietAt_refl
  | cons a t ih => intro s; exact quietAt_trans (h s a) (ih _)

theorem quietAt_updRC (s : State) (b : Blk) (i o h l : Nat) (f : Nat → Nat) : quietAt s (s.updRC b i o h l f) :=
  quietAt_foldl _ _ (fun s _ => quietAt_setW s _ _) s

theorem quietAt_bump (s : State) (b : Blk) (i o : Nat) : quietAt s (s.bump b i o) := by
  unfold State.bump State.bumpRC; exact quietAt_updRC _ _ _ _ _ _ _

theorem quietAt_modJob (s : State) (l : Nat) (f : Job → Job) : quietAt s (s.modJob l f) := by
  unfold State.modJob; split <;> exact quietAt_refl _

theorem quietAt_modRun (s : State) (l n : Nat) (f : StepRun → StepRun) : quietAt s (s.modRun l n f) := by
  unfold State.modRun; exact quietAt_modJob _ _ _

theorem quietAt_modD (s : State) (d : DTag) (f : DRun → DRun) : quietAt s (s.modD d f) := by
  unfold State.modD; exact quietAt_modRun _ _ _ _

theorem quietAt_setStat (s : State) (d : DTag) (st : DStat) (n : Nat) : quietAt s (s.setStat d st n) := by
  unfold State.setStat; exact quietAt_modD _ _ _

theorem quietAt_trace (s : State) (t : TraceRec) : quietAt s (s.trace t) := by
  unfold State.trace; dsimp only
  generalize (if (part s t.part).traced.1 == s.time.clk then (part s t.part).traced.2 else 0) = n
  split
  · split
    · exact quietAt_bump _ _ _ _
    · exact quietAt_modPart _ _ _
  · exact quietAt_refl _

theorem quietAt_noteStart (s : State) (c : Cx) : quietAt s (s.noteStart c) :=
  quietAt_trans (quietAt_modD _ _ _) (quietAt_foldl _ _ (fun _ _ => quietAt_trace _ _) _)

theorem quietAt_msix (s : State) (a b : Nat) : quietAt s (s.msix a b) := by
  unfold State.msix; split <;> exact quietAt_refl _

theorem quietAt_msiPart (s : State) (a b : Nat) : quietAt s (s.msiPart a b) := by
  unfold State.msiPart; exact quietAt_trans (quietAt_msix _ _ _) (quietAt_msix _ _ _)

theorem quietAt_flagChange (s : State) (l f : Nat) (set : Bool) (p : Option Nat) : quietAt s (s.flagChange l f set p) := by
  unfold State.flagChange; dsimp only
  generalize hu : State.modJob s l _ = u
  have hm : quietAt s u := by rw [← hu]; exact quietAt_modJob _ _ _
  repeat' (with_reducible first | exact hm | exact quietAt_trans hm (quietAt_msiPart _ _ _) | split)

theorem quietAt_satisfied (s : State) (j : Job) (r : StepRun) (c : Cx) : quietAt s (satisfied s j r c) := by
  unfold satisfied
  repeat' (with_reducible first
    | exact quietAt_refl _ | split | dsimp only | (refine quietAt_trans ?_ (quietAt_setStat _ _ _ _))
    | (refine quietAt_trans ?_ (quietAt_trace _ _)) | exact quietAt_modRun _ _ _ _ | exact quietAt_modJob _ _ _)

/-! What no command changes but power, resets and the programming of a fuse. -/

/-- The queue, TIM_MONO and the fuses as before, and a trip not released. -/
structure Keeps (s t : State) : Prop where
  pending : t.pending = s.pending
  mono : t.time.mono = s.time.mono
  fuse : t.fuse = s.fuse
  trip : s.pin.thermtrip = true → t.pin.thermtrip = true

theorem Keeps_refl (s : State) : Keeps s s := ⟨rfl, rfl, rfl, id⟩

theorem Keeps_trans {a b c : State} (h : Keeps a b) (k : Keeps b c) : Keeps a c :=
  ⟨k.1.trans h.1, k.2.trans h.2, k.3.trans h.3, fun x => k.4 (h.4 x)⟩

theorem Keeps_descFrame {s t : State} (h : descFrame s t) : Keeps s t := by
  obtain ⟨h1, h2, -, -, h5, h6, -⟩ := h
  exact ⟨h1, by rw [h2], h6, fun x => by rw [h5]; exact x⟩

theorem Keeps_touchDesc (s t : State) : Keeps s (touchDesc s t) := ⟨rfl, rfl, rfl, id⟩
theorem Keeps_touchServ (s t : State) : Keeps s (touchServ s t) := ⟨rfl, rfl, rfl, id⟩
theorem Keeps_touchLoad (s t : State) : Keeps s (touchLoad s t) := ⟨rfl, rfl, rfl, id⟩
theorem Keeps_touchStk (s t : State) : Keeps s (touchStk s t) := ⟨rfl, rfl, rfl, id⟩
theorem Keeps_touchRes (s t : State) : Keeps s (touchRes s t) := ⟨rfl, rfl, rfl, id⟩
theorem Keeps_touchMbx (s t : State) : Keeps s (touchMbx s t) := ⟨rfl, rfl, rfl, id⟩
theorem Keeps_touchTime (s t : State) : Keeps s (touchTime s t) := ⟨rfl, rfl, rfl, id⟩
theorem Keeps_touchThm (s t : State) : Keeps s (touchThm s t) := ⟨rfl, rfl, rfl, id⟩
theorem Keeps_touchFw (s t : State) : Keeps s (touchFw s t) := ⟨rfl, rfl, rfl, id⟩
theorem Keeps_warmTo (s t : State) : Keeps s (warmTo s t) := ⟨rfl, rfl, rfl, id⟩
theorem Keeps_warmReset (s : State) (e : BootEnv) (f : Bool) (n : Nat) : Keeps s (s.warmReset e f n) := Keeps_warmTo s _
theorem Keeps_pin (s : State) (p : PinState) (h : s.pin.thermtrip = true → p.thermtrip = true) : Keeps s { s with pin := p } := ⟨rfl, rfl, rfl, h⟩
theorem Keeps_smbReply (s : State) (n : Nat) (d : List Byte) : Keeps s (s.smbReply n d) := ⟨rfl, rfl, rfl, id⟩
theorem Keeps_bypass (s : State) (n : Nat) (b : Bool) : Keeps s (s.bypass n b) := ⟨rfl, rfl, rfl, id⟩
theorem Keeps_landed (s t : State) (o : Host.Outcome State Fault Refusal) (h : o = .next t) (k : Keeps s t) : Keeps s (landed s o) := by
  subst h; exact k

theorem Keeps_rprRun (s : State) (c : RClass) (stack code : Nat) (f : State → Nat → Nat × State) : Keeps s (rprRun s c stack code f) := by
  unfold rprRun; split
  · exact Keeps_refl s
  · exact Keeps_touchStk s _

theorem Keeps_plainWrite (s : State) (c : RClass) (b : Blk) (i o v : Nat) : Keeps s (plainWrite s c b i o v) := by
  unfold plainWrite
  repeat' (with_reducible first | exact Keeps_refl s | exact Keeps_touchFw s _ | exact Keeps_touchDesc s _ | split)

theorem Keeps_reqGo (s : State) (c : RClass) : Keeps s (reqGo s c) := by
  unfold reqGo
  repeat' (with_reducible first | exact Keeps_refl s | exact Keeps_touchFw s _ | split | dsimp only)

theorem Keeps_mgtReset (s : State) (c : RClass) (r : Bool) (e : BootEnv) : Keeps s (landed s (execMgtReset c r e s)) := by
  refine Keeps_landed _ _ _ rfl ?_
  split
  · exact Keeps_refl _
  · split
    · exact Keeps_refl _
    · refine Keeps_trans ?_ (Keeps_warmReset _ _ _ _)
      split
      · exact Keeps_refl _
      · exact Keeps_touchDesc _ _

theorem Keeps_mgtRecovCtl (s : State) (c : RClass) (w : Bool) (e : BootEnv) : Keeps s (landed s (execMgtRecovCtl c w e s)) := by
  refine Keeps_landed _ _ _ rfl ?_
  repeat' (with_reducible first | exact Keeps_refl _ | exact Keeps_warmTo _ _ | split)

theorem Keeps_mgtWrite (s : State) (c : RClass) (i o v : Nat) : Keeps s (mgtWrite s c i o v) := by
  unfold mgtWrite
  repeat' (with_reducible first
    | exact Keeps_mgtReset _ _ _ _ | exact Keeps_mgtRecovCtl _ _ _ _ | exact Keeps_plainWrite _ _ _ _ _ _ | exact Keeps_reqGo _ _
    | exact Keeps_refl _ | exact Keeps_touchDesc _ _ | split | dsimp only)

theorem Keeps_thmWrite (s : State) (c : RClass) (o v : Nat) : Keeps s (thmWrite s c o v) := by
  unfold thmWrite
  repeat' (with_reducible first | exact Keeps_plainWrite _ _ _ _ _ _ | exact Keeps_refl _ | exact Keeps_touchDesc _ _ | split | dsimp only)

theorem Keeps_netWrite (s : State) (c : RClass) (i o v : Nat) : Keeps s (netWrite s c i o v) := by
  unfold netWrite
  repeat' (with_reducible first | exact Keeps_plainWrite _ _ _ _ _ _ | exact Keeps_refl _ | exact Keeps_touchFw _ _ | split | dsimp only)

theorem Keeps_stkWrite (s : State) (c : RClass) (k o v : Nat) : Keeps s (stkWrite s c k o v) := by
  unfold stkWrite
  repeat' (with_reducible first
    | exact Keeps_plainWrite _ _ _ _ _ _ | exact Keeps_refl _ | exact Keeps_touchDesc _ _
    | exact Keeps_trans (Keeps_plainWrite _ _ _ _ _ _) (Keeps_landed _ _ _ rfl (Keeps_rprRun _ _ _ _ _)) | split)

theorem Keeps_classchg (s : State) (c : RClass) (n : Nat) (b : Bool) : Keeps s (landed s (execStkClasschg c n b s)) := by
  refine Keeps_landed _ _ _ rfl ?_
  repeat' (with_reducible first | exact Keeps_refl _ | exact Keeps_touchStk _ _ | split)

theorem Keeps_ratEntryWrite (s : State) (c : RClass) (n w : Nat) (v : Word) : Keeps s (landed s (execRatEntryWrite c n w v s)) := by
  refine Keeps_landed _ _ _ rfl ?_
  repeat' (with_reducible first | exact Keeps_refl _ | exact Keeps_touchStk _ _ | split | dsimp only)

theorem Keeps_stkcWrite (s : State) (c : RClass) (o v : Nat) : Keeps s (stkcWrite s c o v) := by
  unfold stkcWrite
  repeat' (with_reducible first
    | exact Keeps_classchg _ _ _ _ | exact Keeps_ratEntryWrite _ _ _ _ _ | exact Keeps_plainWrite _ _ _ _ _ _ | exact Keeps_refl _ | split)

theorem Keeps_leadCmd (s : State) (c : RClass) (p : Nat) (f : State → Job → State) : Keeps s (leadCmd s c p f) :=
  Keeps_descFrame (descFrame_leadCmd s c p f)

theorem Keeps_bellCmd (s : State) (c : RClass) (p : Nat) (w : Bool) (f : State → Job → State) : Keeps s (bellCmd s c p w f) :=
  Keeps_leadCmd s c p _

theorem Keeps_jobctl (s : State) (c : RClass) (p cmd : Nat) (f : State → State) : Keeps s (jobctl s c p cmd f) :=
  Keeps_descFrame (descFrame_jobctl s c p cmd f)

theorem Keeps_jobctlWrite (s : State) (c : RClass) (p v : Nat) : Keeps s (jobctlWrite s c p v) := by
  unfold jobctlWrite
  repeat' (with_reducible first
    | exact Keeps_plainWrite _ _ _ _ _ _ | exact Keeps_refl _ | exact Keeps_touchDesc _ _ | exact Keeps_landed _ _ _ rfl (Keeps_jobctl _ _ _ _ _)
    | split)

theorem Keeps_prtWrite (s : State) (c : RClass) (p o v : Nat) : Keeps s (prtWrite s c p o v) := by
  unfold prtWrite
  repeat' (with_reducible first
    | exact Keeps_jobctlWrite _ _ _ _ | exact Keeps_plainWrite _ _ _ _ _ _ | exact Keeps_refl _ | exact Keeps_touchDesc _ _ | exact Keeps_touchServ _ _
    | exact Keeps_landed _ _ _ rfl (Keeps_leadCmd _ _ _ _) | exact Keeps_landed _ _ _ rfl (Keeps_bellCmd _ _ _ _ _) | split | dsimp only | (refine Keeps_landed _ _ _ rfl ?_) | exact Keeps_touchLoad _ _
    | unfold jobSetting | unfold fringHi | unfold faultctlWrite | unfold hostFlag | exact Keeps_leadCmd _ _ _ _)

theorem Keeps_timStep (s : State) (c : RClass) : Keeps s (landed s (execTimStepCtl c s)) := by
  refine Keeps_landed _ _ _ rfl ?_
  repeat' (with_reducible first | exact Keeps_refl _ | exact Keeps_touchTime _ _ | split)

theorem Keeps_hostViol (s : State) (p : Prop) [Decidable p] (t : State) : Keeps s (if p then touchDesc s t else s) := by
  split
  · exact Keeps_touchDesc _ _
  · exact Keeps_refl _

/-- A register write of any class. -/
theorem Keeps_write4 (s : State) (c : RClass) (off v : Nat) : Keeps s (write4 s c off v) := by
  unfold write4; split
  · exact Keeps_refl _
  · rename_i b i o _
    refine Keeps_trans (Keeps_hostViol s ((hostCls c && badBits b o v) = true) (s.hostViol 3)) ?_
    repeat' (with_reducible first
      | exact Keeps_mgtWrite _ _ _ _ _ | exact Keeps_thmWrite _ _ _ _ | exact Keeps_netWrite _ _ _ _ _ | exact Keeps_stkWrite _ _ _ _ _
      | exact Keeps_stkcWrite _ _ _ _ | exact Keeps_prtWrite _ _ _ _ _ | exact Keeps_plainWrite _ _ _ _ _ _ | exact Keeps_refl _
      | exact Keeps_touchDesc _ _ | exact Keeps_touchMbx _ _ | exact Keeps_touchFw _ _ | exact Keeps_timStep _ _ | split | dsimp only)

end Sys2Proof.Machine
end

