-- ==== Sys2Proof/Laws/Registers.lean ====
section
/-! SUPPORT. Laws of registers: a read after a write, fields of a word, the copies of RC fields (R419). -/

namespace Sys2Proof.Machine

theorem lookupR_storeR_same {α : Type} (l : List (RegKey × α)) (k : RegKey) (v : α) : lookupR (storeR l k v) k = some v := by
  induction l with
  | nil => simp [storeR, lookupR]
  | cons a t ih =>
    obtain ⟨b, x⟩ := a
    unfold lookupR at ih ⊢
    rw [storeR]
    split
    · simp [List.find?]
    · rename_i e
      simp only [List.find?, show (b == k) = false by simp [e]]
      exact ih

theorem lookupR_storeR_other {α : Type} (l : List (RegKey × α)) (k j : RegKey) (v : α) (h : j ≠ k) : lookupR (storeR l k v) j = lookupR l j := by
  induction l with
  | nil => simp [storeR, lookupR, List.find?, show (k == j) = false by simp [Ne.symm h]]
  | cons a t ih =>
    obtain ⟨b, x⟩ := a
    unfold lookupR at ih ⊢
    rw [storeR]
    split
    · rename_i e; subst e
      simp [List.find?, show (b == j) = false by simp [Ne.symm h]]
    · simp only [List.find?]
      split
      · rfl
      · exact ih

/-- A register reads what was written to it. -/
@[simp] theorem rawW_setW_same (s : State) (k : RegKey) (w : Word) : rawW (s.setW k w) k = w := by
  unfold rawW State.setW; dsimp only; rw [lookupR_storeR_same]; rfl

/-- A write leaves every other register as it was. -/
theorem rawW_setW_other (s : State) (k j : RegKey) (w : Word) (h : j ≠ k) : rawW (s.setW k w) j = rawW s j := by
  unfold rawW State.setW; dsimp only; rw [lookupR_storeR_other _ _ _ _ h]

@[simp] theorem reg_setReg_same (s : State) (b : Blk) (i o v : Nat) : reg (s.setReg b i o v) b i o = v % 2 ^ 32 := by
  unfold reg State.setReg; rw [rawW_setW_same]; exact BitVec.toNat_ofNat v 32

theorem reg_setReg_other (s : State) (b c : Blk) (i j o p v : Nat) (h : c ≠ b ∨ j ≠ i ∨ p ≠ o) : reg (s.setReg b i o v) c j p = reg s c j p := by
  unfold reg State.setReg
  rw [rawW_setW_other]
  intro e
  injection e with e1 e2 e3
  rcases h with h | h | h <;> contradiction

theorem getWide_setWide_same (s : State) (k : RegKey) (v : Nat) (h : v < 2 ^ 64) : getWide (s.setWide k v) k = v := by
  unfold getWide State.setWide; dsimp only; rw [lookupR_storeR_same]
  refine (BitVec.toNat_ofNat v 512).trans (Nat.mod_eq_of_lt ?_)
  exact Nat.lt_of_lt_of_le h (Nat.pow_le_pow_right (by decide) (by decide))

theorem getWide_setWide_other (s : State) (k j : RegKey) (v : Nat) (h : j ≠ k) : getWide (s.setWide k v) j = getWide s j := by
  unfold getWide State.setWide; dsimp only; rw [lookupR_storeR_other _ _ _ _ h]

/-- A field reads what was put into it. -/
theorem fld_setFld_same (x hi lo v : Nat) (h : lo ≤ hi) : fld (setFld x hi lo v) hi lo = v % 2 ^ (hi + 1 - lo) := by
  unfold fld setFld
  have hp : 2 ^ (hi + 1) = 2 ^ lo * 2 ^ (hi + 1 - lo) := by rw [← Nat.pow_add]; congr 1; omega
  have h0 : 0 < 2 ^ lo := Nat.two_pow_pos lo
  generalize hn : 2 ^ (hi + 1 - lo) = n at hp ⊢
  generalize hm : 2 ^ lo = m at hp h0 ⊢
  rw [hp]
  have e : x / (m * n) * (m * n) + v % n * m + x % m = x % m + m * (x / (m * n) * n + v % n) := by ring
  rw [e, Nat.add_mul_div_left _ _ h0, Nat.div_eq_of_lt (Nat.mod_lt _ h0), Nat.zero_add, Nat.add_comm, Nat.add_mul_mod_self_right, Nat.mod_mod]

/-- Putting a field changes no lower bits. -/
theorem setFld_low (x hi lo v a : Nat) (h : a ≤ lo) (hl : lo ≤ hi) : setFld x hi lo v % 2 ^ a = x % 2 ^ a := by
  unfold setFld
  have d1 : 2 ^ a ∣ 2 ^ (hi + 1) := Nat.pow_dvd_pow 2 (by omega)
  have d2 : 2 ^ a ∣ 2 ^ lo := Nat.pow_dvd_pow 2 h
  have e1 : x / 2 ^ (hi + 1) * 2 ^ (hi + 1) % 2 ^ a = 0 := Nat.mod_eq_zero_of_dvd (Dvd.dvd.mul_left d1 _)
  have e2 : v % 2 ^ (hi + 1 - lo) * 2 ^ lo % 2 ^ a = 0 := Nat.mod_eq_zero_of_dvd (Dvd.dvd.mul_left d2 _)
  rw [Nat.add_mod, Nat.add_mod (x / _ * _), e1, e2, Nat.mod_mod_of_dvd _ d2]
  simp

/-- A field of fewer than `hi + 1` bits stays inside the word. -/
theorem setFld_lt (x hi lo v n : Nat) (hx : x < 2 ^ n) (hh : hi < n) (hl : lo ≤ hi) : setFld x hi lo v < 2 ^ n := by
  unfold setFld
  have hp : 2 ^ (hi + 1) = 2 ^ (hi + 1 - lo) * 2 ^ lo := by rw [← Nat.pow_add]; congr 1; omega
  have hm : v % 2 ^ (hi + 1 - lo) * 2 ^ lo + x % 2 ^ lo < 2 ^ (hi + 1) := by
    have a : v % 2 ^ (hi + 1 - lo) + 1 ≤ 2 ^ (hi + 1 - lo) := Nat.mod_lt _ (Nat.two_pow_pos _)
    have b : x % 2 ^ lo < 2 ^ lo := Nat.mod_lt _ (Nat.two_pow_pos _)
    have c := Nat.mul_le_mul_right (2 ^ lo) a
    rw [hp]; rw [Nat.add_mul, Nat.one_mul] at c; omega
  have hn : 2 ^ n = 2 ^ (n - (hi + 1)) * 2 ^ (hi + 1) := by rw [← Nat.pow_add]; congr 1; omega
  have hq : x / 2 ^ (hi + 1) + 1 ≤ 2 ^ (n - (hi + 1)) := by
    apply Nat.succ_le_of_lt; rw [Nat.div_lt_iff_lt_mul (Nat.two_pow_pos _), ← hn]; exact hx
  have c := Nat.mul_le_mul_right (2 ^ (hi + 1)) hq
  rw [hn]; rw [Nat.add_mul, Nat.one_mul] at c; omega

theorem fld_lt (x hi lo : Nat) : fld x hi lo < 2 ^ (hi + 1 - lo) := Nat.mod_lt _ (Nat.two_pow_pos _)

theorem reg_lt (s : State) (b : Blk) (i o : Nat) : reg s b i o < 2 ^ 32 := (rawW s ⟨b, i, o, 0⟩).isLt

/-- A field of a register reads what was put into it. -/
theorem regF_setRegF_same (s : State) (b : Blk) (i o hi lo v : Nat) (hh : hi < 32) (hl : lo ≤ hi) :
    regF (s.setRegF b i o hi lo v) b i o hi lo = v % 2 ^ (hi + 1 - lo) := by
  unfold regF State.setRegF
  rw [reg_setReg_same, Nat.mod_eq_of_lt (setFld_lt _ _ _ _ _ (reg_lt s b i o) hh hl), fld_setFld_same _ _ _ _ hl]

theorem regF_setReg_other (s : State) (b c : Blk) (i j o p v hi lo : Nat) (h : c ≠ b ∨ j ≠ i ∨ p ≠ o) :
    regF (s.setReg b i o v) c j p hi lo = regF s c j p hi lo := by
  unfold regF; rw [reg_setReg_other _ _ _ _ _ _ _ _ h]

theorem regF_setRegF_other (s : State) (b c : Blk) (i j o p v hi lo h2 l2 : Nat) (h : c ≠ b ∨ j ≠ i ∨ p ≠ o) :
    regF (s.setRegF b i o hi lo v) c j p h2 l2 = regF s c j p h2 l2 := by
  unfold State.setRegF; exact regF_setReg_other _ _ _ _ _ _ _ _ _ _ h

/-! Copies of RC fields (R419). -/

/-- An event in an RC field reaches every copy. -/
theorem rawW_updRC_copy (s : State) (b : Blk) (i o hi lo : Nat) (f : Nat → Nat) (c : Nat) (hc : c ∈ rcCopies b) :
    rawW (s.updRC b i o hi lo f) ⟨b, i, o, c⟩ =
      BitVec.ofNat 32 (setFld (rawW s ⟨b, i, o, c⟩).toNat hi lo (f (fld (rawW s ⟨b, i, o, c⟩).toNat hi lo))) := by
  unfold State.updRC
  have key : ∀ (l : List Nat), l.Nodup → ∀ t : State, c ∈ l → (∀ d ∈ l, rawW t ⟨b, i, o, d⟩ = rawW s ⟨b, i, o, d⟩) →
      rawW (l.foldl (fun s c => s.setW ⟨b, i, o, c⟩ (BitVec.ofNat 32 (setFld (rawW s ⟨b, i, o, c⟩).toNat hi lo
        (f (fld (rawW s ⟨b, i, o, c⟩).toNat hi lo))))) t) ⟨b, i, o, c⟩ =
      BitVec.ofNat 32 (setFld (rawW s ⟨b, i, o, c⟩).toNat hi lo (f (fld (rawW s ⟨b, i, o, c⟩).toNat hi lo))) := by
    intro l
    induction l with
    | nil => intro _ _ h; cases h
    | cons a r ih =>
      intro hn t hm ht
      rw [List.nodup_cons] at hn
      rw [List.foldl_cons]
      by_cases e : c = a
      · subst e
        have keep : ∀ (r : List Nat), c ∉ r → ∀ u : State,
            rawW (r.foldl (fun s c => s.setW ⟨b, i, o, c⟩ (BitVec.ofNat 32 (setFld (rawW s ⟨b, i, o, c⟩).toNat hi lo
              (f (fld (rawW s ⟨b, i, o, c⟩).toNat hi lo))))) u) ⟨b, i, o, c⟩ = rawW u ⟨b, i, o, c⟩ := by
          intro r
          induction r with
          | nil => intro _ u; rfl
          | cons d q iq =>
            intro hd u
            rw [List.mem_cons, not_or] at hd
            rw [List.foldl_cons, iq hd.2, rawW_setW_other]
            intro e; injection e with _ _ _ e; exact hd.1 e
        rw [keep r hn.1, rawW_setW_same, ht c (List.mem_cons_self ..)]
      · apply ih hn.2 _ ((List.mem_cons.mp hm).resolve_left e)
        intro d hd
        rw [rawW_setW_other, ht d (List.mem_cons_of_mem _ hd)]
        intro e; injection e with _ _ _ e; subst e; exact hn.1 hd
  refine key _ ?_ s hc (fun _ _ => rfl)
  unfold rcCopies; split <;> decide

/-- It reaches no other register. -/
theorem rawW_updRC_other (s : State) (b : Blk) (i o hi lo : Nat) (f : Nat → Nat) (k : RegKey) (hk : k.blk ≠ b ∨ k.inst ≠ i ∨ k.off ≠ o) :
    rawW (s.updRC b i o hi lo f) k = rawW s k := by
  unfold State.updRC
  generalize rcCopies b = l
  induction l generalizing s with
  | nil => rfl
  | cons a r ih =>
    rw [List.foldl_cons, ih, rawW_setW_other]
    intro e; subst e; simp at hk

/-- It changes nothing but registers. -/
theorem updRC_whole (s : State) (b : Blk) (i o hi lo : Nat) (f : Nat → Nat) :
    s.updRC b i o hi lo f = { s with regs := (s.updRC b i o hi lo f).regs } := by
  unfold State.updRC
  have key : ∀ (l : List Nat) (g : State → Nat → State) (_ : ∀ u c, g u c = { u with regs := (g u c).regs }) (u : State),
      l.foldl g u = { u with regs := (l.foldl g u).regs } := by
    intro l g hg
    induction l with
    | nil => intro u; rfl
    | cons a t ih => intro u; rw [List.foldl_cons, ih, hg u a]
  exact key _ _ (fun _ _ => rfl) s

end Sys2Proof.Machine
end

