-- ==== Sys2Proof/Laws/Events.lean ====
section
/-! SUPPORT. What raising an event changes (R446, R447): registers of the event log, one record in stack memory, an MSI-X message, suppression counts. -/

namespace Sys2Proof.Machine

/-- The fields and registers that an event leaves as they were: its record is a segment of stack memory, which may open a row, end a self-refresh
and postpone refreshes. -/
structure EventFrame (s t : State) : Prop where
  whole : t = { s with regs := t.regs, wide := t.wide, mem := t.mem, stk := t.stk, fw := { s.fw with protDrops := t.fw.protDrops },
                       pcie := { s.pcie with msi := t.pcie.msi, pend := t.pcie.pend }, supp := t.supp }
  regs : ∀ k : RegKey, k.blk ≠ .dbgc → k.blk ≠ .stk → rawW t k = rawW s k
  sram : t.mem.pbuf = s.mem.pbuf ∧ t.mem.scratch = s.mem.scratch ∧ t.mem.host = s.mem.host
  wf : Memory.wf s.mem = true → Memory.wf t.mem = true

theorem EventFrame_refl (s : State) : EventFrame s s := ⟨rfl, fun _ _ _ => rfl, ⟨rfl, rfl, rfl⟩, id⟩

theorem EventFrame_trans {a b c : State} (h : EventFrame a b) (k : EventFrame b c) : EventFrame a c := by
  refine ⟨?_, fun x hx hy => (k.regs x hx hy).trans (h.regs x hx hy), ?_, fun w => k.wf (h.wf w)⟩
  · rw [k.whole, h.whole]
  · obtain ⟨h1, h2, h3⟩ := h.sram
    obtain ⟨k1, k2, k3⟩ := k.sram
    exact ⟨k1.trans h1, k2.trans h2, k3.trans h3⟩

theorem EventFrame_setW (s : State) (k : RegKey) (w : Word) (h : k.blk = .dbgc ∨ k.blk = .stk) : EventFrame s (s.setW k w) :=
  ⟨rfl, fun j h1 h2 => rawW_setW_other s k j w (by intro e; subst e; exact h.elim h1 h2), ⟨rfl, rfl, rfl⟩, id⟩

theorem EventFrame_updRC (s : State) (b : Blk) (i o h l : Nat) (f : Nat → Nat) (hb : b = .dbgc ∨ b = .stk) : EventFrame s (s.updRC b i o h l f) := by
  unfold State.updRC
  generalize rcCopies b = cs
  induction cs generalizing s with
  | nil => exact EventFrame_refl s
  | cons c t ih =>
    rw [List.foldl_cons]
    exact EventFrame_trans (EventFrame_setW _ _ _ hb) (ih _)

theorem EventFrame_msix (s : State) (f v : Nat) : EventFrame s (s.msix f v) := by
  unfold State.msix; split <;> exact ⟨rfl, fun _ _ _ => rfl, ⟨rfl, rfl, rfl⟩, id⟩

theorem EventFrame_putSegs (s : State) (k : Nat) (bs : List Byte) : EventFrame s (s.putSegs k bs) := by
  refine ⟨rfl, fun _ _ _ => rfl, ⟨rfl, rfl, rfl⟩, fun w => ?_⟩
  rw [Memory.wf_iff] at w ⊢
  exact ⟨cellsWf_putBs _ _ _ w.1, w.2⟩

theorem EventFrame_stk (s : State) (x : StkState) : EventFrame s { s with stk := x } := ⟨rfl, fun _ _ _ => rfl, ⟨rfl, rfl, rfl⟩, id⟩

theorem EventFrame_postpone (s : State) (b n : Nat) : EventFrame s (s.postpone b n) := by
  unfold State.postpone
  exact EventFrame_trans (EventFrame_stk _ _) (EventFrame_updRC _ _ _ _ _ _ _ (.inr rfl))

theorem EventFrame_activate (s : State) (k : Nat) : EventFrame s (s.activate k) := by
  unfold State.activate; dsimp only; split
  · exact EventFrame_refl _
  · split
    · exact EventFrame_trans (EventFrame_stk _ _) (EventFrame_postpone _ _ _)
    · exact EventFrame_stk _ _

theorem EventFrame_wakeStack (s : State) (k : Nat) : EventFrame s (s.wakeStack k) := by
  unfold State.wakeStack; split
  · exact EventFrame_setW _ _ _ (.inr rfl)
  · exact EventFrame_refl _

theorem EventFrame_segWrite (s : State) (k : Nat) (bs : List Byte) : EventFrame s (s.segWrite k bs) := by
  unfold State.segWrite; dsimp only; split
  · exact EventFrame_updRC _ _ _ _ _ _ _ (.inr rfl)
  · have h := EventFrame_trans (EventFrame_wakeStack s (keyStack k)) (EventFrame_putSegs _ k bs)
    exact EventFrame_trans (EventFrame_trans h (b := _) (c := State.addWide _ .stk (keyStack k) 0x048 bs.length)
      ⟨rfl, fun _ _ _ => rfl, ⟨rfl, rfl, rfl⟩, id⟩) (EventFrame_activate _ _)

theorem EventFrame_putRec (s : State) (a : Nat) (ws : List Word) : EventFrame s (s.putRec a ws) := by
  unfold State.putRec; split
  · exact ⟨rfl, fun _ _ _ => rfl, ⟨rfl, rfl, rfl⟩, id⟩
  · split
    · exact EventFrame_segWrite _ _ _
    · exact EventFrame_refl _

theorem EventFrame_noteSupp (s : State) (e : EvSpec) (b : Bool) : EventFrame s (s.noteSupp e b) := by
  unfold State.noteSupp; split <;> exact ⟨rfl, fun _ _ _ => rfl, ⟨rfl, rfl, rfl⟩, id⟩

theorem EventFrame_evWrite (s : State) (e : EvSpec) (n : Nat) : EventFrame s (s.evWrite e n) := by
  unfold State.evWrite; split
  · exact EventFrame_refl _
  · dsimp only; split
    · exact EventFrame_updRC _ _ _ _ _ _ _ (.inl rfl)
    · have h : ∀ a ws v, EventFrame s ((s.putRec a ws).setReg .dbgc 0 0x008 v) := fun a ws v =>
        EventFrame_trans (EventFrame_putRec s a ws) (EventFrame_setW _ _ _ (.inl rfl))
      split
      · exact h _ _ _
      · exact EventFrame_trans (h _ _ _) (EventFrame_msix _ _ _)

/-- Everything an event can do. -/
theorem EventFrame_raise (s : State) (e : EvSpec) : EventFrame s (s.raise e) := by
  unfold State.raise; split
  · exact EventFrame_refl _
  · split
    · exact EventFrame_noteSupp _ _ _
    · exact EventFrame_trans (EventFrame_noteSupp _ _ _) (EventFrame_evWrite _ _ _)

theorem raise_pin (s : State) (e : EvSpec) : (s.raise e).pin = s.pin := by rw [(EventFrame_raise s e).whole]
theorem raise_time (s : State) (e : EvSpec) : (s.raise e).time = s.time := by rw [(EventFrame_raise s e).whole]
theorem raise_jobs (s : State) (e : EvSpec) : (s.raise e).jobs = s.jobs := by rw [(EventFrame_raise s e).whole]
theorem raise_parts (s : State) (e : EvSpec) : (s.raise e).parts = s.parts := by rw [(EventFrame_raise s e).whole]
theorem raise_loadq (s : State) (e : EvSpec) : (s.raise e).fw.loadq = s.fw.loadq := by rw [(EventFrame_raise s e).whole]
theorem raise_thm (s : State) (e : EvSpec) : (s.raise e).thm = s.thm := by rw [(EventFrame_raise s e).whole]
theorem raise_reg (s : State) (e : EvSpec) (b : Blk) (i o : Nat) (h : b ≠ .dbgc) (h' : b ≠ .stk) : reg (s.raise e) b i o = reg s b i o := by
  unfold reg; rw [(EventFrame_raise s e).regs _ h h']

end Sys2Proof.Machine
end

