-- ==== Sys2Proof/Laws/Commands.lean ====
section
/-! SUPPORT. What the shared operations answer when a command has its own effect: a descriptor that runs out, a lane operation that issues, a unit's command,
a record of the request ring, a request, a packet. -/

namespace Sys2Proof.Machine

/-- A descriptor all of whose instances run to their end leaves the state that `runsOut` gives. -/
theorem runOp_of {s : State} {c : Cx} {slots : List Nat} {count : Cx → Nat} {body : Cx → Nat → M PUnit} {seq : Bool} {t : State}
    (h : runsOut s c slots count body seq = some t) : runOp s c slots count body seq = t := by
  unfold runsOut at h
  split at h
  · cases h
  · rename_i hg
    simp only [Bool.or_eq_true, not_or, Bool.not_eq_true] at hg
    unfold runOp
    simp only [hg.1, hg.2, Bool.false_eq_true, if_false]
    simp only at h
    split at h <;> try cases h
    rename_i x hx
    rw [hx]
    simp [ranTo]

/-- A descriptor command whose descriptor may start. -/
theorem descStep_of {s : State} {d : DescRef} {op : Nat} {f : State → Cx → State} {c : Cx} (h : startable s d op = some c) :
    descStep s d op f = touchDesc s (f s c) := by
  unfold descStep; rw [h]

/-- A second event of a descriptor that is going on. -/
theorem contStep_of {s : State} {d : DescRef} {op : Nat} {f : State → Job → StepRun → Cx → State} {j : Job} {r : StepRun} {c : Cx}
    (h : goingOn s d op = some (j, r, c)) : contStep s d op f = touchDesc s (f s j r c) := by
  unfold contStep; rw [h]

/-! Lane operations. -/

theorem issueOp_of {c : Cx} {x : VCtx} {f : LEnv → M LRes} {o : LaneOp} {v : Vec} {y y' : X} {r : LRes} (hc : condOut x o.cond = false)
    (h : (f ⟨c, x, o, v.settle⟩).run y = (.ok r, y')) :
    (issueOp c x f o v).run y = (.ok (laneIssued ⟨c, x, o, v.settle⟩ r), y') := by
  unfold issueOp
  simp only [hc, Bool.false_eq_true, if_false]
  change (ExceptT.run (f ⟨c, x, o, v.settle⟩ >>= _)) y = _
  rw [ExceptT.run_bind]
  change (StateT.bind _ _) y = _
  simp only [StateT.bind]
  change (fun p => _) ((f ⟨c, x, o, v.settle⟩).run y) = _
  rw [h]
  rfl

theorem laneRuns_split {s : State} {core : Nat} {o : LaneOp} {f : LEnv → M LRes} {r : LRes} {x : X} (h : laneRuns s core o f = some (r, x)) :
    condOut (laneEnv s core o).x o.cond = false ∧ (f (laneEnv s core o)).run { s := s } = (.ok r, x) := by
  unfold laneRuns at h
  split at h
  · cases h
  · rename_i hc
    split at h <;> cases h
    rename_i hx
    exact ⟨by simpa using hc, hx⟩

/-- A register operation that gives a result: the engine has issued it, nothing else has changed. -/
theorem laneReg_of {s : State} {core : Nat} {o : LaneOp} {f : LEnv → M LRes} {r : LRes} {x : X} (h : laneRuns s core o f = some (r, x)) :
    laneReg s core o f = { s with free := s.free + 1, vecs := putT s.vecs core (laneIssued (laneEnv s core o) r) } := by
  obtain ⟨h1, h2⟩ := laneRuns_split h
  have h3 := issueOp_of (v := vec s core) h1 h2
  unfold laneReg
  simp only [laneEnv] at h3 ⊢
  rw [h3]

/-- A stream operation that gives a result: what it did to memory, and the engine has issued it. -/
theorem laneMem_of {s : State} {core : Nat} {o : LaneOp} {f : LEnv → M LRes} {r : LRes} {x : X} (h : laneRuns s core o f = some (r, x)) :
    laneMem s core o f = touchDesc s (x.s.setVec core (laneIssued (laneEnv s core o) r)) := by
  obtain ⟨h1, h2⟩ := laneRuns_split h
  have h3 := issueOp_of (v := vec s core) h1 h2
  unfold laneMem
  simp only [laneEnv] at h3 ⊢
  rw [h3]

/-- One word per active lane. -/
theorem each_eq (e : LEnv) (lat : Nat) (f : Nat → WF) : e.each lat f = pure (laneWords e lat f) := by
  simp [LEnv.each, laneWords]

/-! Commands of a Crema unit. -/

theorem cremaCmd_of {s : State} {ca : CmdAt} {op : Nat} {body : CEnv → M PUnit} {i j : Nat} {q : CCmd} {p : Piece} {c : Cx} {x : X}
    (h : cremaReady s ca op = some (i, j, q, p, c))
    (hb : (body ⟨c, ca.pc, p, q⟩).run { s := s.cmdStart c ca.pc i q p } = (.ok (), x)) :
    cremaCmd s ca op body = x.s.cmdEnd c ca.pc i j q p := by
  unfold cremaReady at h
  simp only at h
  split at h
  · cases h
  rename_i i' j' q' hm
  split at h
  · cases h
  rename_i p' hp
  split at h
  · cases h
  rename_i c' hc
  rw [Option.ite_none_left_eq_some] at h
  obtain ⟨hg, h⟩ := h
  cases h
  simp only [Bool.or_eq_true, not_or, Bool.not_eq_true, Option.isSome_eq_false_iff] at hg
  unfold cremaCmd
  simp only [hm, hp, hc]
  rw [if_neg (by simpa [Bool.or_eq_true, not_or] using hg.1), show firstUe (cunit s ca.pc) q p = none by simpa using hg.2]
  simp only [hb]

/-! Records, registers of the lead partition, packets. -/

/-- A record of the request ring that is handled and not discarded. -/
theorem ringStep_of {s : State} {lead kind : Nat} {f : State → Job → List Word → State} (h : handles s lead = true)
    (h1 : discards s (jobD s lead) (headWords s (jobD s lead)) = false) (h2 : recKind (headWords s (jobD s lead)) = kind) :
    ringStep s lead kind f = touchServ s (f (headSeen s lead) (jobD (headSeen s lead) lead) (headWords s (jobD s lead))) := by
  unfold ringStep; simp [h, h1, h2, headSeen]

/-- A REQUEST that is accepted (R269). -/
theorem requestRec_of {lead : Nat} {s s1 : State} {j : Job} {w toks : List Word} {ad n : Nat} {items : Nat × Nat × List Nat}
    (h1 : wfld (wAt w 4) 20 0 ≠ 0) (h2 : wfld (wAt w 5) 20 0 ≠ 0)
    (h3 : wfld (wAt w 4) 20 0 + wfld (wAt w 5) 20 0 ≤ j.cfg.maxLen) (h4 : addrAt w 12 ≠ 0 ∨ wfld (wAt w 4) 20 0 ≤ 992)
    (h5 : promptOf s lead w = (some toks, s1)) (h6 : (if u64At w 6 == 0 then some 0 else livePack s1 j (u64At w 6)) = some ad)
    (h7 : freeReq s1 j = some n) (h8 : admitItems j (wfld (wAt w 4) 20 0) = some items) :
    requestRec lead s j w = s1.takeReq lead w n toks items ad := by
  have hp : ¬ (addrAt w 12 == 0 && decide (992 < wfld (wAt w 4) 20 0)) = true := by simp; omega
  unfold requestRec
  simp only []
  rw [if_neg (by simp [h1, h2]), if_neg (by omega), if_neg hp, h5]
  change s1.admitReq lead w toks _ _ _ = _
  rw [h6, h7, h8]; rfl

/-- An ADAPTER_LOAD of a pack that no LIVE entry holds. -/
theorem adapterLoadRec_of {lead pk i : Nat} {s s1 : State} {j : Job} {w : List Word} {bs : List Byte} (h1 : lowest j j.cfg.nPack .pack = some pk)
    (h2 : freeAdap s j = some i)
    (h3 : (segRuns (u64At w 6) (64 + 128 * j.cfg.layers)).all (fun r => ratJob s 0 j.parts r.1) = true)
    (h4 : u64At w 6 + (64 + 128 * j.cfg.layers) ≤ spreadTop s) (h5 : readStack s (u64At w 6) (64 + 128 * j.cfg.layers) = (bs, false, s1))
    (h6 : packOk j (u64At w 4) (bytesWords 16 bs) = true) (h7 : livePack (s1.poke (packAddr j pk) bs) j (u64At w 4) = none) :
    let s2 := s1.poke (packAddr j pk) bs
    let g := adapGen (adap s2 j i)
    let s3 := s2.pokeWords (adapAddr j i) [lo32 (u64At w 4), hi32 (u64At w 4), BitVec.ofNat 32 (g + 65536), 0#32,
      lo32 (packAddr j pk), hi32 (packAddr j pk), BitVec.ofNat 32 j.cfg.layers, 0#32]
    adapterLoadRec lead s j w = (s3.modJob lead (fun j => (j.take (.pack pk)).take (.adapter i))).adapReply lead w 0 0 := by
  intro s2 g s3
  unfold adapterLoadRec
  simp only []
  rw [h1, h2]; simp only []
  rw [if_neg (by simp [h3]; omega), h5]; simp only []
  rw [if_neg (by simp [h6]), h7]

/-- An ADAPTER_RETIRE of a pack that a LIVE entry holds. -/
theorem adapterRetireRec_of {lead o : Nat} {s : State} {j : Job} {w : List Word} (h1 : livePack s j (u64At w 4) = some o) :
    adapterRetireRec lead s j w = (((s.pokeWords (adapAddr j o + 8) [wset (wAt (adap s j o) 2) 17 16 2]).adapSettle lead o).adapReply lead w 0 0) := by
  unfold adapterRetireRec; rw [h1]

theorem leadCmd_of {s : State} {c : RClass} {p : Nat} {j : Job} {f : State → Job → State} (h : reaches s c p = true) (h1 : isLead s p = true)
    (h2 : job? s p = some j) : leadCmd s c p f = touchServ s (f s j) := by
  simp [leadCmd, h, h1, h2]

/-- The expected packet of a queue pair is served. -/
theorem arrive_of {s : State} {h : NetHdr} {n : Nat} {again f : State → State} (ht : netTakes s h) : s.arrive h n again f = f (netIn s h n) := by
  obtain ⟨h1, h2, h3⟩ := ht
  simp only [State.arrive, h2, h3, netIn]
  rw [if_neg (by rcases h1 with h1 | h1 <;> simp [h1])]
  simp

theorem answered_of {s : State} {q n : Nat} {f : State → State} (h : (qpOf s q).st = .rts) : s.answered q n f = f (answerIn s q n) := by
  simp [State.answered, h, answerIn]

end Sys2Proof.Machine
end

