-- ==== Sys2Proof/Laws/Stores.lean ====
section
/-! SUPPORT. What a checked read and a checked write of a descriptor leave of the memories (R24, R25, R36). -/

namespace Sys2Proof.Machine

/-- Runs in the descriptor monad, one lemma per construct. -/
theorem run_bind_ok {α β : Type} (m : M α) (f : α → M β) (y z : X) (b : β) (h : (m >>= f).run y = (.ok b, z)) :
    ∃ a y', m.run y = (.ok a, y') ∧ (f a).run y' = (.ok b, z) := by
  change (ExceptT.run (m >>= f)) y = _ at h
  rw [ExceptT.run_bind] at h
  change (StateT.bind _ _) y = _ at h
  simp only [StateT.bind] at h
  change (fun p => _) (m.run y) = _ at h
  generalize hm : m.run y = p at h
  obtain ⟨e, y'⟩ := p
  cases e with
  | ok a => exact ⟨a, y', rfl, h⟩
  | error e =>
    exfalso
    have h' : ((Except.error e : Except Flt β), y') = (.ok b, z) := h
    injection h' with h1 _
    cases h1

theorem run_pure {α : Type} (a : α) (y : X) : (pure a : M α).run y = (.ok a, y) := rfl
theorem run_get (y : X) : (get : M X).run y = (.ok y, y) := rfl
theorem run_getS (y : X) : getS.run y = (.ok y.s, y) := rfl
theorem run_modS (f : State → State) (y : X) : (modS f).run y = (.ok (), { y with s := f y.s }) := rfl
theorem run_modify (f : X → X) (y : X) : (modify f : M PUnit).run y = (.ok (), f y) := rfl
theorem run_countB (n : Nat) (y : X) : (countB n).run y = (.ok (), { y with bytes := y.bytes + n }) := rfl
theorem run_fresh (y : X) : fresh.run y = (.ok y.k, { y with k := y.k + 1 }) := rfl
theorem run_stop {α : Type} (e : Flt) (y : X) : (stop e : M α).run y = (.error e, y) := rfl

/-- A trace record, and the regulator's account of an access, change registers and partition state alone: no memory and no aperture. -/
theorem trace_whole (s : State) (t : TraceRec) : s.trace t = { s with regs := (s.trace t).regs, parts := (s.trace t).parts } := by
  unfold State.trace
  dsimp only
  generalize (if (part s t.part).traced.1 == s.time.clk then (part s t.part).traced.2 else 0) = n
  split
  · split
    · unfold State.bump State.bumpRC; rw [updRC_whole]
    · rfl
  · rfl

theorem charge_mem (s : State) (p r n : Nat) (t : TraceRec) : (s.charge p r n t).mem = s.mem ∧ (s.charge p r n t).pcie = s.pcie := by
  unfold State.charge State.bumpRC
  dsimp only
  split
  · exact ⟨rfl, rfl⟩
  · split
    · exact ⟨rfl, rfl⟩
    · rw [trace_whole, trace_whole, updRC_whole]; exact ⟨rfl, rfl⟩

/-- The read and the write of one space. -/
theorem rd_pbuf (c : Cx) (part : Nat) (a : Int) (n : Nat) : c.rd 2 part a n = if a < 0 then Cx.badAddr a else
    if (!c.parts.contains part || decide (0x2000000 < a.toNat + n)) = true then Cx.badAddr a >>= fun bs => countB n >>= fun _ => pure bs
    else (getS >>= fun s => pure (getPbuf s part a.toNat n)) >>= fun bs => countB n >>= fun _ => pure bs := rfl
theorem rd_scratch (c : Cx) (part : Nat) (a : Int) (n : Nat) : c.rd 3 part a n = if a < 0 then Cx.badAddr a else
    if (!c.parts.contains part || decide (0x4000000 < a.toNat + n)) = true then Cx.badAddr a >>= fun bs => countB n >>= fun _ => pure bs
    else (getS >>= fun s => pure (getScratch s part a.toNat n)) >>= fun bs => countB n >>= fun _ => pure bs := rfl
theorem rd_host (c : Cx) (part : Nat) (a : Int) (n : Nat) : c.rd 4 part a n = if a < 0 then Cx.badAddr a else
    if (c.engine != 3) = true then Cx.badAddr a >>= fun bs => countB n >>= fun _ => pure bs
    else c.readHost part a.toNat n >>= fun bs => countB n >>= fun _ => pure bs := rfl
theorem wr_pbuf (c : Cx) (part : Nat) (a : Int) (bs : List Byte) : c.wr 2 part a bs = if a < 0 then Cx.badAddr a else
    if (!c.parts.contains part || decide (0x2000000 < a.toNat + bs.length)) = true then Cx.badAddr a >>= fun _ : Unit => countB bs.length
    else modS (·.putPbuf part a.toNat bs) >>= fun _ => countB bs.length := rfl
theorem wr_scratch (c : Cx) (part : Nat) (a : Int) (bs : List Byte) : c.wr 3 part a bs = if a < 0 then Cx.badAddr a else
    if (!c.parts.contains part || decide (0x4000000 < a.toNat + bs.length)) = true then Cx.badAddr a >>= fun _ : Unit => countB bs.length
    else modS (·.putScratch part a.toNat bs) >>= fun _ => countB bs.length := rfl
theorem wr_host (c : Cx) (part : Nat) (a : Int) (bs : List Byte) : c.wr 4 part a bs = if a < 0 then Cx.badAddr a else
    if (c.engine != 3) = true then Cx.badAddr a >>= fun _ : Unit => countB bs.length
    else c.writeHost part a.toNat bs >>= fun _ => countB bs.length := rfl

/-- A read of a partition buffer, a scratchpad or host memory changes no byte. -/
theorem rd_mem (c : Cx) (space part : Nat) (a : Int) (n : Nat) (y z : X) (bs : List Byte) (hs : space = 2 ∨ space = 3 ∨ space = 4)
    (h : (c.rd space part a n).run y = (.ok bs, z)) : z.s.mem = y.s.mem ∧ z.s.pcie = y.s.pcie := by
  rcases hs with e | e | e <;> subst e <;> first | rw [rd_pbuf] at h | rw [rd_scratch] at h | rw [rd_host] at h
  all_goals
    split at h
    · cases h
    split at h
    · obtain ⟨_, y1, h2, h1⟩ := run_bind_ok _ _ _ _ _ h
      cases h2
    obtain ⟨_, y1, h2, h1⟩ := run_bind_ok _ _ _ _ _ h
    cases h1
  · cases h2; exact ⟨rfl, rfl⟩
  · cases h2; exact ⟨rfl, rfl⟩
  · unfold Cx.readHost at h2
    obtain ⟨_, y2, h3, h4⟩ := run_bind_ok _ _ _ _ _ h2
    cases h3
    simp only at h4
    split at h4
    · cases h4
    · split at h4
      · obtain ⟨_, y3, h5, h6⟩ := run_bind_ok _ _ _ _ _ h4
        cases h5; cases h6
        exact charge_mem _ _ _ _ _
      · exfalso
        split at h4
        · obtain ⟨_, y3, h5, h6⟩ := run_bind_ok _ _ _ _ _ h4
          cases h6
        · cases h4

/-- What a checked write stores, by space. -/
def stored (c : Cx) (s : State) (space part : Nat) (a : Nat) (bs : List Byte) : Mem :=
  match space with
  | 2 => { s.mem with pbuf := putBs s.mem.pbuf (pbufKey part a) bs }
  | 3 => { s.mem with scratch := putBs s.mem.scratch (scratchKey part a) bs }
  | _ => { s.mem with host := putBs s.mem.host ((aperture s c.part part).base + a) bs }

theorem stored_congr (c : Cx) (s t : State) (space part a : Nat) (bs : List Byte) (h1 : t.mem = s.mem) (h2 : t.pcie = s.pcie) :
    stored c t space part a bs = stored c s space part a bs := by
  unfold stored aperture; rw [h1, h2]

theorem wr_mem (c : Cx) (space part : Nat) (a : Int) (bs : List Byte) (y z : X) (hs : space = 2 ∨ space = 3 ∨ space = 4)
    (h : (c.wr space part a bs).run y = (.ok (), z)) : z.s.mem = stored c y.s space part a.toNat bs := by
  rcases hs with e | e | e <;> subst e <;> first | rw [wr_pbuf] at h | rw [wr_scratch] at h | rw [wr_host] at h
  all_goals
    split at h
    · cases h
    split at h
    · obtain ⟨_, y1, h2, h1⟩ := run_bind_ok _ _ _ _ _ h
      cases h2
    obtain ⟨_, y1, h2, h1⟩ := run_bind_ok _ _ _ _ _ h
    cases h1
  · cases h2; rfl
  · cases h2; rfl
  · unfold Cx.writeHost at h2
    obtain ⟨_, y2, h3, h4⟩ := run_bind_ok _ _ _ _ _ h2
    cases h3
    simp only at h4
    split at h4
    · cases h4
    · cases h4
      simp only [(charge_mem _ _ _ _ _).1, stored]

theorem natBytes_length (n x : Nat) : (natBytes n x).length = n := by
  induction n generalizing x with
  | zero => rfl
  | succ n ih => simp [natBytes, ih]

/-- Spaces 2 to 4 do not stream. -/
theorem streams_false (t : TView) (hs : t.space = 2 ∨ t.space = 3 ∨ t.space = 4) : t.streams = false := by
  have h : ¬ TV.space t.w ≤ 1 := by rcases hs with e | e | e <;> (unfold TView.space at e; omega)
  simp [TView.streams, h]

/-- An element's bits are written into the bytes that hold them. -/
theorem wrBits_mem (c : Cx) (t : TView) (idx : List Nat) (v : Nat) (y z : X) (hs : t.space = 2 ∨ t.space = 3 ∨ t.space = 4)
    (h : (c.wrBits t idx v).run y = (.ok (), z)) :
    ∃ bs : List Byte, bs.length = ceilDiv ((t.bitAddr idx).2 + fmtBits t.fmt) 8 ∧
      z.s.mem = stored c y.s t.space (TV.part t.w) (t.bitAddr idx).1.toNat bs := by
  unfold Cx.wrBits at h
  simp only [Cx.wrT, Cx.rdT, streams_false t hs, Bool.not_false, if_true] at h
  split at h
  · have := wr_mem c _ _ _ _ y z hs h
    exact ⟨_, natBytes_length _ _, this⟩
  · obtain ⟨x0, y0, h0, h1⟩ := run_bind_ok _ _ _ _ _ h
    cases h0
    obtain ⟨old, y1, h2, h3⟩ := run_bind_ok _ _ _ _ _ h1
    obtain ⟨_, y2, h4, h5⟩ := run_bind_ok _ _ _ _ _ h3
    cases h4
    obtain ⟨e1, e2⟩ := rd_mem c _ _ _ _ _ _ _ hs h2
    have e3 := wr_mem c _ _ _ _ _ z hs h5
    exact ⟨_, natBytes_length _ _, e3.trans (stored_congr _ _ _ _ _ _ _ e1 e2)⟩

/-- A quiet read answers a value and changes nothing. -/
theorem quiet_run (m : M Nat) (y : X) : ∃ v, (quiet m).run y = (.ok v, y) := by
  have h : (quiet m).run y = (match m.run y with | (.ok v, _) => (pure v : M Nat) | (.error _, _) => pure 0).run y := rfl
  rw [h]
  generalize m.run y = p
  obtain ⟨e, y'⟩ := p
  cases e with
  | ok v => exact ⟨v, rfl⟩
  | error e => exact ⟨0, rfl⟩

/-- A store of a lane word writes the bytes that hold the element. -/
theorem storeW_mem (e : LEnv) (t : TView) (idx : List Nat) (w : Word) (y z : X) (r : Recent × Sticky) (hs : t.space = 2 ∨ t.space = 3 ∨ t.space = 4)
    (h : (e.storeW t idx w).run y = (.ok r, z)) :
    ∃ bs : List Byte, bs.length = ceilDiv ((t.bitAddr idx).2 + fmtBits t.fmt) 8 ∧
      z.s.mem = stored e.c y.s t.space (TV.part t.w) (t.bitAddr idx).1.toNat bs := by
  unfold LEnv.storeW at h
  obtain ⟨i, y1, h1, h2⟩ := run_bind_ok _ _ _ _ _ h
  have e1 : y1.s = y.s := by
    unfold srDraw at h1
    obtain ⟨_, y2, h3, h4⟩ := run_bind_ok _ _ _ _ _ h1
    cases h3
    obtain ⟨_, y3, h5, h6⟩ := run_bind_ok _ _ _ _ _ h4
    cases h5; cases h6; rfl
  dsimp only at h2
  obtain ⟨_, y4, h7, h8⟩ := run_bind_ok _ _ _ _ _ h2
  cases h8
  unfold LEnv.storeBits at h7
  obtain ⟨_, y5, h9, h10⟩ := run_bind_ok _ _ _ _ _ h7
  obtain ⟨q, hq⟩ := quiet_run (e.c.rdBits t idx) y1
  rw [hq] at h9; cases h9
  dsimp only at h10
  obtain ⟨_, y6, h11, h12⟩ := run_bind_ok _ _ _ _ _ h10
  cases h12
  obtain ⟨bs, hb, hm⟩ := wrBits_mem _ _ _ _ _ _ hs h11
  exact ⟨bs, hb, hm.trans (stored_congr _ _ _ _ _ _ _ (by rw [e1]) (by rw [e1]))⟩

/-- LANE_STS stores one element or nothing. -/
theorem opSts_mem (e : LEnv) (v : TView) (y z : X) (r : LRes) (hst : e.stream = some v) (hs : v.space = 2 ∨ v.space = 3 ∨ v.space = 4)
    (h : (opSts e).run y = (.ok r, z)) :
    z.s.mem = y.s.mem ∨ ∃ bs : List Byte, bs.length = ceilDiv ((v.bitAddr (streamIdx e.x v e.o.imm8)).2 + fmtBits v.fmt) 8 ∧
      z.s.mem = stored e.c y.s v.space (TV.part v.w) (v.bitAddr (streamIdx e.x v e.o.imm8)).1.toNat bs := by
  unfold opSts at h
  rw [hst] at h
  dsimp only at h
  split at h
  · obtain ⟨_, y1, h1, h2⟩ := run_bind_ok _ _ _ _ _ h
    cases h2
    exact .inr (storeW_mem _ _ _ _ _ _ _ hs h1)
  · cases h; exact .inl rfl

end Sys2Proof.Machine
end

