-- ==== Sys2Proof/WellFormed.lean ====
section
/-! DEFINITION. Well-formed commands: the operand ranges that the chapters give (partitions 16, cores 256, stacks 20, pseudo-channels
1,280, queue pairs 16,384, RAT entries 64, flags 4,096, and the field widths of lane operations and register fields). -/

namespace Sys2Proof

/-- A descriptor of one of the two steps in flight (R54, R287). -/
def okD (d : DescRef) : Bool := decide (d.lead < 16) && decide (d.run < 2) && decide (d.idx < 1048576)

/-- Field widths of a lane operation (Table 06.2). -/
def okLane (o : LaneOp) : Bool :=
  decide (o.imm8 < 256) && decide (o.part < 4) && decide (o.stream < 4) && decide (o.fmt < 16) && decide (o.cvt < 4) &&
  decide (o.ty < 2) && decide (o.cond < 4) && decide (o.minv < 2) && decide (o.msel < 4) && decide (o.c < 64) && decide (o.b < 64) &&
  decide (o.a < 64) && decide (o.d < 64)

def okCls : RClass → Bool
  | .vf p => decide (p < 16)
  | _ => true

def okCmd (c : CmdAt) : Bool := decide (c.pc < 1280) && decide (c.k < 4096)
def okNet (h : NetHdr) : Bool := decide (h.qp < 16384) && decide (h.psn < 16777216)
def okCm (m : CmMsg) : Bool := decide (m.remoteQpn < 16777216) && decide (m.localQpn < 16384) && decide (m.psn < 16777216)
/-- Table 09.3. -/
def okRat (f : RatFields) : Bool :=
  decide (f.window < 2) && decide (f.owner < 16) && decide (f.base < 281474976710656) && decide (f.size < 1048576) &&
  decide (f.pcsel < 65536) && decide (f.perm < 128)
/-- Table 15.4. -/
def okRec (r : ClassRec) : Bool := decide (r.rat < 64) && decide (r.cls < 4)
def okQp (f : QpFields) : Bool := decide (f.job < 16) && decide (f.port < 16) && decide (f.sndPsn < 16777216) && decide (f.rcvPsn < 16777216)
def okApt (f : AptFields) : Bool := decide (f.base % 4096 = 0) && decide (f.fn < 17)
def okEnv (e : BootEnv) : Bool := e.stackFail.all (fun n => decide (n < 20)) && e.lowMargin.all (fun n => decide (n < 20))
def okPtp (m : PtpMsg) : Bool := decide (m.port < 16) && decide (m.domain < 256)

/-- Every operand of a command in its range. -/
def Instr.wf : Instr → Bool
  | .matmul d => okD d
  | .bTilePrefetch d => okD d
  | .steer d => okD d
  | .attnPrefill d => okD d
  | .attnDecode d => okD d
  | .cremaItemDispatch core => decide (core < 256)
  | .resultRecordMerge core slot => decide (core < 256) && decide (slot < 1048576)
  | .kvAppend d => okD d
  | .kvSeal d => okD d
  | .vlane d => okD d
  | .resultLand core => decide (core < 256)
  | .laneNop core o => decide (core < 256) && okLane o
  | .laneAdd core o => decide (core < 256) && okLane o
  | .laneSub core o => decide (core < 256) && okLane o
  | .laneMul core o => decide (core < 256) && okLane o
  | .laneFma core o => decide (core < 256) && okLane o
  | .laneMax core o => decide (core < 256) && okLane o
  | .laneMin core o => decide (core < 256) && okLane o
  | .laneAbs core o => decide (core < 256) && okLane o
  | .laneNeg core o => decide (core < 256) && okLane o
  | .laneMov core o => decide (core < 256) && okLane o
  | .laneSel core o => decide (core < 256) && okLane o
  | .laneAnd core o => decide (core < 256) && okLane o
  | .laneOr core o => decide (core < 256) && okLane o
  | .laneXor core o => decide (core < 256) && okLane o
  | .laneShl core o => decide (core < 256) && okLane o
  | .laneShr core o => decide (core < 256) && okLane o
  | .laneSra core o => decide (core < 256) && okLane o
  | .laneCmp core o => decide (core < 256) && okLane o
  | .laneMlog core o => decide (core < 256) && okLane o
  | .laneMcount core o => decide (core < 256) && okLane o
  | .laneExp core o => decide (core < 256) && okLane o
  | .laneLog core o => decide (core < 256) && okLane o
  | .laneRcp core o => decide (core < 256) && okLane o
  | .laneRsqrt core o => decide (core < 256) && okLane o
  | .laneCvt core o => decide (core < 256) && okLane o
  | .laneScan core o => decide (core < 256) && okLane o
  | .laneSegscan core o => decide (core < 256) && okLane o
  | .laneCompress core o => decide (core < 256) && okLane o
  | .laneExpand core o => decide (core < 256) && okLane o
  | .laneLd core o => decide (core < 256) && okLane o
  | .laneLds core o => decide (core < 256) && okLane o
  | .laneAccld core o => decide (core < 256) && okLane o
  | .laneSt core o => decide (core < 256) && okLane o
  | .laneSts core o => decide (core < 256) && okLane o
  | .laneStc core o => decide (core < 256) && okLane o
  | .sample d => okD d
  | .move d => okD d
  | .gather d => okD d
  | .scatter d => okD d
  | .codecScan d => okD d
  | .codecEnc d => okD d
  | .codecDec d => okD d
  | .cremaSeq d => okD d
  | .cremaGemv d => okD d
  | .flagSet d => okD d
  | .flagSetClear d => okD d
  | .flagWait d => okD d
  | .flagWaitSatisfied d => okD d
  | .flagWaitTimeout d => okD d
  | .fence d => okD d
  | .drain d => okD d
  | .atomicAdd d => okD d
  | .atomicMax d => okD d
  | .atomicMin d => okD d
  | .atomicSwap d => okD d
  | .atomicCas d => okD d
  | .atomicAnd d => okD d
  | .atomicOr d => okD d
  | .netWrite d => okD d
  | .netRead d => okD d
  | .netSend d => okD d
  | .watch d => okD d
  | .stepEnd d => okD d
  | .descriptorComplete d => okD d
  | .cremaPieceQueue pc => decide (pc < 1280)
  | .cremaNop c => okCmd c
  | .stream c => okCmd c
  | .row c => okCmd c
  | .act c => okCmd c
  | .fold c => okCmd c
  | .store c => okCmd c
  | .emit c => okCmd c
  | .refreshBreak pc => decide (pc < 1280)
  | .cremaBudgetWindow => true
  | .rampFall stack => decide (stack < 20)
  | .rampRise stack => decide (stack < 20)
  | .request lead => decide (lead < 16)
  | .cancel lead => decide (lead < 16)
  | .adapterLoad lead => decide (lead < 16)
  | .adapterRetire lead => decide (lead < 16)
  | .ringSet lead => decide (lead < 16)
  | .stepFormation lead => decide (lead < 16)
  | .stepLaunch lead => decide (lead < 16)
  | .commit lead => decide (lead < 16)
  | .heldRecordWrite lead ring => decide (lead < 16) && decide (ring < 256)
  | .demotion lead => decide (lead < 16)
  | .resourceReturn lead => decide (lead < 16)
  | .prtLoaddb cls p => okCls cls && decide (p < 16)
  | .load => true
  | .unload => true
  | .prtReqdb cls p => okCls cls && decide (p < 16)
  | .prtFlagsetSet cls p flag => okCls cls && decide (p < 16) && decide (flag < 4096)
  | .prtFlagsetClear cls p flag => okCls cls && decide (p < 16) && decide (flag < 4096)
  | .prtRingset cls p ring => okCls cls && decide (p < 16) && decide (ring < 256)
  | .prtTruncCtl cls p _ => okCls cls && decide (p < 16)
  | .faultResume cls p slot _ => okCls cls && decide (p < 16) && decide (slot < 65536)
  | .retry cls p slot _ => okCls cls && decide (p < 16) && decide (slot < 65536)
  | .fail cls p slot _ => okCls cls && decide (p < 16) && decide (slot < 65536)
  | .faultHoldExpiry p _ => decide (p < 16)
  | .fwUeResolve p _ => decide (p < 16)
  | .form cls p => okCls cls && decide (p < 16)
  | .dissolve cls p => okCls cls && decide (p < 16)
  | .suspend cls p => okCls cls && decide (p < 16)
  | .jobResume cls p => okCls cls && decide (p < 16)
  | .hold cls p => okCls cls && decide (p < 16)
  | .release cls p => okCls cls && decide (p < 16)
  | .regulatorRefill => true
  | .registerWrite cls off _ _ => okCls cls && decide (off < 67108864)
  | .rcRead cls off _ => okCls cls && decide (off < 67108864)
  | .glbMbxSel cls _ => okCls cls
  | .mbxData7Read cls => okCls cls
  | .dbgRingConsWrite cls off _ => okCls cls && decide (off < 67108864)
  | .mgtReset cls _ env => okCls cls && okEnv env
  | .mgtRecovCtl cls _ env => okCls cls && okEnv env
  | .regionSet h rat f rec => okCls h.cls && decide (rat < 64) && okRat f && rec.all okRec
  | .regionClear h rat => okCls h.cls && decide (rat < 64)
  | .regionClass h rec => okCls h.cls && okRec rec
  | .classSet h index _ => okCls h.cls && decide (index < 4)
  | .vfBar2 h vf _ => okCls h.cls && decide (vf < 17)
  | .qpSet h qp f => okCls h.cls && decide (qp < 16384) && okQp f
  | .keySet h key _ _ rat _ _ => okCls h.cls && decide (key < 65536) && decide (rat < 64)
  | .peerSet h first _ => okCls h.cls && decide (first < 65536)
  | .apertureSet h part aper f => okCls h.cls && decide (part < 16) && decide (aper < 16) && okApt f
  | .pairSet h _ => okCls h.cls
  | .unpair h lead => okCls h.cls && decide (lead < 16)
  | .jobRelease h lead => okCls h.cls && decide (lead < 16)
  | .cremaEnable h pc => okCls h.cls && decide (pc < 1280)
  | .scrubSet h _ _ => okCls h.cls
  | .settingWrite h off _ _ => okCls h.cls && decide (off < 67108864)
  | .configRead h _ _ _ => okCls h.cls
  | .configWriteStart h => okCls h.cls
  | .configWriteData h _ _ => okCls h.cls
  | .configWriteCommit h => okCls h.cls
  | .fwUpdate h _ _ _ => okCls h.cls
  | .attest h _ => okCls h.cls
  | .certRead h => okCls h.cls
  | .arvRaise h _ => okCls h.cls
  | .keyRevoke h _ _ _ _ => okCls h.cls
  | .layoutClass h _ => okCls h.cls
  | .ceilingRaise h _ => okCls h.cls
  | .bmcChallenge h => okCls h.cls
  | .bmcAuth h _ _ => okCls h.cls
  | .bmcEnd h => okCls h.cls
  | .bmcSessionTimeout => true
  | .stkClasschg cls index _ => okCls cls && decide (index < 4)
  | .classFillDone => true
  | .ratEntryWrite cls n word _ => okCls cls && decide (n < 64) && decide (word < 5)
  | .rprNop cls stack => okCls cls && decide (stack < 20)
  | .readMap cls stack index => okCls cls && decide (stack < 20) && decide (index < 8)
  | .softRow cls stack => okCls cls && decide (stack < 20)
  | .hardRow cls stack _ => okCls cls && decide (stack < 20)
  | .clearSoft cls stack => okCls cls && decide (stack < 20)
  | .rawRead cls stack => okCls cls && decide (stack < 20)
  | .rawWrite cls stack => okCls cls && decide (stack < 20)
  | .timStepCtl cls => okCls cls
  | .refresh pc bank _ => decide (pc < 1280) && decide (bank < 64)
  | .refreshWindowEnd pc => decide (pc < 1280)
  | .wcbIdleFlush stack _ => decide (stack < 20)
  | .selfRefreshEntry => true
  | .selfRefreshExit stack => decide (stack < 20)
  | .patrolRead stack => decide (stack < 20)
  | .digestScrub _ _ _ _ => true
  | .fwRowRepair pc rowNo => decide (pc < 1280) && decide (rowNo < 1048576)
  | .sramRemap _ _ _ _ => true
  | .send h _ _ => okNet h
  | .rdmaWrite h _ _ _ => okNet h
  | .writeWithImmediate h _ _ _ _ => okNet h
  | .rdmaRead h _ _ _ => okNet h
  | .roceAtomic h => okNet h
  | .ack qp psn _ => decide (qp < 16384) && decide (psn < 16777216)
  | .nak qp psn _ => decide (qp < 16384) && decide (psn < 16777216)
  | .rnrNak qp psn _ => decide (qp < 16384) && decide (psn < 16777216)
  | .cnp qp => decide (qp < 16384)
  | .pauseFrame die port prio _ => decide (die < 4) && decide (port < 4) && decide (prio < 8)
  | .pfcWatchdog die port prio => decide (die < 4) && decide (port < 4) && decide (prio < 8)
  | .ptpMessage m => okPtp m
  | .firmwareFrame port _ _ => decide (port < 16)
  | .frameDrop die line => decide (die < 4) && decide (line < 16)
  | .req m => okCm m
  | .rep m => okCm m
  | .rtu m => okCm m
  | .rej m _ => okCm m
  | .ackTimeout qp => decide (qp < 16384)
  | .ccEpoch qp => decide (qp < 16384)
  | .portDown die port => decide (die < 4) && decide (port < 4)
  | .portUp die port => decide (die < 4) && decide (port < 4)
  | .trainingRetry die port => decide (die < 4) && decide (port < 4)
  | .delta m => okNet m.hdr
  | .chunk m => okNet m.hdr
  | .heartbeat m => okNet m.hdr
  | .sync m => okNet m.hdr
  | .depart m => okNet m.hdr
  | .hello m => okNet m.hdr
  | .heartbeatSend lead => decide (lead < 16)
  | .partnerLost lead => decide (lead < 16)
  | .pairRetry lead => decide (lead < 16)
  | .holdoverEntry => true
  | .holdoverExpiry => true
  | .ppsIn _ => true
  | .ppsOut => true
  | .alertHoldEnd => true
  | .pfBar2Access off _ _ => decide (off < 1073741824)
  | .vfBar2Access p off _ _ => decide (p < 16) && decide (off < 268435456)
  | .vfFlr p => decide (p < 16)
  | .pfFlr => true
  | .perst _ => true
  | .completionTimeout _ => true
  | .malformedTlp line => decide (line < 8)
  | .linkRetrain _ _ => true
  | .sensorSample _ => true
  | .powerLoop _ _ _ => true
  | .railMeasure _ _ _ => true
  | .vrAlert _ => true
  | .roastMeasure _ => true
  | .pwrgoodRise _ smbAddr railsOk => decide (smbAddr < 4) && decide (railsOk < 128)
  | .pwrgoodFall => true
  | .railCheckRetry railsOk => decide (railsOk < 128)
  | .powerOnReset env => okEnv env
  | .resetN _ env => okEnv env
  | .modelFetch lead _ _ _ => decide (lead < 16)
  | .journalWrite _ => true
  | .configScan => true
  | .telemetrySnapshot => true
  | .traceDrain p => decide (p < 16)
  | .partitionSleep lead => decide (lead < 16)
  | .partitionWake lead => decide (lead < 16)
  | .deepSleep p => decide (p < 16)
  | .read32 off => decide (off < 67108864)
  | .write32 off _ => decide (off < 67108864)
  | .snapshotRead => true
  | .pinstat => true
  | .extest _ => true
  | .idcode => true
  | .samplePreload _ => true
  | .clamp => true
  | .highz => true
  | .extestPulse _ => true
  | .extestTrain _ => true
  | .regacc _ => true
  | .bypass _ => true
  | .pauseWatchdogRelease die port prio => decide (die < 4) && decide (port < 4) && decide (prio < 8)
  | .rnrTimerExpiry qp => decide (qp < 16384)
  | .dissolveHoldExpiry lead => decide (lead < 16)
  | .deviceFatalError => true
  | .hostReadCompletion _ _ _ => true

end Sys2Proof
end

