-- ==== Sys2Proof/Tests/Slice0.lean ====
section
/-! SUPPORT. Tests: ill-formed commands are refused by `Instr.wf`; small steps with expected values from the spec; and for every statement of
Obligations.lean that has hypotheses, a state and operands that meet them. -/

namespace Sys2Proof.Machine.Tests

/- One theorem at a time: each kernel evaluation would otherwise hold a thread of its own. -/
set_option Elab.async false

/-! States the tests start from. -/

/-- Powered, firmware running (MGT_FWSTATE 2), device RUNNING. -/
def up : State :=
  { pin := { pwrgood := true, resetN := true }, regs := [(⟨.mgt, 0, 0, 0⟩, 2#32), (⟨.glb, 0, 4, 0⟩, 2#32)] }

/-- Words of a record, zero where none is given. -/
def rec_ (n : Nat) (ws : List (Nat × Nat)) : List Word := ws.foldl (fun w (i, v) => w.set i (BitVec.ofNat 32 v)) (List.replicate n 0#32)

/-- A descriptor on core 0 of partition 0 (Table 03.3): opcode, engine, its other words. -/
def desc (op eng : Nat) (ws : List (Nat × Nat)) : List Word := rec_ 32 ([(0, op + 256 * eng), (1, 7), (11, 1)] ++ ws)

/-- A tensor in partition 0's buffer (Table 03.9): format, base, dimensions. -/
def tens (fmt base : Nat) (dims : List Nat) (ws : List (Nat × Nat) := []) : List Word :=
  rec_ 16 ([(0, 2 + 16 * fmt + 4096 * dims.length), (1, base)] ++ ((List.range 5).map (fun i => (3 + i, dims.getD i 1))) ++ ws)

def stepEndD : List Word := rec_ 32 [(0, 0x3F + 256 * 7), (1, 9), (11, 1)]

/-- A job on partition 0 that runs one step of a program of these descriptors and tensors. -/
def jobWith (descs tens : List (List Word)) (runs : Tbl DRun := []) : Job :=
  { cfg := {}, parts := [0],
    progs := [{ id := 5#32, image := 0, size := 0, model := 0, slotmax := 1, tokmax := 1, descs := descs ++ [stepEndD], tens := tens, lanes := [],
                pcsets := [], codecs := [], constOff := 0, constSz := 0, caps := [] }],
    runs := [{ no := 1, epoch := 0, prog := 5#32, buf := 0, bt := 0, launched := true, runs := runs }] }

def withJob (s : State) (j : Job) : State :=
  { s with regs := (⟨.prt, 0, 4, 0⟩, 2#32) :: s.regs, parts := [(0, { lead := some 0, asleep := false })], jobs := [(0, j)] }

def d0 : DescRef := ⟨0, 0, 0⟩

/-- A descriptor that may start, meets a condition and runs out. -/
def meets {α : Type} (o : Option Cx) (p : Cx → Bool) (r : Cx → Option α) : Bool :=
  match o with
  | none => false
  | some c => p c && (r c).isSome

theorem meets_sat {α : Type} {o : Option Cx} {p : Cx → Bool} {r : Cx → Option α} (h : meets o p r = true) :
    ∃ c t, o = some c ∧ p c = true ∧ r c = some t := by
  unfold meets at h
  split at h
  · simp at h
  · rename_i c
    rw [Bool.and_eq_true] at h
    obtain ⟨t, ht⟩ := Option.isSome_iff_exists.mp h.2
    exact ⟨c, t, rfl, h.1, ht⟩

/-! Ill-formed commands, one for each check of `Instr.wf` (WellFormed.lean). -/

def lo (o : LaneOp) : Instr := .laneAdd 0 o
def atD (d : DescRef) : Instr := .move d

theorem test_wf_descriptors_and_lanes :
    ([atD ⟨16, 0, 0⟩, atD ⟨0, 2, 0⟩, atD ⟨0, 0, 1048576⟩, .laneNop 256 {}, .laneStc 256 {}, .cremaItemDispatch 256, .resultLand 256, .resultRecordMerge 256 0,
      .resultRecordMerge 0 1048576, lo { imm8 := 256 }, lo { part := 4 }, lo { stream := 4 }, lo { fmt := 16 }, lo { cvt := 4 }, lo { ty := 2 },
      lo { cond := 4 }, lo { minv := 2 }, lo { msel := 4 }, lo { c := 64 }, lo { b := 64 }, lo { a := 64 }, lo { d := 64 }] : List Instr).all
      (fun i => !i.wf) = true := by decide +kernel

theorem test_wf_units_jobs_partitions :
    ([.stream ⟨1280, 0⟩, .emit ⟨0, 4096⟩, .cremaPieceQueue 1280, .refreshBreak 1280, .rampFall 20, .rampRise 20, .request 16, .commit 16, .demotion 16,
      .heldRecordWrite 16 0, .heldRecordWrite 0 256, .resourceReturn 16, .dissolveHoldExpiry 16, .prtLoaddb (.vf 16) 0, .prtReqdb .pf 16,
      .prtFlagsetSet .pf 0 4096, .prtFlagsetClear .pf 16 0, .prtRingset .pf 0 256, .prtTruncCtl .pf 16 false, .faultResume .pf 0 65536 false,
      .retry .pf 16 0 false, .fail .pf 0 65536 true, .faultHoldExpiry 16 0, .fwUeResolve 16 0, .form .pf 16, .suspend (.vf 16) 0, .release .pf 16,
      .heartbeatSend 16, .partnerLost 16, .pairRetry 16, .modelFetch 16 [] [] [], .partitionSleep 16, .deepSleep 16, .traceDrain 16] : List Instr).all
      (fun i => !i.wf) = true := by decide +kernel

def okRatF : RatFields := { size := 1 }
def okQpF : QpFields := { st := 0, job := 0, purpose := 0, peer := 0, rqpn := 0, sndPsn := 0, rcvPsn := 0, port := 0 }
def okAptF : AptFields := { valid := true, base := 0, size := 1, rd := true, wr := true, fn := 0 }
def ratI (f : RatFields) : Instr := .regionSet ⟨.pf, 0⟩ 0 f none
def qpI (f : QpFields) : Instr := .qpSet ⟨.pf, 0⟩ 2 f

theorem test_wf_registers_and_requests :
    ([.registerWrite .pf 67108864 0 false, .rcRead .pf 67108864 false, .dbgRingConsWrite .pf 67108864 0, .glbMbxSel (.vf 16) 0, .mbxData7Read (.vf 16),
      .mgtReset .pf false { stackFail := [20] }, .mgtRecovCtl .pf false { lowMargin := [20] }, .powerOnReset { stackFail := [20] },
      ratI { okRatF with window := 2 }, ratI { okRatF with owner := 16 }, ratI { okRatF with base := 2 ^ 48 }, ratI { okRatF with size := 2 ^ 20 },
      ratI { okRatF with pcsel := 65536 }, ratI { okRatF with perm := 128 }, .regionSet ⟨.vf 16, 0⟩ 0 okRatF none, .regionSet ⟨.pf, 0⟩ 64 okRatF none,
      .regionSet ⟨.pf, 0⟩ 0 okRatF (some { rat := 64 }), .regionClass ⟨.pf, 0⟩ { rat := 0, cls := 4 }, .regionClear ⟨.pf, 0⟩ 64, .classSet ⟨.pf, 0⟩ 4 false,
      .vfBar2 ⟨.pf, 0⟩ 17 0, qpI { okQpF with job := 16 }, qpI { okQpF with port := 16 }, qpI { okQpF with sndPsn := 2 ^ 24 },
      qpI { okQpF with rcvPsn := 2 ^ 24 }, .qpSet ⟨.pf, 0⟩ 16384 okQpF, .keySet ⟨.pf, 0⟩ 65536 true 0 0 false false, .keySet ⟨.pf, 0⟩ 0 true 0 64 false false,
      .peerSet ⟨.pf, 0⟩ 65536 [], .apertureSet ⟨.pf, 0⟩ 16 0 okAptF, .apertureSet ⟨.pf, 0⟩ 0 16 okAptF, .apertureSet ⟨.pf, 0⟩ 0 0 { okAptF with base := 1 },
      .apertureSet ⟨.pf, 0⟩ 0 0 { okAptF with fn := 17 }, .unpair ⟨.pf, 0⟩ 16, .jobRelease ⟨.pf, 0⟩ 16, .cremaEnable ⟨.pf, 0⟩ 1280,
      .settingWrite ⟨.pf, 0⟩ 67108864 0 0, .attest ⟨.vf 16, 0⟩ []] : List Instr).all (fun i => !i.wf) = true := by decide +kernel

def hN (q p : Nat) : NetHdr := { src := 0, qp := q, psn := p }

theorem test_wf_stacks_network_pins :
    ([.stkClasschg .fw 4 false, .ratEntryWrite .fw 64 0 0, .ratEntryWrite .fw 0 5 0, .rprNop .fw 20, .readMap .fw 0 8, .softRow .fw 20, .hardRow .fw 20 true,
      .clearSoft .fw 20, .rawRead .fw 20, .rawWrite .fw 20, .refresh 1280 0 true, .refresh 0 64 true, .refreshWindowEnd 1280, .wcbIdleFlush 20 0,
      .selfRefreshExit 20, .patrolRead 20, .fwRowRepair 1280 0, .fwRowRepair 0 1048576, .roceAtomic (hN 16384 0), .send (hN 0 (2 ^ 24)) [] none,
      .heartbeat ⟨hN 16384 0, []⟩, .ack 16384 0 [], .nak 0 (2 ^ 24) 0, .rnrNak 16384 0 0, .cnp 16384, .ccEpoch 16384, .ackTimeout 16384, .rnrTimerExpiry 16384,
      .pauseFrame 4 0 0 true, .pauseFrame 0 4 0 true, .pfcWatchdog 0 0 8, .pauseWatchdogRelease 4 0 0, .firmwareFrame 16 0 [], .frameDrop 4 0, .frameDrop 0 16,
      .req { src := 0, remoteQpn := 2 ^ 24 }, .rep { src := 0, localQpn := 16384 }, .rtu { src := 0, psn := 2 ^ 24 }, .portDown 4 0, .portUp 0 4, .trainingRetry 4 0,
      .ptpMessage ⟨16, 0, true, 0⟩, .ptpMessage ⟨0, 256, true, 0⟩, .pfBar2Access (2 ^ 30) none 1, .vfBar2Access 16 0 none 1, .vfBar2Access 0 (2 ^ 28) none 1,
      .vfFlr 16, .malformedTlp 8, .pwrgoodRise false 4 0, .pwrgoodRise false 0 128, .railCheckRetry 128, .read32 67108864, .write32 67108864 0] : List Instr).all
      (fun i => !i.wf) = true := by decide +kernel

theorem test_wf_accepts : ([.matmul ⟨15, 1, 1048575⟩, .laneAdd 255 {}, .prtFlagsetSet (.vf 15) 15 4095, .registerWrite .pf 67108860 0 false,
    .hardRow .fw 19 true, .refresh 1279 63 true, .ack 16383 16777215 [], .regacc 0] : List Instr).all Instr.wf = true := by decide +kernel

/-! Witnesses: engines. -/

/-- A device whose RAT gives partition 0 both windows, bank-group index 3 Crema (R210, Table 09.3). -/
def upMem : State :=
  { up with regs := [(⟨.stkc, 0, 0, 0⟩, 8#32), (⟨.stkc, 0, 0x800, 0⟩, 0x8000007F#32), (⟨.stkc, 0, 0x80C, 0⟩, 0x80000#32),
                     (⟨.stkc, 0, 0x820, 0⟩, 0xC000007F#32), (⟨.stkc, 0, 0x82C, 0⟩, 0x200#32), (⟨.stkc, 0, 0x830, 0⟩, 1#32)] ++ up.regs }

/-- The batch table of one slot of one token, decoding, with one sequence entry at 0x140000 (Table 03.17). -/
def btWords : List Word := rec_ 32 [(3, 1), (4, 1), (5, 1), (6, 1), (16 + 3, 1), (16 + 4, 0x110000), (16 + 6, 0x120000)]

/-- One descriptor on its own, of a step whose batch table is at 0x100000. -/
def oneD (s : State) (op eng : Nat) (ws : List (Nat × Nat)) (ts : List (List Word)) (runs : Tbl DRun := []) : State :=
  withJob s { jobWith [desc op eng ws] ts runs with
    cfg := { layers := 1, kvHeads := 1, oFmt := 1, sFmt := 1, hDim := 1, nFrame := 4, kvOff := 0x30000000, digestBase := 0x200000, maxLen := 1024 },
    runs := [{ no := 1, epoch := 0, prog := 5#32, buf := 0, bt := 0x100000, launched := true, runs := runs }] }

def slots012 : List (Nat × Nat) := [(8, 0 + 65536), (9, 2)]
def t1x (fmt base : Nat) : List Word := tens fmt base [1, 1]

def sMatmul : State := oneD up 0x01 0 slots012 [t1x 9 0, t1x 9 64, t1x 11 128]
def sSteer : State := oneD up 0x0A 0 [(8, 65536), (9, 2 + 3 * 65536), (12, 256)] [tens 1 0 [0, 0], t1x 1 64, t1x 1 128, t1x 1 192]
def sPrefetch : State :=
  let j := jobWith [desc 0x01 0 slots012, rec_ 32 ([(0, 1), (1, 8), (11, 1)] ++ slots012)] [t1x 9 0, t1x 9 64, t1x 11 128] [(0, { stat := .ran })]
  withJob up j
def memA : State := upMem.pokeWords 0x100000 btWords
def att3 : List (Nat × Nat) := [(8, 65536), (9, 2 + 3 * 65536), (13, 1 + 256 + 65536)]
def sKva : State := oneD memA 0x04 2 slots012 [t1x 1 0, t1x 1 64]
def memB : State := memA.pokeWords 0x100020 [0x130000#32, 0#32]
def memC : State := (memA.pokeWords 0x10001C [1#32, 0x130000#32]).pokeWords 0x130000 (rec_ 8 [(2, 0x140000)])
def sSeal : State := oneD memC 0x05 2 [(12, 256), (13, 4096)] []
def sPre : State := oneD (memA.pokeWords 0x100014 [0#32]) 0x02 2 att3 [t1x 1 0, tens 1 64 [1,2,1], t1x 1 128, t1x 1 192]
def sDecD : State := oneD memA 0x03 2 (att3 ++ [(12, 4096)]) [t1x 1 0, t1x 1 64, t1x 1 128, t1x 1 192]
def sDecC : State := oneD memA 0x03 2 att3 [t1x 1 0, t1x 1 64, t1x 1 128, tens 3 192 [256]]

def partS (regs : List (RegKey × Word)) (j : Job) (s : State := upMem) : State := let s := withJob s j; { s with regs := regs ++ s.regs }
def idleJob : Job := { jobWith [] [] with runs := [] }

def withRegs (s : State) (l : List (RegKey × Word)) : State := { s with regs := l ++ s.regs }

theorem witness_tensor :
    meets (startable sMatmul d0 0x01) (fun c => !engineBusy sMatmul c 2 0x02) (fun c => runsOut sMatmul c (mmSlots c) mmCount mmUnit) = true ∧
    meets (startable sSteer d0 0x0A) (fun c => !engineBusy sSteer c 2 0x02)
      (fun c => runsOut sSteer c [0, 1, 2, 3] (fun c => (c.mine ((c.t 0).dim 1)).2) steerUnit) = true ∧
    (prefetchable sPrefetch ⟨0, 0, 1⟩).isSome = true := by
  refine ⟨?_, ?_, ?_⟩ <;> decide +kernel

theorem witness_kv :
    meets (startable sKva d0 0x04) (fun _ => true) (fun c => runsOut sKva c [0, 1] (fun c => (kvaSlots c).2) kvaUnit) = true ∧
    meets (startable sSeal d0 0x05) (fun c => c.trunc.isNone) 
      (fun c => runsOut sSeal c [] (fun c => if (sealEntries c).2 == 0 then 0 else (sealEntries c).2 + 1) sealUnit) = true := by
  refine ⟨?_, ?_⟩ <;> decide +kernel

theorem witness_attention :
    meets (startable sPre d0 0x02) (fun c => !engineBusy sPre c 0 0)
      (fun c => runsOut sPre c [0, 1, 2] (fun c => if (preHeads c).2 * preSlots c == 0 then 0 else (preHeads c).2 * preSlots c + 1) preUnit) = true ∧
    meets (startable sDecD d0 0x03) (fun c => c.att.die && decide (c.att.nsplit ≤ 1))
      (fun c => runsOut sDecD c [0, 2, 3] (fun c => (decSlots c).2) decUnitD) = true ∧
    meets (startable sDecC d0 0x03) (fun c => !c.att.die) (fun c => runsOut sDecC c [0, 2, 3] (fun c => (decSlots c).2) decUnitC) = true := by
  refine ⟨?_, ?_, ?_⟩ <;> decide +kernel

def tag0 : DTag := ⟨0, 1, 0⟩
/-- A unit's command with nothing set. -/
def cmd0 (op : Nat) : CCmd :=
  { op := op, fn := 0, np := 0, stepd := false, opnd := .none, dp := 1, d := 8, a := 0, b := 4, count := 1, mrow := 0, xbase := 0, xfmt := 1, xoff := 1,
    imm := 0#32, cvt := 0 }
def piece0 (ops : List CCmd) : Piece := { d := tag0, kind := .seq, core := 0, slot := 0, cmds := ops, done := [], inbuf := [] }
def sItem : State := { sDecC with atts := [(0, { items := [⟨0, piece0 [], 1⟩] })] }
def sMerge : State := { sDecC with atts := [(0, { slots := [(0, 1, true)], merges := [⟨1, tag0, 0, 0, 0, 1, [⟨0#32, 0#32, [0#32]⟩]⟩] })] }
def laneW (op : Nat) (o : Nat) : List Word := [BitVec.ofNat 32 op, BitVec.ofNat 32 o]
def sVlane : State :=
  withJob up (let j := jobWith [desc 0x08 1 (slots012)] [t1x 0 0, t1x 0 64, t1x 0 128]
    { j with progs := j.progs.map (fun p => { p with lanes := [rec_ 144 [(0, 1 + 256 + 4096*2), (16, 0x02 + 256*4), (17, 0)]] }) })
def sSample : State := oneD memA 0x09 1 (slots012 ++ [(13, 1)]) [tens 0 0 [4, 1], t1x 0 64, tens 0 128 [2,1]]
def sLand : State := { up with vecs := [(0, { fly := [⟨3, 0, 1, 1, 1⟩] })] }
/-- Core 0 runs a VLANE with one stream in the partition buffer; lane 0 is active. -/
def lane0 : VCtx :=
  { d := tag0, part := 0, core := 0, streams := [some ⟨t1x 0 0, [1, 1, 1, 1, 1], 0, 0⟩, none, none, none], scal := [], rows := 1, dim0 := 1,
    row := 0, tile := 0, tiles := 1, cursors := [0, 0, 0, 0], accRow := 0 }
def sLane : State := { sVlane with vecs := [(0, { masks := [1#64, 1#64, 0#64, 0#64], ctx := some lane0 })] }
def ranL (f : LEnv → M LRes) (o : LaneOp) : Bool := (laneRuns sLane 0 o f).isSome

def item0 : AttItem := ⟨0, piece0 [], 1⟩
def merge0 : MergeSet := ⟨1, tag0, 0, 0, 0, 1, [⟨0#32, 0#32, [0#32]⟩]⟩

theorem witness_items :
    ((att sItem 0).items = [item0] ∧ (cunit sItem 0).waiting = [] ∧ (cunit sItem 0).disabled = false ∧ pState sItem 0 < 4 ∧
      meets (pieceCx sItem tag0 0) (fun c => (cunit sItem 0).canQueue (item0.placed c 0))
        (fun c => (List.range ((c.t 3).dim 0 / max c.att.recsz 1)).find? (fun i => !(slotsUsed sItem c.d).contains i)) = true) ∧
    (att sMerge 0).slots.find? (fun x => x.1 == 0 && x.2.2) = some (0, 1, true) ∧ (att sMerge 0).merges.find? (·.id == 1) = some merge0 ∧
      meets (pieceCx sMerge tag0 0) (fun c0 => (dRunOf (recordIn sMerge 0 0 (0, 1, true) merge0 { c0 with inst := c0.cores.findIdx (· == 0) }) tag0).stat != .faulted)
        (fun _ => some 0) = true := by
  refine ⟨⟨by rfl, by decide +kernel, by decide +kernel, by decide +kernel, ?_⟩, ?_, ?_, ?_⟩ <;> decide +kernel

theorem witness_vector :
    meets (startable sVlane d0 0x08) (fun _ => true) (fun c => runsOut sVlane c (vlSlots c) (fun c => (vlTiles c).length) vlUnit) = true ∧
    meets (startable sSample d0 0x09) (fun _ => true)
      (fun c => runsOut sSample c ([0, 2] ++ (if c.slotIdx 3 == 0 then [] else [3])) (fun c => (sampRows c).2) sampUnit) = true ∧
    (∃ l, (vec sLand 0).fly = [l]) ∧ condOut (laneEnv sLane 0 {}).x ({} : LaneOp).cond = false := by
  refine ⟨?_, ?_, ⟨_, rfl⟩, ?_⟩ <;> decide +kernel

theorem witness_lane_operations :
    [ranL opCmp { d := 33 }, ranL opMlog { d := 33, a := 32, b := 33 }, ranL opExp { d := 1 }, ranL opCvt { d := 1, imm8 := 2, fmt := 1 },
     ranL opScan { d := 1 }, ranL opSegscan { d := 1 }, ranL opCompress { d := 1 }, ranL opExpand { d := 1 }, ranL opAccld { d := 1 },
     ranL opLd { d := 1 }, ranL opLds { d := 1 }, ranL opSt {}, ranL opSts {}, ranL opStc {}].all id = true := by decide +kernel

/-- The stream in the buffer, in the scratchpad of core 0 and in host memory, to which a lane has no path. -/
def sLaneIn (space : Nat) : State :=
  let w := (t1x 0 0).set 0 (BitVec.ofNat 32 (space + 4096 * 2))
  { sLane with vecs := [(0, { masks := [1#64, 1#64, 0#64, 0#64], ctx := some { lane0 with streams := [some ⟨w, [1, 1, 1, 1, 1], 0, 0⟩, none, none, none] } })],
               pcie := { sLane.pcie with apert := [(0, { valid := true, base := 0, size := 1, rd := true, wr := true, fn := 0 })] } }
theorem witness_stores : (∀ space, space = 2 ∨ space = 3 → (laneRuns (sLaneIn space) 0 {} opSts).isSome = true ∧
      ∃ v, (laneEnv (sLaneIn space) 0 {}).stream = some v ∧ v.space = space) ∧
    (∃ v, (laneEnv (sLaneIn 4) 0 {}).stream = some v ∧ v.space = 4) ∧ (laneEnv (sLaneIn 4) 0 {}).c.engine ≠ 3 ∧
    (laneEnv (sLaneIn 4) 0 {}).act.getLsbD 0 = true := by
  refine ⟨?_, ⟨_, rfl, by decide +kernel⟩, by decide +kernel, by decide +kernel⟩
  rintro space (rfl | rfl) <;> exact ⟨by decide +kernel, _, rfl, by decide +kernel⟩

def sMove : State := oneD up 0x10 3 (slots012 ++ [(12, 4 * 4096 + 3 * 512 + 2 * 64 + 8)]) [t1x 9 0, t1x 9 64, t1x 9 128]
def sGather (op : Nat) : State := oneD up op 3 slots012 [t1x 9 0, t1x 11 64, t1x 9 128]
def sScan : State := oneD up 0x14 3 slots012 [t1x 9 0, t1x 9 64, tens 9 256 [256]]
def comp (base : Nat) : List Word := (t1x 9 base).set 0 (BitVec.ofNat 32 (2 + 16 * 9 + 4096 * 2 + 65536))
def withCodec (s : State) : State :=
  { s with jobs := s.jobs.map (fun (k, j) => (k, { j with progs := j.progs.map (fun p => { p with codecs := [[0x150000#32, 0#32, 0#32, 0#32]] }) })) }
def sEnc : State := withCodec (oneD upMem 0x15 3 slots012 [t1x 9 0, t1x 9 64, comp 4096])
def sDecZ : State := withCodec (oneD upMem 0x16 3 slots012 [comp 4096, t1x 9 64, t1x 9 128])
def encS (c : Cx) : State := sEnc.modPart c.part (fun q => { q with encoder := some c.d })
def encT (c : Cx) : Option State := runsOut (encS c) c [0, 2] (fun c => codecNB (rawSize (c.t 0).w (c.t 0).elems) + 1) encUnit
def crem : List (Nat × Nat) := [(8, 65536), (9, 2), (11, 1 + 2^20)]
/-- A program on the pseudo-channels of partition 0: a stack of tiles in Crema memory. -/
def sSeqC : State :=
  let s := oneD upMem 0x18 2 ((crem ++ [(11, 1 + 2 * 2 ^ 20)])) [t1x 1 0, t1x 1 64, t1x 1 128]
  { s with jobs := s.jobs.map (fun (k, j) => (k, { j with progs := j.progs.map (fun p => { p with pcsets := [rec_ 40 [(0, 1)]] }) })) }
def sGemv : State :=
  let s := oneD upMem 0x19 2 ((crem ++ [(11, 1 + 2 * 2 ^ 20), (12, 1)])) [t1x 1 0, t1x 1 64, t1x 1 128]
  { s with jobs := s.jobs.map (fun (k, j) => (k, { j with progs := j.progs.map (fun p => { p with pcsets := [rec_ 40 [(0, 1)]] }) })) }

theorem witness_movement :
    meets (startable sMove d0 0x10) (fun _ => true) (fun c => runsOut sMove c [0, 2] moveCount moveUnit) = true ∧
    meets (startable (sGather 0x11) d0 0x11) (fun _ => true)
      (fun c => runsOut (sGather 0x11) c [0, 1, 2] (fun c => gsCount c (c.t 2)) gatherUnit) = true ∧
    meets (startable (sGather 0x12) d0 0x12) (fun _ => true)
      (fun c => runsOut (sGather 0x12) c [0, 1, 2] (fun c => gsCount c (c.t 0)) scatterUnit (!c.acc)) = true := by
  refine ⟨?_, ?_, ?_⟩ <;> decide +kernel

theorem witness_codec :
    meets (startable sScan d0 0x14) (fun _ => true) (fun c => runsOut sScan c [0, 2] (fun _ => 1) scanUnit) = true ∧
    meets (startable sEnc d0 0x15) (fun c => !encBusy sEnc c && (match encT c with | some t => (dRunOf t c.d).stat == .ran | none => false)) encT = true ∧
    meets (startable sDecZ d0 0x16) (fun _ => true)
      (fun c => runsOut sDecZ c [0, 2] (fun c => (c.mine (codecNB (rawSize (c.t 0).w (c.t 0).elems))).2) decUnit) = true := by
  refine ⟨?_, ?_, ?_⟩ <;> decide +kernel

theorem witness_crema_descriptors :
    meets (startable sSeqC d0 0x18) (fun _ => true) (fun c => runsOut sSeqC c (seqSlots (seqWords sSeqC c)) (fun _ => 1) seqBody) = true ∧
    meets (startable sGemv d0 0x19) (fun _ => true) (fun c => runsOut sGemv c [0, 1, 2] (fun _ => 1) gemvBody) = true := by
  refine ⟨?_, ?_⟩ <;> decide +kernel

def sUnit (op : Nat) (f : CCmd → CCmd := id) : State := { oneD upMem 0x18 2 crem [] [(0, { stat := .running })] with units := [(0, { queue := [piece0 [f (cmd0 op)]] })] }
def crT : COperand := .tensor ⟨(t1x 1 0).set 0 (BitVec.ofNat 32 (1 + 16 + 4096 * 2)), [64, 1, 1, 1, 1], bankBase + 0x30000000, 0⟩
def ca0 : CmdAt := ⟨0, 0⟩
def unitRuns (op : Nat) (f : CCmd → CCmd) (g : CEnv → M PUnit) : Bool :=
  let s := sUnit op f
  match cremaReady s ca0 op with
  | none => false
  | some (i, _, q, p, c) => match (g ⟨c, ca0.pc, p, q⟩).run { s := s.cmdStart c ca0.pc i q p } with | (.ok _, _) => true | _ => false
def sFlag (op : Nat) (st : DStat) (ws : List (Nat × Nat)) : State := let s := oneD up op 3 ws [t1x 11 0] [(0, { stat := st })]; { s with time := { s.time with clk := 1000 } }
def sSet (f : Nat) : State := let s := sFlag 0x21 .running [(12, f), (13, 1)]; { s with jobs := s.jobs.map (fun (k, j) => (k, { j with flags := [(2048, { sets := [(none, 0)] })], runs := j.runs.map (fun r => { r with flags := [(1, { sets := [(none, 0)] })] }) })) }

theorem witness_crema_commands :
    [(cremaReady (sUnit 0) ca0 0).isSome, unitRuns 1 (fun q => { q with opnd := crT }) streamCmd, unitRuns 2 id rowCmd, unitRuns 3 id actCmd,
     unitRuns 4 id foldCmd, unitRuns 5 (fun q => { q with opnd := crT }) storeCmd, unitRuns 6 (fun q => { q with fn := 1, opnd := .slot 0 0 256 }) emitCmd].all id
      = true := by decide +kernel

/-- Unit 0 has a piece waiting; unit 64 waited, unit 128 was used; bank 63 of pseudo-channel 0 has nine refreshes postponed, and bank 127 has a
targeted refresh waiting beside. -/
def sClocks : State :=
  { up with units := [(0, { waiting := [piece0 []] }), (64, { waited := true }), (128, { used := true })],
            stk := { up.stk with postponed := [(63, 9), (127, 10)], rhRows := [(127, [5])] } }
theorem witness_crema_clocks : (cunit sClocks 0).waiting = [piece0 []] ∧ (cunit sClocks 0).canQueue (piece0 []) = true ∧
    (stackUnits sClocks 0).any (·.used) = false ∧ (stackUnits sClocks 1).any (·.waited) = true ∧
    (stackUnits sClocks 2).any (·.used) = true ∧ 8 < (getT sClocks.stk.postponed (0 * 64 + 63)).getD 0 ∧
    8 < (getT sClocks.stk.postponed (1 * 64 + 63)).getD 0 ∧ (getT sClocks.stk.rhRows (1 * 64 + 63)).getD [] = [5] := by decide +kernel

def waitOk (s : State) : Bool := match goingOn s d0 0x21 with
  | some (j, r, c) => (match foundAt s j r c with
    | some t => !loses s j c t false
    | none => decide ((dRun r c.d.idx).startClk + waitT s c ≤ s.time.clk) && missedAtT s j r c && c.trunc.isNone)
  | none => false
theorem witness_flags : (∀ m, m ≤ 1 → meets (startable (sFlag 0x20 .waiting [(13, m)]) d0 0x20) (fun c => wfld (wAt c.w 13) 0 0 == m) (fun _ => some 0) = true) ∧
    (startable (sFlag 0x21 .waiting []) d0 0x21).isSome = true ∧ waitOk (sSet 1) = true ∧ waitOk (sSet 2048) = true ∧
    waitOk (sFlag 0x21 .running [(13, 1)]) = true := by decide +kernel

theorem witness_control : (startable (sFlag 0x22 .waiting []) d0 0x22).isSome = true ∧ (named (sFlag 0x22 .waiting []) d0).isSome = true ∧
    (startable (sFlag 0x23 .waiting []) d0 0x23).isSome = true ∧
    meets (startable (sFlag 0x30 .waiting []) d0 0x30) (fun _ => true) (fun c => runsOut (sFlag 0x30 .waiting []) c [0] (fun _ => 1)
      (watchUnit (dRunOf (sFlag 0x30 .waiting []) { c.d with idx := descIdx c.prog (wAt c.w 12) }))) = true ∧
    (startable (sFlag 0x10 .done []) ⟨0, 0, 1⟩ 0x3F).isSome = true ∧
    (match named (sFlag 0x22 .ran []) d0 with
      | some (_, r, c) => mayGoOn (sFlag 0x22 .ran []) c.part r 0 && (dRun r 0).stat == .ran && c.trunc.isNone && r.stopping.isNone
      | _ => false) = true := by decide +kernel

theorem witness_atomics : (List.range 7).all (fun op => let s := sFlag 0x24 .waiting [(12, op)]
    meets (startable s d0 0x24) (fun c => wfld (wAt c.w 12) 3 0 == op) (fun c => runsOut s c (atomicSlots c) (fun _ => 1) (atomicUnit op))) = true := by decide +kernel

def sNet (op : Nat) (tr : Option (Nat × Bool) := none) : State :=
  let s := oneD up op 3 slots012 [t1x 9 0, t1x 9 64, t1x 9 128]
  { s with net := { s.net with qps := [(0, { st := .rts, job := 0 })] },
           jobs := s.jobs.map (fun (k, j) => (k, { j with runs := j.runs.map (fun r => { r with trunc := tr }) })) }

theorem witness_network :
    meets (startable (sNet 0x28) d0 0x28) (fun c => c.trunc.isNone) (fun c => runsOut (sNet 0x28) c [0] (fun c => pkts (netTotal c 0)) (netUnit 1)) = true ∧
    meets (startable (sNet 0x29) d0 0x29) (fun c => c.trunc.isNone && !readsFull (sNet 0x29) (netQp c))
      (fun c => runsOut (sNet 0x29) c [2] (fun c => pkts (netTotal c 2)) (netUnit 2)) = true ∧
    meets (startable (sNet 0x2A) d0 0x2A) (fun c => c.trunc.isNone) (fun c => runsOut (sNet 0x2A) c [0] (fun c => pkts (netTotal c 0)) (netUnit 0)) = true ∧
    (∀ op ∈ [0x28, 0x29, 0x2A], meets (startable (sNet op (some (1, true))) d0 op) (fun c => c.trunc == some (1, true)) (fun _ => some 0) = true) := by
  refine ⟨?_, ?_, ?_, ?_⟩ <;> decide +kernel

/-! Values that the spec works out or states. -/

/-- R46 and the worked example of chapter 02: a block whose largest magnitude is about 5.3 gets scale 1; 5.3, 2.6 and 0.7 become 6, 3 and 0.5. -/
theorem test_mx_block : let b := mxBlock 8 0 (fun _ => 0) [.fin false 5427 (-10), .fin false 2662 (-10), .fin false 717 (-10)]
    b.1 = 127 ∧ b.2.1 = [7, 5, 1] := by decide +kernel
/-- Chapter 02: 300 converts to FP8 E4M3 as 288. -/
theorem test_e4m3_nearest : (encodeElem 3 0 0 (.fin false 300 0)).1 = 0x79 := by decide +kernel
/-- R211 and the worked example of chapter 09, with CLASS 0xE. -/
theorem test_spread_address : stackKey { regs := [(⟨.stkc, 0, 0, 0⟩, 0xE#32)] } 0x1234567800 = some (1213 * 2 ^ 30 + 0x03A40500) := by decide +kernel
/-- R147 and the worked example of chapter 07, summed exactly (the address printed there is 0xC000 above the sum of its own terms). -/
theorem test_frame_address :
    ({ kvOff := 0x15000000, layers := 72, kvHeads := 10, hDim := 128, sFmt := 3 } : JobCfg).chunkBase 517 23 1 + 40 * 163840 + 6 * 16384 + 6437 = 0x808165919925 := by
  decide +kernel
/-- R415 and the worked examples of chapter 17. -/
theorem test_offsets : decodeOff 0x3C84010 = some (.prt, 12, 0x010) ∧ decodeOff 0x1C000D8 = some (.prt, 12, 0x0D8) := by decide +kernel
/-- R430 and the worked example of chapter 18: sensor 124 belongs to stack 7. -/
theorem test_sensor_die : dieOf 124 = 1 + 7 := by decide
/-- R275 and the worked example of chapter 11. -/
theorem test_homes : (List.range 10).map (homeOrd { cfg := { spread := 10 }, parts := List.range 16 } 389) =
    [389, 517, 645, 773, 901, 1029, 1157, 5, 133, 261] := by decide +kernel
/-- R462: IDCODE at stepping B0. -/
theorem test_idcode : idcodeVal = 0x100205CB := by decide

/-- Bytes of the partition buffer after one command. -/
def bufAfter (i : Instr) (s : State) (a n : Nat) : List Byte := match exec i s with
  | .next t => getBs t.mem.pbuf (pbufKey 0 a) n
  | _ => []
def withBuf (s : State) (l : List Host.Cell) : State := { s with mem := { s.mem with pbuf := l } }
def sMul : State := oneD up 0x01 0 (slots012 ++ [(13, 0x3F800000)]) [t1x 9 0, t1x 9 64, t1x 11 128]
/-- Chapter 05: one INT8 product into an INT32 element; −2 × 3 is −6. -/
theorem test_matmul : bufAfter (.matmul d0) (withBuf sMul [(0, 2#8), (64, 3#8)]) 128 4 = [6#8, 0#8, 0#8, 0#8] := by decide +kernel
theorem test_matmul_sign : bufAfter (.matmul d0) (withBuf sMul [(0, 0xFE#8), (64, 3#8)]) 128 4 = [0xFA#8, 0xFF#8, 0xFF#8, 0xFF#8] := by decide +kernel
/-- A lane sum of 1.0 and 1.0 is 2.0; an INT32 sum wraps. -/
theorem test_lane_sum : (fadd 0x3F800000#32 0x3F800000#32).1 = 0x40000000#32 := by decide +kernel
/-- R317, INT32: an ADD of 1 to −1 leaves zero. -/
theorem test_atomic_add : bufAfter (.atomicAdd d0) (withBuf (sFlag 0x24 .waiting [(12, 0), (13, 1)]) [(0, 0xFF#8), (1, 0xFF#8), (2, 0xFF#8), (3, 0xFF#8)]) 0 4
    = [0#8, 0#8, 0#8, 0#8] := by decide +kernel

/-! Addresses past the spread window read zero: a request table whose second entry lies there holds at most one sequence. -/

theorem stackKey_high {s : State} {a : Nat} (h1 : spreadTop s ≤ a) (h2 : a < bankBase) : stackKey s a = none := by
  have hl : numHost s ≤ a / 256 / 1280 / 1048576 := by
    unfold spreadTop at h1
    omega
  have : (hostIdxs s)[a / 256 / 1280 / 1048576]? = none := List.getElem?_eq_none hl
  simp only [stackKey, h2, if_true, spreadKey, this]

theorem peek_high {s : State} {a : Nat} : ∀ n, spreadTop s ≤ a → a + n ≤ bankBase → peek s a n = List.replicate n 0#8 := by
  intro n h1 h2
  rw [peek, List.eq_replicate_iff]
  refine ⟨by simp, fun b hb => ?_⟩
  obtain ⟨i, hi, rfl⟩ := List.mem_map.mp hb
  have hi := List.mem_range.mp hi
  rw [hostKey, stackKey_high (by omega) (by omega)]
  rfl

theorem peekWords_high {s : State} {a : Nat} (n : Nat) (h1 : spreadTop s ≤ a) (h2 : a + 4 * n ≤ bankBase) : peekWords s a n = List.replicate n 0#32 := by
  rw [peekWords, List.eq_replicate_iff]
  refine ⟨by simp, fun b hb => ?_⟩
  obtain ⟨i, hi, rfl⟩ := List.mem_map.mp hb
  have hi := List.mem_range.mp hi
  rw [peekW, peek_high 4 (by omega) (by omega)]
  rfl

theorem ent_high {s : State} {j : Job} {n : Nat} (hn : n < 65536) (h1 : spreadTop s ≤ reqAddr j n) (h2 : j.cfg.reqTab < 0x400000000000) :
    ent s j n = List.replicate 32 0#32 := by
  unfold ent
  exact peekWords_high 32 h1 (by unfold reqAddr bankBase; omega)

/-- Only entry 0 of the table can meet a test that a FREE entry does not. -/
theorem reqsWhere_one {s : State} {j : Job} {p : List Word → Bool} (h1 : spreadTop s ≤ j.cfg.reqTab + 128) (h2 : j.cfg.reqTab < 0x400000000000)
    (hz : p (List.replicate 32 0#32) = false) : reqsWhere s j p = if p (ent s j 0) then [0] else [] := by
  have hr : List.range 65536 = 0 :: (List.range 65535).map (· + 1) := List.range_succ_eq_map
  rw [reqsWhere, hr, List.filter_cons]
  have : ((List.range 65535).map (· + 1)).filter (fun n => p (ent s j n)) = [] := by
    rw [List.filter_eq_nil_iff]
    intro n hn
    obtain ⟨i, hi, rfl⟩ := List.mem_map.mp hn
    have hi := List.mem_range.mp hi
    rw [ent_high (by omega) (by unfold reqAddr; omega) h2, hz]
    exact Bool.false_ne_true
  rw [this]

/-! Witnesses: Barista's ring records. -/

/-- Words in stack memory, given by address. -/
def withMem (s : State) (l : List (Nat × List Word)) : State := l.foldl (fun s (a, ws) => s.pokeWords a ws) s

/-- Just under the top of the spread window of `upMem`: the request table's entry 0 is in memory, the others are not. -/
def tabAt : Nat := 0xEFFFFFFF80

def cfg0 : JobCfg :=
  { reqTab := tabAt, ring := 0x400000, respTab := 0x500000, maxLen := 64, nRoot := 1, rootPool := 0x700000, nTlPage := 2, tlPool := 0x710000,
    adapTab := 0x800000, packPool := 0x900000, nPack := 1, layers := 1 }

/-- A job whose request ring holds one record, and whose response ring 0 lies in host memory. -/
def sRing (w : List Word) (more : List (Nat × List Word) := []) (cfg : JobCfg := cfg0) : State :=
  let s := withMem upMem ([(0x400000, w), (0x500000, rec_ 8 [(0, 2 + 4 * 256)])] ++ more)
  withJob s { jobWith [] [] with cfg := cfg, runs := [], ringTail := 1 }

def headOf (s : State) : List Word := headWords s (jobD s 0)
def handled (s : State) (kind : Nat) : Bool := handles s 0 && !discards s (jobD s 0) (headOf s) && recKind (headOf s) == kind

def rqRec : List Word := rec_ 32 [(0, 77), (2, 1), (4, 1), (5, 1)]
def sReq : State := sRing rqRec

/-- The state once Barista has read the head record. -/
def sReq1 : State := headSeen sReq 0
theorem witness_request : handled sReq 1 = true ∧ wfld (wAt (headOf sReq) 4) 20 0 ≠ 0 ∧ wfld (wAt (headOf sReq) 5) 20 0 ≠ 0 ∧
    wfld (wAt (headOf sReq) 4) 20 0 + wfld (wAt (headOf sReq) 5) 20 0 ≤ (jobD sReq1 0).cfg.maxLen ∧ wfld (wAt (headOf sReq) 4) 20 0 ≤ 992 ∧
    (promptOf sReq1 0 (headOf sReq)).1 = some [0#32] ∧ u64At (headOf sReq) 6 = 0 ∧
    freeReq (promptOf sReq1 0 (headOf sReq)).2 (jobD sReq1 0) = some 0 ∧ admitItems (jobD sReq1 0) 1 = some (0, 0, [1]) := by decide +kernel

def sCancel : State := sRing (rec_ 32 [(0, 77), (2, 2)]) [(tabAt, rec_ 32 [(0, 77), (2, 1)])]

def sCancel1 : State := headSeen sCancel 0
theorem witness_cancel : handled sCancel 2 = true ∧
    let ns := byAdmit sCancel1 (jobD sCancel1 0) (reqsWhere sCancel1 (jobD sCancel1 0) (fun e =>
      entActive e && u64At e 0 == recClient (headOf sCancel) && entRing e == recRing (headOf sCancel)))
    ns.filter (fun n => !wbit (wAt (ent sCancel1 (jobD sCancel1 0) n) 2) 10) ++ ns = [0, 0] := by
  refine ⟨by decide +kernel, ?_⟩
  rw [reqsWhere_one (by decide +kernel) (by decide +kernel) (by decide +kernel), if_pos (by decide +kernel), byAdmit, List.mergeSort_singleton]
  decide +kernel

def sPack : State :=
  sRing (rec_ 32 [(2, 3), (4, 5), (6, 0xA00000)]) [(0xA00000, rec_ 48 [(0, 0x4B574150), (1, 1 + 3 * 256), (2, 5)])] { cfg0 with adapTab := 0xF000000000 }
def sPack1 : State := headSeen sPack 0
def packBytes : List Byte := (readStack sPack1 0xA00000 192).1
def packPut : State := ((readStack sPack1 0xA00000 192).2.2).poke (packAddr (jobD sPack1 0) 0) packBytes

theorem livePack_high {s : State} {j : Job} {id : Nat} (h1 : spreadTop s ≤ j.cfg.adapTab) (h2 : j.cfg.adapTab < 0x400000000000) : livePack s j id = none := by
  rw [livePack, List.find?_eq_none]
  intro i hi
  have hi := List.mem_range.mp hi
  rw [adap, peekWords_high 8 (by unfold adapAddr; omega) (by unfold adapAddr bankBase; omega)]
  have h0 : adapState (List.replicate 8 0#32) = 0 := rfl
  rw [h0]
  simp

theorem witness_adapter_load : handled sPack 3 = true ∧ lowest (jobD sPack1 0) 1 .pack = some 0 ∧ freeAdap sPack1 (jobD sPack1 0) = some 1 ∧
    u64At (headOf sPack) 6 = 0xA00000 ∧ (segRuns 0xA00000 192).all (fun r => ratJob sPack1 0 [0] r.1) = true ∧ 0xA00000 + 192 ≤ spreadTop sPack1 ∧
    (readStack sPack1 0xA00000 192).2.1 = false ∧ packOk (jobD sPack1 0) (u64At (headOf sPack) 4) (bytesWords 16 packBytes) = true ∧
    livePack packPut (jobD sPack1 0) (u64At (headOf sPack) 4) = none := by
  refine ⟨?_, ?_, ?_, ?_, ?_, ?_, ?_, ?_, livePack_high ?_ ?_⟩ <;> decide +kernel

def sRetire : State := sRing (rec_ 32 [(2, 4), (4, 5)]) [(0x800020, rec_ 8 [(0, 5), (2, 0x10001)])]
theorem witness_adapter_retire : handled sRetire 4 = true ∧ 
    livePack (headSeen sRetire 0) (jobD (headSeen sRetire 0) 0) (u64At (headOf sRetire) 4) = some 1 := by decide +kernel

def sRingSet : State := sRing (rec_ 32 [(2, 5), (3, 1), (4, 2 + 4 * 256)])
theorem notBusy {s : State} {j : Job} {k : Nat} (h1 : spreadTop s ≤ j.cfg.reqTab + 128) (h2 : j.cfg.reqTab < 0x400000000000)
    (h3 : entActive (ent s j 0) = false) : ringBusy s j k = false := by
  rw [ringBusy, reqsWhere_one h1 h2 (by rfl), h3]
  rfl
theorem witness_ring_set : handled sRingSet 5 = true ∧ ringEntryOk (((headOf sRingSet).drop 4).take 8) = true ∧
    ringBusy (headSeen sRingSet 0) (jobD (headSeen sRingSet 0) 0) (recRing (headOf sRingSet)) = false := by
  refine ⟨by decide +kernel, by decide +kernel, notBusy ?_ ?_ ?_⟩ <;> decide +kernel

/-! Witnesses: steps. -/

def cfgF : JobCfg := { cfg0 with nOpen := 1, openPool := 0xB00000, progs := [(5#32, 1, 8, 0xFFFFFFFF)] }

/-- A sequence of one prompt token waits; nothing is in flight. -/
def sForm : State :=
  let s := withMem upMem [(tabAt, rec_ 32 [(2, 1), (5, 1), (6, 1), (10, 0x700000), (12, 0x710000), (14, 0xFFFFFFFF)])]
  let s := withJob s { jobWith [] [] with cfg := cfgF, runs := [] }
  { s with regs := (⟨.prt, 0, 0x054, 0⟩, 64#32) :: s.regs }
/-- Barista reads the entry and its root. -/
def sFormS : State := sForm.sees [(tabAt, 128), (0x700000, 576)]
def sForm1 : State := sFormS.applyStruck 0

theorem formSees : sForm.seesReqs 0 = sFormS := by
  have h : reqsWhere sForm (jobD sForm 0) (fun e => entActive e || entState e == 5) = [0] := by
    rw [reqsWhere_one (by decide +kernel) (by decide +kernel) (by decide +kernel), if_pos (by decide +kernel)]
  have ha : reqAddr (jobD sForm 0) 0 = tabAt := by decide +kernel
  have hr : entRoot (ent sForm (jobD sForm 0) 0) = 0x700000 := by decide +kernel
  unfold State.seesReqs
  dsimp only
  rw [h, List.map_cons, List.map_nil, List.flatten_cons, List.flatten_nil, List.append_nil, ha, hr, sFormS]

theorem ready1 : readySeqs sForm1 (jobD sForm1 0) = [viewOf sForm1 (jobD sForm1 0) 0] := by
  have h : reqsWhere sForm1 (jobD sForm1 0) (fun e => entActive e && !wbit (wAt e 2) 11) = [0] := by
    rw [reqsWhere_one (by decide +kernel) (by decide +kernel) (by decide +kernel), if_pos (by decide +kernel)]
  have hf : inFlight (jobD sForm1 0) = none := by decide +kernel
  unfold readySeqs
  rw [h, byAdmit, List.mergeSort_singleton, hf]
  rfl

theorem relieved1 : formRelieved sFormS 0 = sForm1 := by
  show State.relieve sForm1 0 (buildSlots sForm1 0 (jobD sForm1 0) false (readySeqs sForm1 (jobD sForm1 0))).need = sForm1
  rw [ready1, State.relieve, if_pos]
  decide +kernel

theorem witness_formation : mayForm sForm 0 = true ∧ ∃ e p xs jt,
    fitProg ((batchOrder (formSlots (formRelieved (sForm.seesReqs 0) 0) 0).1.slots).length + 1) (formSlots (formRelieved (sForm.seesReqs 0) 0) 0).1.j
      (batchOrder (formSlots (formRelieved (sForm.seesReqs 0) 0) 0).1.slots) = some ((e, p), xs, jt) := by
  refine ⟨by decide +kernel, ?_⟩
  rw [formSees, relieved1, formSlots, ready1]
  have h : (fitProg ((batchOrder (buildSlots sForm1 0 (jobD sForm1 0) true [viewOf sForm1 (jobD sForm1 0) 0]).slots).length + 1)
    (buildSlots sForm1 0 (jobD sForm1 0) true [viewOf sForm1 (jobD sForm1 0) 0]).j
    (batchOrder (buildSlots sForm1 0 (jobD sForm1 0) true [viewOf sForm1 (jobD sForm1 0) 0]).slots)).isSome = true := by decide +kernel
  obtain ⟨⟨⟨e, p⟩, xs, jt⟩, h⟩ := Option.isSome_iff_exists.mp h
  exact ⟨e, p, xs, jt, h⟩

def step0 : StepRun := { no := 1, epoch := 0, prog := 5#32, buf := 0, bt := 0, launched := true, runs := [(0, { stat := .done })] }
def sLaunch : State := withJob up { jobWith [] [] with runs := [], formed := some step0 }
def sCommit : State := withJob up { jobWith [] [] with runs := [step0] }
/-- A job that dissolves and has no step left, 3 s on. -/
def sLeave : State := let s := withJob up { jobWith [] [] with runs := [], dissolving := true, dissolveAt := 1 }; { s with time := { s.time with mono := 3 * 10 ^ 9 } }
theorem witness_launch_commit : mayLaunch sLaunch 0 = true ∧ commitReady sCommit 0 = some step0 ∧
    (jobD sLeave 0).dissolving = true ∧ (jobD sLeave 0).dissolveAt = 1 ∧ holdNs sLeave 0 ≤ sLeave.time.mono ∧ (jobD sLeave 0).debugHold = false := by decide +kernel

def sHeld : State :=
  let s := withJob (withMem upMem [(0x500000, rec_ 8 [(0, 2 + 4 * 256)])]) { jobWith [] [] with cfg := cfg0, runs := [], held := [⟨0, 0xFFFF, rec_ 16 []⟩] }
  { s with pcie := { s.pcie with apert := [(0, { valid := true, base := 0, size := 1, rd := true, wr := true, fn := 0 })] } }
theorem witness_held : ∃ j h c s1, job? sHeld 0 = some j ∧ j.saved = none ∧ sHeld.fatal = false ∧ j.held.find? (·.ring == 0) = some h ∧
    ringUp sHeld 0 0 (ringEnt sHeld j 0) = true ∧ readCredit sHeld 0 0 = (c, s1) ∧ (getT j.ringP 0).getD 0 - c < ringSize (ringEnt sHeld j 0) :=
  ⟨jobD sHeld 0, ⟨0, 0xFFFF, rec_ 16 []⟩, (readCredit sHeld 0 0).1, (readCredit sHeld 0 0).2, by decide +kernel, by decide +kernel,
    by decide +kernel, by decide +kernel, by decide +kernel, Prod.mk.eta.symm, by decide +kernel⟩

def cfgD : JobCfg := { cfg0 with reqTab := 0x600000, nPage := 17, pagePool := 0xC00000, nFrame := 2, kvOff := 0x30000000, kvHeads := 1, hDim := 1, sFmt := 3, demote := 1, digestBase := 0xE00000, spread := 1 }
/-- A sealed chunk 0 of sequence 0 in frame 0 of pseudo-channel 0, with its place in the block table. -/
def sDemote : State :=
  withJob (withMem upMem [(0x600000, rec_ 32 [(2, 2), (8, 64), (10, 0x700000)]), (0x700040, [0xC00000#32, 0x80000000#32]), (0xC00000, [0#32, 0x301#32])])
    { jobWith [] [] with cfg := cfgD, runs := [], demoteQ := [(0, 0)], used := [.frame 0 0] }

def entD : List Word := ent sDemote (jobD sDemote 0) 0
theorem witness_demotion : (jobD sDemote 0).demoteQ = [(0, 0)] ∧ entryAt sDemote (entRoot entD) 0 = some ⟨0, 0, 0, 3, 1, 0⟩ ∧ entActive entD = true ∧
    0 < entLen entD / 64 ∧ 16 ≤ freeOf (jobD sDemote 0) 17 .page ∧ pickHalf sDemote (jobD sDemote 0) (nAt entD 15) 0 = some (0, 1, 1) ∧
    ((demoteTiles sDemote 0 ⟨0, 0, 0, 3, 1, 0⟩ 0 1 1).editPool 0 (entRoot entD) 0 (demoteEnt sDemote entD 0 0 1 1) 0).isSome = true := by decide +kernel

/-! Witness: a program image that the loader accepts: one STEP_END descriptor and one tensor. -/

def imgAt : Nat := 0x1000000
def imgHdr : List Word := rec_ 64 [(0, 0x4B575350), (1, 1), (2, 8256), (3, 1), (4, 1), (5, 1), (10, 4096), (11, 8192), (16, 1), (17, 1)]
def imgDesc : List Word := rec_ 32 [(0, 0x3F + 256 * 3), (1, 9), (2, 0xFFFFFFFF), (3, 0xFFFFFFFF), (4, 0xFFFFFFFF), (5, 0xFFFFFFFF), (6, 0xFFFFFFFF), (7, 0xFFFFFFFF), (11, 1)]
def imgTens : List Word := tens 9 0 [1]
def cellsAt (s : State) (a : Nat) (bs : List Byte) : List Host.Cell := bs.zipIdx.filterMap (fun (b, i) => if b == 0#8 then none else (stackKey s (a + i)).map (fun k => (k, b)))
def imgBody : List Byte := zeros 3840 ++ wordsBytes imgDesc ++ zeros 3968 ++ wordsBytes imgTens
def sBase : State := withJob upMem { jobWith [] [] with progs := [], runs := [] }
/-- The image in memory with digest bytes D. -/
def sImg (D : List Byte) : State :=
  let s := sBase
  let dig : List Host.Cell := (List.range 32).map (fun i => ((stackKey sBase imgAt).getD 0 + 128 + i, D.getD i 0#8))
  let cells := cellsAt sBase imgAt (wordsBytes imgHdr) ++ cellsAt sBase (imgAt + 4096) (wordsBytes imgDesc) ++ cellsAt sBase (imgAt + 8192) (wordsBytes imgTens)
  { s with mem := { s.mem with dram := dig ++ cells }, fw := { s.fw with loadq := [⟨0, rec_ 8 [(0, imgAt), (2, 8256), (5, 0x2000000)], imgAt, 8256⟩] } }

theorem peek_append (s : State) (a m n : Nat) : peek s a (m + n) = peek s a m ++ peek s (a + m) n := by
  simp only [peek, List.range_add, List.map_append, List.map_map]
  congr 1
  apply List.map_congr_left
  intro i _
  simp only [Function.comp, Nat.add_assoc]

theorem stackKey_block {s : State} {x : Nat} (h : x < bankBase) :
    stackKey s x = (stackKey s (x / 256 * 256)).map (fun k => k + x % 256) ∧ ∀ k, stackKey s (x / 256 * 256) = some k → k % 256 = 0 := by
  have h0 : x / 256 * 256 / 256 = x / 256 := by omega
  have h1 : x / 256 * 256 % 256 = 0 := by omega
  have hb : x / 256 * 256 < bankBase := by omega
  simp only [stackKey, h, hb, if_true, spreadKey, h0, h1]
  split
  · simp
  · simp only [Option.map_some, Nat.add_zero, Option.some.injEq, true_and]
    intro k hk
    omega

theorem dieByte_clear {s : State} {k : Nat} (hw : s.mem.wcb = []) (hs : s.mem.synd = []) (hd : getB s.mem.dram k = 0#8) : dieByte s k = 0#8 := by
  have h2 : wcbByte s.mem k = none := by simp [wcbByte, wcbIdx, hw]
  have h3 : wordFind s.mem (k / 16) = .clean := by simp [wordFind, syndOf, hs, getT]
  unfold dieByte
  split
  · rfl
  · simp only [h2, dramByte, h3]
    split <;> exact hd

theorem getB_none {m : List Host.Cell} {k : Nat} (h : ∀ c ∈ m, c.1 ≠ k) : getB m k = 0#8 := by
  have : m.find? (fun p => p.1 == k) = none := by
    rw [List.find?_eq_none]
    intro c hc
    simpa using h c hc
  simp only [getB, getT, this]
  rfl

/-- Blocks of 256 B that no cell lies in. -/
def emptyBlock (s : State) (b : Nat) : Bool := match stackKey s (b * 256) with
  | some k => s.mem.dram.all (fun c => c.1 / 256 != k / 256)
  | none => true

theorem peek_zero {s : State} {a n : Nat} (hw : s.mem.wcb = []) (hs : s.mem.synd = []) (ha : a + n ≤ bankBase)
    (hb : (List.range (n / 256 + 2)).all (fun i => decide (a + n ≤ (a / 256 + i) * 256) || emptyBlock s (a / 256 + i)) = true) : peek s a n = zeros n := by
  rw [peek, zeros, List.eq_replicate_iff]
  refine ⟨by simp, fun b hm => ?_⟩
  obtain ⟨i, hi, rfl⟩ := List.mem_map.mp hm
  have hi := List.mem_range.mp hi
  obtain ⟨h1, h2⟩ := stackKey_block (s := s) (x := a + i) (by omega)
  have hbl := List.all_eq_true.mp hb ((a + i) / 256 - a / 256) (List.mem_range.mpr (by omega))
  rw [show a / 256 + ((a + i) / 256 - a / 256) = (a + i) / 256 by omega] at hbl
  have hbl : emptyBlock s ((a + i) / 256) = true := by
    rcases Bool.or_eq_true_iff.mp hbl with h | h
    · have := of_decide_eq_true h
      omega
    · exact h
  rw [hostKey, h1]
  cases hk : stackKey s ((a + i) / 256 * 256) with
  | none => rfl
  | some k =>
    simp only [Option.map_some, Option.bind_some]
    split <;> rename_i hk'
    swap
    · rfl
    obtain rfl := Option.some.inj (Option.ite_none_left_eq_some.mp hk').2
    apply dieByte_clear hw hs
    apply getB_none
    intro c hc hck
    have := h2 k hk
    simp only [emptyBlock, hk] at hbl
    have := List.all_eq_true.mp hbl c hc
    simp only [bne_iff_ne, ne_eq] at this
    omega

def qImg : List Word := rec_ 8 [(0, imgAt), (2, 8256), (5, 0x2000000)]
def sL : State := sImg (sha3 imgBody)

theorem img_body : (peek sL imgAt 8256).drop 256 = imgBody := by
  have e1 : peek sL (imgAt + 256) 3840 = zeros 3840 := peek_zero (by rfl) (by rfl) (by decide) (by decide +kernel)
  have e2 : peek sL (imgAt + 4096) 128 = wordsBytes imgDesc := by decide +kernel
  have e3 : peek sL (imgAt + 4224) 128 = zeros 128 := by decide +kernel
  have e4 : peek sL (imgAt + 4352) 3840 = zeros 3840 := peek_zero (by rfl) (by rfl) (by decide) (by decide +kernel)
  have e5 : peek sL (imgAt + 8192) 64 = wordsBytes imgTens := by decide +kernel
  have e0 : peek sL imgAt 8256 = peek sL imgAt 256 ++ (peek sL (imgAt + 256) 3840 ++ (peek sL (imgAt + 4096) 128 ++ (peek sL (imgAt + 4224) 128 ++
      (peek sL (imgAt + 4352) 3840 ++ peek sL (imgAt + 8192) 64)))) := by
    rw [← peek_append sL (imgAt + 4352), ← peek_append sL (imgAt + 4224), ← peek_append sL (imgAt + 4096), ← peek_append sL (imgAt + 256), ← peek_append]
  have hl : (peek sL imgAt 256).length = 256 := by rw [peek, List.length_map, List.length_range]
  have hz : zeros 3968 = zeros 128 ++ zeros 3840 := List.replicate_add 128 3840 0#8
  rw [e0, List.drop_left' hl, e1, e2, e3, e4, e5, imgBody, hz]
  simp only [List.append_assoc]

theorem stackKey_regs {s t : State} (h : s.regs = t.regs) (x : Nat) : stackKey s x = stackKey t x := by
  simp only [stackKey, spreadKey, bankKey, hostIdxs, isCremaIdx, classBits, regF, reg, rawW, h]
  rfl

theorem hostKey_regs {s t : State} (h : s.regs = t.regs) (x : Nat) : hostKey s x = hostKey t x := by
  unfold hostKey
  rw [stackKey_regs h]
  congr 1
  funext k
  rw [reg, rawW, h]
  rfl

/-- Is a stack in service: not in maintenance? -/
def inService (s : State) (st : Nat) : Bool := !bitN (reg s .stk st 0x008) 0
theorem inService_regs {s t : State} (h : s.regs = t.regs) (st : Nat) : inService s st = inService t st := by
  rw [inService, reg, rawW, h]
  rfl

theorem hostKey_of {s : State} {a k : Nat} (hk : stackKey s a = some k) (hm : inService s (keyStack k) = true) : hostKey s a = some k := by
  rw [hostKey, hk, Option.bind_some, if_neg (by simpa [inService] using hm)]

theorem dieByte_plain {s : State} {k : Nat} (hf : fillIdx s = none) (hw : s.mem.wcb = []) (hs : s.mem.synd = []) : dieByte s k = getB s.mem.dram k := by
  have h2 : wcbByte s.mem k = none := by simp [wcbByte, wcbIdx, hw]
  have h3 : wordFind s.mem (k / 16) = .clean := by simp [wordFind, syndOf, hs, getT]
  simp only [dieByte, hf, h2, dramByte, h3]
  simp

theorem getB_range {f : Nat → Byte} {k n i : Nat} {m : List Host.Cell} (hi : i < n) : getB ((List.range n).map (fun i => (k + i, f i)) ++ m) (k + i) = f i := by
  have h : ((List.range n).map (fun i => (k + i, f i)) ++ m).find? (fun p => p.1 == k + i) = some (k + i, f i) := by
    rw [List.find?_append, List.find?_map]
    have : (List.range n).find? ((fun p : Nat × Byte => p.1 == k + i) ∘ fun i => (k + i, f i)) = some i := by
      rw [List.find?_range_eq_some]
      refine ⟨by simp, by simpa using hi, fun j hj => ?_⟩
      simp only [Function.comp, Bool.not_eq_eq_eq_not, Bool.not_true, beq_eq_false_iff_ne, ne_eq]
      omega
    rw [this]
    rfl
  simp only [getB, getT, h]
  rfl

theorem img_digest (D : List Byte) : peek (sImg D) (imgAt + 128) 32 = (List.range 32).map (fun i => D.getD i 0#8) := by
  rw [peek]
  apply List.map_congr_left
  intro i hi
  have hi := List.mem_range.mp hi
  have hk : stackKey (sImg D) (imgAt + 128 + i) = some ((stackKey sBase imgAt).getD 0 + 128 + i) := by
    have hs : (stackKey sBase imgAt).isSome = true := by decide +kernel
    rw [(stackKey_block (by unfold imgAt bankBase; omega)).1, show (imgAt + 128 + i) / 256 * 256 = imgAt by unfold imgAt; omega,
      show (imgAt + 128 + i) % 256 = 128 + i by unfold imgAt; omega, stackKey_regs (t := sBase) (by rfl)]
    obtain ⟨k, hk⟩ := Option.isSome_iff_exists.mp hs
    rw [hk]
    simp only [Option.map_some, Option.getD_some, Nat.add_assoc]
  have hm : ∀ i, i < 32 → inService sBase (keyStack ((stackKey sBase imgAt).getD 0 + 128 + i)) = true := by decide +kernel
  rw [hostKey_of hk ((inService_regs (t := sBase) (by rfl) _).trans (hm i hi))]
  show dieByte (sImg D) _ = _
  rw [dieByte_plain (by rfl) (by rfl) (by rfl)]
  exact getB_range hi

theorem peek_take {s : State} {a m n : Nat} (h : m ≤ n) : (peek s a n).take m = peek s a m := by
  simp only [peek, ← List.map_take, List.take_range, Nat.min_eq_left h]

theorem peek_slice {s : State} {a o m n : Nat} (h : o + m ≤ n) : sliceB (peek s a n) o m = peek s (a + o) m := by
  have : peek s a n = peek s a o ++ (peek s (a + o) m ++ peek s (a + o + m) (n - o - m)) := by
    rw [← peek_append, ← peek_append, show o + (m + (n - o - m)) = n by omega]
  rw [this, sliceB, List.drop_left' (by simp [peek]), List.take_left' (by simp [peek])]

theorem natBytes_length : ∀ n x, (natBytes n x).length = n
  | 0, _ => rfl
  | n + 1, x => by rw [natBytes, List.length_cons, natBytes_length n]

theorem lanes_length (f : Nat → Nat → KLane) : (lanes f).length = 25 := by rw [lanes, List.length_map, List.length_range]

theorem permute_length (a : List KLane) : (permute a).length = 25 := by
  rw [permute, show List.range 24 = List.range 23 ++ [23] from List.range_succ, List.foldl_append]
  simp only [List.foldl_cons, List.foldl_nil, stepChiIota]
  exact lanes_length _

theorem sponge_length : ∀ n (a : List KLane) bs, a.length = 25 → (sponge n a bs).length = 25
  | 0, _, _, h => h
  | n + 1, _, _, _ => sponge_length n _ _ (permute_length _)

theorem sha3_length (l : List Byte) : (sha3 l).length = 32 := by
  have h := sponge_length ((sha3Pad l).length / sha3Rate) (lanes (fun _ _ => 0)) (sha3Pad l) (lanes_length _)
  simp only [sha3, List.length_flatten, List.map_map]
  generalize sponge _ _ _ = r at h
  have : (r.take 4).map (List.length ∘ fun w : KLane => natBytes 8 w.toNat) = List.replicate 4 8 := by
    rw [List.eq_replicate_iff]
    refine ⟨by rw [List.length_map, List.length_take, h]; rfl, fun b hb => ?_⟩
    obtain ⟨w, _, rfl⟩ := List.mem_map.mp hb
    exact natBytes_length 8 _
  rw [this]
  rfl

theorem sha3_digits (l : List Byte) : (List.range 32).map (fun i => (sha3 l).getD i 0#8) = sha3 l := by
  apply List.ext_getElem
  · simp [sha3_length]
  · intro i h1 h2
    simp [List.getD_eq_getElem?_getD, List.getElem?_eq_getElem h2]

theorem img_phase1 : phase1 sL (jobD sL 0) qImg (peek sL imgAt 8256) = none := by
  have hd : sha3 ((peek sL imgAt 8256).drop 256) = sliceB (peek sL imgAt 8256) 128 32 := by
    rw [img_body, peek_slice (by decide), sL, img_digest, sha3_digits]
  have h0 : ((reqReserved qImg || wAt qImg 4 != 0#32) = false) := by decide +kernel
  have h1 : imageRead sL (jobD sL 0) qImg = true := by decide +kernel
  have h2 : (decide (reqSize qImg < 256) || headerBad (headerOf (peek sL imgAt 8256)) (reqSize qImg)) = false := by decide +kernel
  have h3 : (maskParts (wfld (wAt (headerOf (peek sL imgAt 8256)) 3) 15 0) != (jobD sL 0).parts) = false := by decide +kernel
  have h4 : limitBad (headerOf (peek sL imgAt 8256)) = false := by decide +kernel
  have h5 : ¬ 8 ≤ (jobD sL 0).progs.length := by decide +kernel
  have hd : (sha3 ((peek sL imgAt 8256).drop 256) != sliceB (peek sL imgAt 8256) 128 32) = false := by rw [hd]; simp
  unfold phase1
  simp only [h0, h1, h2, h3, h4, hd]
  simp [h5]

def progL : Prog := parseImage (freshProgram sL) imgAt (peek sL imgAt 8256)
def vxL : VX := { s := sL, j := jobD sL 0, lead := 0, p := progL, img := peek sL imgAt 8256, seqs := progL.descs.map (seqOf progL (peek sL imgAt 8256)) }

theorem verify_of {s : State} {lead : Nat} {j : Job} {w : List Word} {id : Word} {img : List Byte} {p : Prog} {x : VX}
    (hi : img = (if imageRead s j w && reqSize w ≤ 150994944 then peek s (reqImage w) (reqSize w) else [])) (h1 : phase1 s j w img = none)
    (hp : p = parseImage id (reqImage w) img) (hx : x = { s := s, j := j, lead := lead, p := p, img := img, seqs := p.descs.map (seqOf p img) }) 
    (h2 : phase2 p = none) (h3 : phase3 x = none) (h4 : phase4 x = none) (h5 : phase5 p = none) (h6 : (phase6 x).1 = none) :
    verify s lead j w id = ({ code := 0, phase := 0, program := id }, some p, (phase6 x).2) := by
  unfold verify
  rw [← hi]
  dsimp only
  rw [h1, ← hp]
  dsimp only
  rw [← hx, h2]
  dsimp only
  rw [h3]
  dsimp only
  rw [h4]
  dsimp only
  rw [h5]
  dsimp only
  generalize phase6 x = q at h6 ⊢
  obtain ⟨a, b⟩ := q
  dsimp only at h6
  subst h6
  rfl

theorem witness_load : sL.fw.loadq = [⟨0, qImg, imgAt, 8256⟩] ∧ reqUnload qImg = false ∧ fwUp sL = true ∧ ∃ r p n, verify sL 0 (jobD sL 0) qImg (freshProgram sL) = (r, some p, n) ∧ r.code = 0 := by
  have h1 : (imageRead sL (jobD sL 0) qImg && decide (reqSize qImg ≤ 150994944)) = true := by decide +kernel
  have hi : reqImage qImg = imgAt := by decide +kernel
  have hz : reqSize qImg = 8256 := by decide +kernel
  have p2 : phase2 progL = none := by decide +kernel
  have p3 : phase3 vxL = none := by decide +kernel
  have p4 : phase4 vxL = none := by decide +kernel
  have p5 : phase5 progL = none := by decide +kernel
  have p6 : (phase6 vxL).1 = none := by decide +kernel
  have hp : parseImage (freshProgram sL) (reqImage qImg) (peek sL imgAt 8256) = progL := by rw [hi, progL]
  refine ⟨rfl, by decide +kernel, by decide +kernel, ?_⟩
  exact ⟨_, _, _, verify_of (((if_pos h1).trans (congr (congrArg (peek sL) hi) hz)).symm) img_phase1 hp.symm (by rw [vxL]) p2 p3 p4 p5 p6, rfl⟩

/-! Witnesses: loader, doorbells, fault resolutions. -/

def sLoaddb : State := partS [(⟨.prt, 0, 0x00C, 0⟩, 0x100000#32)] idleJob
def sUnload : State :=
  let s := withJob up idleJob
  { s with fw := { s.fw with loadq := [⟨0, rec_ 8 [(3, 1), (4, 5)], 0, 0⟩] } }
def sTrunc : State := partS [(⟨.prt, 0, 0x004, 0⟩, 7#32), (⟨.prt, 0, 0x040, 0⟩, 5#32)] { idleJob with debugHold := true }

theorem witness_loaders :
    (reaches sLoaddb .pf 0 = true ∧ isLead sLoaddb 0 = true ∧ (job? sLoaddb 0).isSome = true ∧
      jobReads sLoaddb (jobD sLoaddb 0) (argOf sLoaddb .pf 0) 32 = true ∧
      ((((sLoaddb.fnFlush .pf).wakeJob 0)).seen (argOf sLoaddb .pf 0) 32).fw.loadq.length < 16) ∧
    (∃ q, sUnload.fw.loadq = [q] ∧ reqUnload q.words = true ∧ fwUp sUnload = true ∧ reqReserved q.words = false ∧ reqImage q.words = 0 ∧
      reqSize q.words = 0 ∧ (progOf (jobD sUnload 0) (wAt q.words 4)).isSome = true ∧ progBusy (jobD sUnload 0) (wAt q.words 4) = false) ∧
    (reaches sTrunc .pf 0 = true ∧ isLead sTrunc 0 = true ∧ (jobD sTrunc 0).runs = [] ∧
      ∃ q, progOf (jobD sTrunc 0) (BitVec.ofNat 32 (reg (sTrunc.setRegF .prt 0 0x048 0 0 1) .prt 0 0x040)) = some q ∧ q.closing = false ∧
        pState (sTrunc.setRegF .prt 0 0x048 0 0 1) 0 = pDebug) := by
  refine ⟨?_, ⟨_, rfl, ?_⟩, ?_, ?_, ?_, _, rfl, ?_⟩ <;> decide +kernel

def sReqdb : State := partS [(⟨.prt, 0, 0x00C, 0⟩, 0x100000#32)] { idleJob with cfg := { ringLog := 4 } }
def sRingset : State :=
  let s := partS [(⟨.prt, 0, 0x00C, 0⟩, 0x100000#32)] { idleJob with cfg := cfg0 }
  s.pokeWords 0x100000 [1026#32]

theorem witness_doorbells :
    (reaches sReqdb .pf 0 = true ∧ isLead sReqdb 0 = true ∧ (job? sReqdb 0).isSome = true ∧
      jobReads ((sReqdb.fnFlush .pf).wakeJob 0) (jobD sReqdb 0) (argOf ((sReqdb.fnFlush .pf).wakeJob 0) .pf 0) 4096 = true ∧ ringFull (jobD sReqdb 0) = false) ∧
    (reaches sRingset .pf 0 = true ∧ isLead sRingset 0 = true ∧
      jobReads (sRingset.setRegF .prt 0 0x064 7 0 3) (jobD sRingset 0) (argOf (sRingset.setRegF .prt 0 0x064 7 0 3) .pf 0) 32 = true ∧
      ringEntryOk (peekWords (sRingset.setRegF .prt 0 0x064 7 0 3) (argOf (sRingset.setRegF .prt 0 0x064 7 0 3) .pf 0) 8) = true ∧
      ringBusy ((sRingset.setRegF .prt 0 0x064 7 0 3).seen (argOf (sRingset.setRegF .prt 0 0x064 7 0 3) .pf 0) 32) (jobD sRingset 0) 3 = false) := by
  refine ⟨by decide +kernel, by decide +kernel, by decide +kernel, by decide +kernel, by decide +kernel, notBusy ?_ ?_ ?_⟩ <;> decide +kernel

def flt (code : Nat) (pos : Option Nat) : PFault :=
  { code := code, words := [], pos := pos, inLast := pos.isNone, d := ⟨0, 1, 0⟩, inst := 0, cursor := 0, resumable := true, addr := 0, since := 0 }
def sFaults : State := { up with time := { mono := 10 ^ 9 }, parts := [(0, { lead := none, faults := [flt 0x5001 none, flt 0x1002 (some 3), flt 0x2001 (some 4)] })] }
def slotSel (s : State) (slot last action : Nat) : State := s.setRegF .prt 0 0x0D4 18 0 (last * 2 ^ 18 + action * 2 ^ 16 + slot % 65536)

theorem witness_resolutions :
    (reaches sFaults .pf 0 = true ∧ ∀ a ∈ [0, 2], pendingFault (slotSel sFaults 0 1 a) 0 0 true = some (flt 0x5001 none) ∧
      mayResolve .pf (flt 0x5001 none) a = true ∧ suspending (slotSel sFaults 0 1 a) 0 = false) ∧
    (reaches sFaults .fw 0 = true ∧ pendingFault (slotSel sFaults 4 0 1) 0 4 false = some (flt 0x2001 (some 4)) ∧ mayResolve .fw (flt 0x2001 (some 4)) 1 = true ∧
      suspending (slotSel sFaults 4 0 1) 0 = false) ∧
    ((part sFaults 0).faults[0]? = some (flt 0x5001 none) ∧ holdNs sFaults 0 ≤ sFaults.time.mono ∧ suspending sFaults 0 = false) ∧
    ((part sFaults.ueFinds 0).faults[1]? = some (flt 0x1002 (some 3)) ∧ fwUp sFaults = true ∧ suspending sFaults.ueFinds 0 = false) := by decide +kernel

/-! Witnesses: PRT_JOBCTL. -/

/-- A record at 1 MiB (Table 11.1), its areas side by side above 16 MiB. -/
def recAt : Nat := 0x100000
def jobRec : List Word := rec_ 128 [(0, 0x4B574A43), (1, 1), (2, 2048 + 4 * 65536), (3, 64), (4, 0x1000000), (6, 0x2000000), (8, 0x2100000), (10, 0x2200000),
  (12, 0x2400000), (14, 0x2500000), (16, 0x3000000), (18, 0x8000000), (20, 16), (21, 1024), (22, 1 + 65536 + 16777216), (23, 64 + 65536), (24, 0x30000000), (25, 1),
  (26, 0x8100000), (28, 0x8200000), (30, 1), (31, 1), (32, 0x8300000), (34, 0x8400000), (36, 512), (37, 1), (38, 0x8800000), (40, 0x9000000), (42, 0x9400000), (44, 1),
  (45, 64), (46, 1)]
def sForm0 : State := { upMem with
  regs := (⟨.prt, 0, 0x00C, 0⟩, 0x100000#32) :: upMem.regs, mem := { upMem.mem with dram := cellsAt upMem recAt (wordsBytes jobRec) } }
def cmdd (s : State) (n : Nat) : State := (s.setRegF .prt 0 0x008 2 0 n).wakeJob 0
theorem pair_of {p : Nat × JobCfg} (h : p.1 = 0) : ∃ g, p = (0, g) := ⟨p.2, by rw [← h]⟩

theorem witness_form : reaches sForm0 .pf 0 = true ∧ notVf .pf = true ∧ regF sForm0 .prt 0 0x008 11 8 ≠ 7 ∧
    pState (cmdd sForm0 1) 0 = pFree ∧ ∃ g, formCheck ((cmdd sForm0 1).seen (argOf (cmdd sForm0 1) .pf 0) 512) (argOf (cmdd sForm0 1) .pf 0) 0
      (peek ((cmdd sForm0 1).seen (argOf (cmdd sForm0 1) .pf 0) 512) (argOf (cmdd sForm0 1) .pf 0) 512) = (0, g) := by
  have ha : argOf (cmdd sForm0 1) .pf 0 = recAt := by decide +kernel
  have hb : peek ((cmdd sForm0 1).seen recAt 512) recAt 512 = wordsBytes jobRec := by decide +kernel
  have hc : (formCheck ((cmdd sForm0 1).seen recAt 512) recAt 0 (wordsBytes jobRec)).1 = 0 := by decide +kernel
  refine ⟨by decide +kernel, by decide +kernel, by decide +kernel, by decide +kernel, ?_⟩
  rw [ha, hb]
  exact pair_of hc

def withState (n : Nat) (j : Job) : State := partS [(⟨.prt, 0, 0x004, 0⟩, BitVec.ofNat 32 n)] j
def sIdle : State := withState 1 idleJob
def sDebug : State := withState 7 { idleJob with debugHold := true }

theorem ratJob_all {s : State} {perm a : Nat} {ps : List Nat} (hv : (ratEnt s 0).valid = true) (hp : bitN (ratEnt s 0).perm perm = true)
    (ho : ps.contains (ratEnt s 0).owner = true) (hw : (ratEnt s 0).window = 0) (hb : (ratEnt s 0).base = 0) (hs : a < (ratEnt s 0).size) (ha : a < bankBase) :
    ratJob s perm ps a = true := by
  refine List.any_eq_true.mpr ⟨ratEnt s 0, List.mem_filter.mpr ⟨List.mem_map.mpr ⟨0, List.mem_range.mpr (by decide), rfl⟩, hv⟩, ?_⟩
  simp [ratHits, hv, hp, hw, hb, hs, ha]
  exact List.contains_iff_mem.mp ho

theorem saveOk_of {s : State} {j : Job} (hj : j.parts = [0]) (h0 : saveBase s 0 = 0) (ht : saveSize ≤ spreadTop s) (hv : (ratEnt s 0).valid = true)
    (hp : bitN (ratEnt s 0).perm 0 = true ∧ bitN (ratEnt s 0).perm 1 = true) (ho : (ratEnt s 0).owner = 0) (hw : (ratEnt s 0).window = 0)
    (hb : (ratEnt s 0).base = 0) (hs : saveSize ≤ (ratEnt s 0).size) : saveOk s j = true := by
  have hc : [0].contains (ratEnt s 0).owner = true := by rw [ho]; rfl
  simp only [saveOk, hj, List.all_cons, List.all_nil, h0, Nat.zero_add, Bool.and_true, Bool.and_eq_true, decide_eq_true_eq, List.all_eq_true, List.mem_range]
  refine ⟨ht, fun i hi => ?_⟩
  unfold saveSize at hi hs
  exact ⟨ratJob_all hv hp.1 hc hw hb (by omega) (by unfold bankBase; omega), ratJob_all hv hp.2 hc hw hb (by omega) (by unfold bankBase; omega)⟩

theorem witness_job_commands :
    (reaches sIdle .pf 0 = true ∧ regF sIdle .prt 0 0x008 11 8 ≠ 7 ∧ isLead (cmdd sIdle 2) 0 = true ∧ (jobD (cmdd sIdle 2) 0).dissolving = false ∧
      pState (cmdd sIdle 3) 0 = pIdle ∧ pState (cmdd sIdle 5) 0 = pIdle ∧ (jobD (cmdd sIdle 3) 0).dissolving = false ∧
      (jobD (cmdd sIdle 5) 0).debugHold = false) ∧ saveOk (cmdd sIdle 3) (jobD sIdle 0) = true ∧
    (regF (setResult sIdle 0 7) .prt 0 0x008 11 8 = 7 ∧ isLead (cmdd (setResult sIdle 0 7) 2) 0 = true ∧
      (jobD (cmdd (setResult sIdle 0 7) 2) 0).dissolving = false) ∧
    reaches sDebug .pf 0 = true ∧ regF sDebug .prt 0 0x008 11 8 ≠ 7 ∧ pState (cmdd sDebug 6) 0 = pDebug ∧ (jobD (cmdd sDebug 6) 0).runs = [] := by
  refine ⟨?_, saveOk_of ?_ ?_ ?_ ?_ ?_ ?_ ?_ ?_ ?_, ?_⟩ <;> decide +kernel

/-! Witness: JOB_RESUME, with the saved header of 1 MiB standing at address 0. -/

def savedX : Saved := ⟨[], [], [], [], [], [], 0, 0, [], []⟩
/-- Where byte A of the first MiB lies (R211). -/
def lowKey (a : Nat) : Nat := ((a / 256 + a / 256 / 1280) % 1280) * 2 ^ 30 + a / 256 / 1280 * 1024 + a % 256

theorem lowLine : ∀ x, x < 4 → (Nat.xor (Nat.xor x (x / 32)) (x / 2048) = x ∧ x / 1048576 = 0 ∧ x % 1048576 = x ∧ fld x 19 6 = 0 ∧ fld x 3 2 = 0 ∧
    fld x 1 0 = x ∧ fld x 5 4 = 0) := by decide +kernel

theorem spreadKey_low {s : State} {a N : Nat} (h : (hostIdxs s)[0]? = some 0) (hN : N = 1048576) (ha : a < N) : stackKey s a = some (lowKey a) := by
  have hl : a / 256 / 1280 < 4 := by omega
  have hb : a < bankBase := by
    unfold bankBase
    omega
  obtain ⟨h1, h2, h3, h4, h5, h6, h7⟩ := lowLine _ hl
  simp only [stackKey, hb, if_true, spreadKey, lowKey, h1, h2, h3, h4, h5, h6, h7, h]
  exact congrArg some (by omega)

theorem lowKey_inj {a b N : Nat} (hN : N = 1048576) (ha : a < N) (hb : b < N) (h : lowKey a = lowKey b) : a = b := by
  unfold lowKey at h
  have p1 : a / 256 / 1280 < 4 := by omega
  have p2 : b / 256 / 1280 < 4 := by omega
  generalize hx : (a / 256 + a / 256 / 1280) % 1280 = x at h
  generalize hy : (b / 256 + b / 256 / 1280) % 1280 = y at h
  have q1 : a / 256 / 1280 = b / 256 / 1280 := by omega
  have q2 : x = y := by omega
  omega

theorem getB_image {k : Nat → Nat} {f : Nat → Byte} {N i : Nat} {m : List Host.Cell} (hk : ∀ a b, a < N → b < N → k a = k b → a = b) (hi : i < N) :
    getB ((List.range N).map (fun i => (k i, f i)) ++ m) (k i) = f i := by
  have h : ((List.range N).map (fun i => (k i, f i)) ++ m).find? (fun p => p.1 == k i) = some (k i, f i) := by
    rw [List.find?_append, List.find?_map]
    have : (List.range N).find? ((fun p : Nat × Byte => p.1 == k i) ∘ fun i => (k i, f i)) = some i := by
      rw [List.find?_range_eq_some]
      refine ⟨by simp, by simpa using hi, fun j hj => ?_⟩
      simp only [Function.comp, Bool.not_eq_eq_eq_not, Bool.not_true, beq_eq_false_iff_ne, ne_eq]
      exact fun he => absurd (hk _ _ (Nat.lt_trans hj hi) hi he) (Nat.ne_of_lt hj)
    rw [this]
    rfl
  simp only [getB, getT, h]
  rfl

theorem wakeJob_mem (s : State) (p : Nat) : (s.wakeJob p).mem = s.mem := by
  have h : ∀ (l : List Nat) (t : State), (l.foldl (fun s p => s.modPart p (fun q => { q with asleep := false, deep := false })) t).mem = t.mem := by
    intro l
    induction l with
    | nil => exact fun _ => rfl
    | cons x l ih => exact fun t => ih _
  unfold State.wakeJob
  split
  · rfl
  · exact h _ _
theorem cmdd_mem (s : State) (n : Nat) : (cmdd s n).mem = s.mem := wakeJob_mem _ _

def resumeBase : State := withState 5 { idleJob with saved := some savedX }
def sResume : State :=
  { resumeBase with mem := { resumeBase.mem with dram := (List.range 0x100000).map (fun i => (lowKey i, Config.freeByte 0 (2 ^ 44 + 0 * 2 ^ 24 + i))) ++ [] } }

theorem witness_resume : reaches sResume .pf 0 = true ∧ regF sResume .prt 0 0x008 11 8 ≠ 7 ∧ (jobD (cmdd sResume 4) 0).saved = some savedX ∧
    saveOk (cmdd sResume 4) (jobD sResume 0) = true ∧ headersStand (cmdd sResume 4) (jobD sResume 0) savedX = true := by
  refine ⟨?_, ?_, ?_, ?_, ?_⟩
  · decide +kernel
  · decide +kernel
  · decide +kernel
  · refine saveOk_of (by rfl) ?_ ?_ ?_ ?_ ?_ ?_ ?_ ?_ <;> decide +kernel
  · have hp : (jobD sResume 0).parts = [0] := by decide +kernel
    have h0 : saveBase (cmdd sResume 4) 0 = 0 := by decide +kernel
    have hi : (hostIdxs (cmdd sResume 4))[0]? = some 0 := by decide +kernel
    have hf : fillIdx (cmdd sResume 4) = none := by decide +kernel
    have hw : (cmdd sResume 4).mem.wcb = [] := by decide +kernel
    have hs : (cmdd sResume 4).mem.synd = [] := by decide +kernel
    have hd : (cmdd sResume 4).mem.dram =
      (List.range 0x100000).map (fun i => (lowKey i, Config.freeByte 0 (2 ^ 44 + 0 * 2 ^ 24 + i))) ++ [] := by rw [cmdd_mem, sResume]
    simp only [headersStand, hp, List.all_cons, List.all_nil, Bool.and_true, h0, beq_iff_eq, saveHeader, peek, savedX]
    generalize hN : 0x100000 = N at hd ⊢
    apply List.map_congr_left
    intro i hm
    have hm := List.mem_range.mp hm
    have hr : ∀ n, n < 20 → inService (cmdd sResume 4) n = true := by decide +kernel
    have hst : keyStack (lowKey i) < 20 := by
      unfold keyStack lowKey
      omega
    rw [Nat.zero_add, hostKey_of (spreadKey_low hi hN.symm hm) (hr _ hst)]
    show dieByte (cmdd sResume 4) (lowKey i) = _
    rw [dieByte_plain hf hw hs, hd]
    exact getB_image (k := lowKey) (f := fun i => Config.freeByte 0 (2 ^ 44 + 0 * 2 ^ 24 + i)) (fun a b => lowKey_inj hN.symm) hm

/-! Witnesses: firmware requests. -/

theorem fst_pair {α β : Type} {p : α × β} {a : α} (h : p.1 = a) : ∃ t, p = (a, t) := ⟨p.2, by rw [← h]⟩

def hPf : FwHdr := { cls := .pf }
def hBmc : FwHdr := { cls := .bmc }
def ratF : RatFields := { window := 0, owner := 0, base := 0, size := 1, perm := 63 }
/-- A bank-local region with a digest table, in a job of one partition that keeps no frame in it. -/
def sSealR : State := withRegs (withJob upMem idleJob) [(⟨.stkc, 0, 0x820, 0⟩, 0xC001007F#32)]
def clsRec : ClassRec := { rat := 1, sealIt := true, digtab := 0x1000000 }

theorem witness_region_requests : fwClass up hPf aPB = some .pf ∧ ratFieldsOk ratF = true ∧ ratChangeOk up 63 (ratWords ratF true) = true ∧
    ratChangeOk up 63 [0, 0, 0, 0, 0] = true ∧ fwClass sSealR hPf aPB = some .pf ∧ classFieldsOk clsRec = true ∧ (ratEnt sSealR 1).valid = true ∧
    sealable sSealR 1 0x1000000 = true ∧ (∃ t, up.classChange 3 true = (0, t)) := by
  refine ⟨?_, ?_, ?_, ?_, ?_, ?_, ?_, ?_, fst_pair ?_⟩ <;> decide +kernel

def pairRec : List Byte := wordsBytes (rec_ 32 [(0, 0x4B575052), (1, 0x100), (4, 0x1000000), (6, 0x100000), (7, 1), (8, 0x2000000), (10, 4096), (12, 0x3000000),
  (14, 0x4000000)])
def qpF : QpFields := { st := 4, job := 0, purpose := 1, peer := 0xFFFFFFFF, rqpn := 1, sndPsn := 0, rcvPsn := 0, port := 15 }
def sPaired : State := withJob up { idleJob with pair := { st := .paired } }
def sHeldFw : State := withJob up { idleJob with heldFw := true }
def sPairSet : State := withJob upMem idleJob

theorem witness_pair_requests : qpFieldsOk 16383 qpF = true ∧ qpF.st ≠ 3 ∧ (qpOf up 16383).unacked = [] ∧ (ratEnt upMem 0).valid = true ∧
    fwClass upMem hPf aPB = some .pf ∧ bitN (ratEnt upMem 0).perm 2 = true ∧ bitN (ratEnt upMem 0).perm 3 = true ∧
    fwClass sPairSet hPf aPB = some .pf ∧ pairFormOk pairRec = true ∧ job? sPairSet (leAt pairRec 4 1) = some idleJob ∧ pairFits sPairSet idleJob pairRec = true ∧
    fwClass sPaired hPf aPB = some .pf ∧ (jobD sPaired 0).pair.st ≠ .unpaired ∧ fwClass sHeldFw hPf aPB = some .pf ∧ (jobD sHeldFw 0).heldFw = true := by
  decide +kernel

/-- A configuration write that has begun. -/
def sCfgW : State := { up with fw := { up.fw with cfgWrite := some [] } }
theorem witness_setting_requests : (settingWrite up .pf 0x200028 4095#32 2000#32).status = stOk ∧ fwClass sCfgW hPf aPB = some .pf ∧
    sCfgW.fw.cfgWrite = some [] := by decide +kernel

/-- FW_UPDATE and KEY_REVOKE rest on the device's root keys and on ML-DSA, which the model leaves open: their witnesses take them as given. -/
theorem witness_key_revoke (k g : List Byte) (hk : k.length = 1312) (hg : g.length = 2420) (hd : sha3 k = Config.rootKeyDigest 1)
    (hv : Config.mldsaVerify k g (sha3 [BitVec.ofNat 8 3]) = true) :
    fwClass up hPf aPB = some .pf ∧ k.length = 1312 ∧ g.length = 2420 ∧ bitN up.fuse.revoked 3 = false ∧ bitN up.fuse.revoked 1 = false ∧
      sha3 k = Config.rootKeyDigest 1 ∧ Config.mldsaVerify k g (sha3 [BitVec.ofNat 8 3]) = true := by
  refine ⟨?_, hk, hg, ?_, ?_, hd, hv⟩ <;> decide +kernel

theorem witness_fw_update (img : State → List Byte) (h : imageFail (upMem.seen 0x1000000 0x2001) (img upMem) = 0)
    (hp : peek upMem 0x1000000 0x2001 = img upMem) :
    fwClass upMem hPf aPB = some .pf ∧ imageOwned upMem 0x1000000 0x2001 = true ∧
      imageFail (upMem.seen 0x1000000 0x2001) (peek upMem 0x1000000 0x2001) = 0 := by
  refine ⟨by decide +kernel, by decide +kernel, hp ▸ h⟩

def sBmcS : State := withRegs up [(⟨.mgt, 1, 0x038, 0⟩, 1#32)]
def sBmcT : State := { sBmcS with time := { sBmcS.time with mono := minuteNs } }
/-- Flash cells hold the complement (unlisted cells read as erased). -/
def sCert : State := { up with fw := { up.fw with flash := (List.zip (List.range 4) [0xCF#8, 0x7D#8, 0xFF#8, 0xEF#8]).map (fun (i, b) => (identityAt + i, b)) } }
def sArv : State := withRegs up [(⟨.mgt, 0, 0x010, 0⟩, 0xFF00#32)]
def sCeil : State := withRegs sBmcS [(⟨.thm, 0, 0x028, 0⟩, 1600#32)]

theorem witness_security_requests : fwClass up hPf 7 = some .pf ∧ fwClass sCert hPf 15 = some .pf ∧
    byteAt (flashRead sCert identityAt 4) 0 = 0x30 ∧ byteAt (flashRead sCert identityAt 4) 1 = 0x82 ∧
    byteAt (flashRead sCert identityAt 4) 2 * 256 + byteAt (flashRead sCert identityAt 4) 3 = 16 ∧
    fwClass sArv hPf aPB = some .pf ∧ sArv.fuse.arvcnt = 0 ∧ regF sArv .mgt 0 0x010 15 8 = 255 ∧
    fwClass sBmcS hBmc 4 = some .bmc ∧ sBmcS.jobs = [] ∧ sBmcS.fuse.layoutChg = 0 ∧
    fwClass sCeil hBmc 4 = some .bmc ∧ regF sCeil .thm 0 0x028 11 0 = 1600 ∧ sCeil.fuse.ceilRaise = 0 ∧
    fwClass up hBmc 12 = some .bmcU ∧ up.fw.refuseUntil ≤ up.time.mono ∧
    session sBmcT = true ∧ sBmcT.fw.lastSmb + minuteNs ≤ sBmcT.time.mono := by decide +kernel

/-! Witnesses: stacks and resilience. -/

/-- Stack 19 in maintenance, stack 0 asleep, stack 1 in service; index 3 being filled; a buffered write. -/
def sStk : State := withRegs { up with
    stk := { fill := some (3, true) }, mem := { up.mem with wcb := [{ stack := 19, seg := 5, bytes := [], parts := [0], last := 0, descs := [] }] },
    fw := { up.fw with ueSegs := [] }, time := { up.time with now := 2000, mono := 10000000 } }
  [(⟨.stk, 19, 0x008, 0⟩, 1#32), (⟨.stk, 0, 0x008, 0⟩, 8#32), (⟨.stk, 1, 0x008, 0⟩, 0#32)]
def rpr (n : Nat) : State := sStk.setRegF .stk 19 0x100 2 0 n
/-- A row of bank 3 of pseudo-channel 0 waits for its targeted refresh. -/
def sRow : State := { up with stk := { up.stk with rhRows := [(3, [7])], postponed := [(3, 2)] } }

theorem witness_stack_settings : grdClass sStk .fw = true ∧ ratChangeOk up 63 [0, 4096, 0, 0, 0] = true ∧ grdClass up .fw = true ∧
    spareFree (rpr 2) (keyBankId (rprKey (rpr 2) 19)) = some 0 ∧ inMaint (rpr 3) 19 = true ∧
    (∃ t, (rpr 3).hardRow (keyBankId (rprKey (rpr 3) 19)) (keyRow (rprKey (rpr 3) 19)) true = (0, t)) ∧ inMaint (rpr 5) 19 = true ∧
    inMaint (rpr 6) 19 = true := by
  refine ⟨?_, ?_, ?_, ?_, ?_, fst_pair ?_, ?_, ?_⟩ <;> decide +kernel

theorem witness_stack_clocks : (∃ e, sStk.mem.wcb.find? (fun e => e.stack == 19 && e.seg == 5) = some e ∧ e.last + 2000 ≤ sStk.time.now) ∧
    stackIdle sStk = true ∧ bitN (reg sStk .stk 0 0x008) 3 = true ∧ fwUp sStk = true ∧ sStk.stk.fill = some (3, true) ∧
    (getT sRow.stk.rhRows (0 * 64 + 3 % 64)).getD [] = [7] ∧ (getT sStk.stk.rhRows (0 * 64 + 3 % 64)).getD [] = [] :=
  ⟨⟨_, rfl, by decide⟩, by decide +kernel, by decide +kernel, by decide +kernel, rfl, by decide, by decide⟩

/-- Row 16,383 of the last bank held an uncorrectable word. -/
def sRepair : State := { up with fw := { up.fw with ueSegs := [((1279 * 2 ^ 30 + 2 ^ 28 - 2 ^ 14) / 64, 0)] } }

theorem witness_resilience : repairDue sRepair (1279 * 64) 16383 = true ∧ isCremaIdx sRepair 0 = false ∧ fwUp sRepair = true ∧
    sStk.fw.patrolRate ≠ 0 ∧ bitN (reg sStk .stk 1 0x008) 1 = false ∧ bitN (reg sStk .stk 1 0x008) 0 = false ∧ sStk.fatal = false ∧
    (∀ k ∈ [SramKind.mgtMem, .retention, .flagStore, .qpStore, .keyTables, .barista],
      ∃ n, remapEntries k = some n ∧ (up.sramRemap.filter (fun x => x.1 == k && sameTable k x.2.1 0)).length < n) := by
  refine ⟨by decide +kernel, by decide +kernel, by decide +kernel, by decide, by decide +kernel, by decide +kernel, rfl, fun k hk => ?_⟩
  simp only [List.mem_cons, List.not_mem_nil, or_false] at hk
  rcases hk with rfl | rfl | rfl | rfl | rfl | rfl <;> exact ⟨_, rfl, by decide⟩

/-- A sealed bank-local region of partition 0 whose digest table's first entry, at stack address 0, is D. -/
def sDig (D : List Byte) : State :=
  let s := withRegs (withJob upMem idleJob) [(⟨.stkc, 0, 0x820, 0⟩, 0xC001007F#32), (⟨.stkc, 0, 0x824, 0⟩, 0x30000000#32), (⟨.stkc, 0, 0x82C, 0⟩, 0x80#32)]
  { s with fw := { s.fw with sealedR := [1], regionClass := [(1, { rat := 1, digtab := 0 })] },
           mem := { s.mem with dram := (List.range 32).map (fun i => (0 + i, D.getD i 0#8)) ++ [] } }
def dig0 : List Byte := sha3 (zeros 0x100000)

theorem block_zero (D : List Byte) : blockBytes (sDig D) (ratEnt (sDig D) 1) 0 = zeros 0x100000 := by
  have ha : blockAddr (ratEnt (sDig D) 1) 0 - bankBase = 0x30000000 := by
    have : ratEnt (sDig D) 1 = ratEnt (sDig []) 1 := rfl
    rw [this]
    decide +kernel
  rw [blockBytes, ha, getBs, zeros, List.eq_replicate_iff]
  generalize 0x100000 = n
  refine ⟨by simp, fun b hb => ?_⟩
  obtain ⟨i, _, rfl⟩ := List.mem_map.mp hb
  apply getB_none
  intro c hc
  have hc : c ∈ (List.range 32).map (fun i => (0 + i, D.getD i 0#8)) ++ [] := hc
  rw [List.append_nil] at hc
  obtain ⟨j, hj, rfl⟩ := List.mem_map.mp hc
  have := List.mem_range.mp hj
  show 0 + j ≠ _
  omega

theorem table_entry (D : List Byte) : peek (sDig D) 0 32 = (List.range 32).map (fun i => D.getD i 0#8) := by
  rw [peek]
  apply List.map_congr_left
  intro i hi
  have hi := List.mem_range.mp hi
  have hk : stackKey (sDig D) (0 + i) = some (0 + i) := by
    rw [stackKey_regs (t := sDig []) (by rfl)]
    have h : ∀ i, i < 32 → stackKey (sDig []) (0 + i) = some (0 + i) := by decide +kernel
    exact h i hi
  have hm : ∀ i, i < 32 → inService (sDig []) (keyStack (0 + i)) = true := by decide +kernel
  rw [hostKey_of hk ((inService_regs (t := sDig []) (by rfl) _).trans (hm i hi))]
  show dieByte (sDig D) _ = _
  rw [dieByte_plain (by rfl) (by rfl) (by rfl)]
  exact getB_range hi

def flipB (D : List Byte) : List Byte := D.map (· ^^^ 1#8)
theorem bad_iff (D : List Byte) : blockBad (sDig D) 1 0 = (dig0 != (List.range 32).map (fun i => D.getD i 0#8)) := by
  have hc : (classRec (sDig D) 1).digtab + 32 * 0 = 0 := rfl
  rw [blockBad, block_zero, hc, table_entry, dig0]

theorem witness_digest_scrub : (∀ D, (sDig D).fatal = false ∧ (sDig D).fw.digestRate ≠ 0 ∧ ownerLead (sDig D) (ratEnt (sDig D) 1) = some 0 ∧
      (sDig D).fw.sealedR.contains 1 = true ∧ 0 < regionBlocks (ratEnt (sDig D) 1) ∧ fetching (sDig D) 1 0 = false) ∧
    blockBad (sDig dig0) 1 0 = false ∧ blockBad (sDig (flipB dig0)) 1 0 = true := by
  refine ⟨fun D => ⟨rfl, ?_, ?_, ?_, ?_, rfl⟩, ?_, ?_⟩
  · have : (sDig D).fw.digestRate = (sDig []).fw.digestRate := rfl
    rw [this]
    decide
  · have : ownerLead (sDig D) (ratEnt (sDig D) 1) = ownerLead (sDig []) (ratEnt (sDig []) 1) := rfl
    rw [this]
    decide +kernel
  · have : (sDig D).fw.sealedR = (sDig []).fw.sealedR := rfl
    rw [this]
    decide +kernel
  · have : ratEnt (sDig D) 1 = ratEnt (sDig []) 1 := rfl
    rw [this]
    decide +kernel
  · rw [bad_iff, dig0, sha3_digits]
    exact bne_self_eq_false _
  · rw [bad_iff, bne_iff_ne, ne_eq]
    have hl : dig0.length = 32 := sha3_length _
    generalize dig0 = d at hl
    intro h
    have h0 := congrArg (fun l => l.getD 0 0#8) h
    cases d with
    | nil => exact absurd hl (by decide)
    | cons b t =>
      simp only [flipB, List.map_cons, List.getD_cons_zero] at h0
      have : (List.map (fun i => ((b ^^^ 1#8) :: List.map (· ^^^ 1#8) t).getD i 0#8) (List.range 32)).getD 0 0#8 = b ^^^ 1#8 := by
        rw [List.getD_eq_getElem?_getD, List.getElem?_map, List.getElem?_range (by decide)]
        rfl
      rw [this] at h0
      have hx : (b ^^^ b) = (b ^^^ (b ^^^ 1#8)) := congrArg (b ^^^ ·) h0
      rw [← BitVec.xor_assoc, BitVec.xor_self, BitVec.zero_xor] at hx
      exact absurd hx (by decide)

/-! Witnesses: packets, ports, the pair's partner, the host link. -/

def netS (x : Qp) (j : Job := idleJob) : State :=
  { withJob upMem j with net := { qps := [(2, x)], keys := [(5, { valid := true, job := 0, rat := 0, nrd := true, nwr := true })] } }
def hNet : NetHdr := { src := 0, qp := 2, psn := 0 }
def sSend : State := netS { st := .rts, purpose := 1 } { idleJob with cfg := { ringLog := 4 } }
def pairJob : Job := { idleJob with pair := { st := .paired, record := pairRec, lastHeard := 0 } }
def sDec : State := netS { st := .rtr, purpose := 3, peer := 0 } pairJob
def decMsg (ty : Nat) : List Byte := wordsBytes (rec_ 16 [(0, 0x4B574443), (1, 256 + ty)])

theorem witness_messages :
    (netTakes sSend hNet ∧ job? (netIn sSend hNet 4096) (qpOf (netIn sSend hNet 4096) 2).job = some { idleJob with cfg := { ringLog := 4 } } ∧
      (qpOf (netIn sSend hNet 4096) 2).purpose = 1 ∧ ringFull { idleJob with cfg := { ringLog := 4 } } = false) ∧
    (netTakes sDec hNet ∧ job? (netIn sDec hNet 64) (qpOf (netIn sDec hNet 64) 2).job = some pairJob ∧ (qpOf (netIn sDec hNet 64) 2).purpose = 3 ∧
      pairPeer pairJob = (qpOf (netIn sDec hNet 64) 2).peer ∧ rxRoom pairJob 64 = true ∧
      (∀ ty ∈ [1, 2, 3, 4, 5, 6], decType (decMsg ty) = some ty ∧ (decMsg ty).length = 64)) ∧
    keyOk (netIn sSend hNet 16) (qpOf (netIn sSend hNet 16) 2) 5 0x1000000 16 3 = true ∧
    keyOk (netIn sSend hNet 0) (qpOf (netIn sSend hNet 0) 2) 5 0x1000000 16 2 = true ∧
    readsOwed (netIn sSend hNet 0) 2 < 16 ∧ (readStack (netIn sSend hNet 0) 0x1000000 16).2.1 = false := by
  have h1 : netTakes sSend hNet := ⟨.inr (by rfl), by rfl, by decide⟩
  have h2 : netTakes sDec hNet := ⟨.inl (by rfl), by rfl, by decide⟩
  refine ⟨⟨h1, ?_⟩, ⟨h2, ?_⟩, ?_⟩ <;> decide +kernel

def om : OutMsg := { psn := 0, last := 0, kind := 1, va := 0, rkey := 0, imm := none, len := 0, data := [], d := none, ring := none, seqno := none }
/-- Every port of die 0 up (NET_LINK.UP), retry limits 7 (log entry 2: the reset values). -/
def upNet : State := withRegs up [(⟨.net, 0, 0x008, 0⟩, 15#32), (⟨.net, 0, 0x1004, 0⟩, 0xFC0#32)]
def sUnack : State := { upNet with net := { qps := [(2, { st := .rts, unacked := [om] }), (3, { st := .rts, unacked := [om], retries := 7 }),
  (4, { st := .rts, rnrWait := true })] } }

theorem witness_answers : (qpOf sUnack 2).st = .rts ∧ (qpOf sUnack 2).unacked ≠ [] ∧ (qpOf sUnack 2).rnrWait = false ∧
    (qpOf sUnack 2).retries < regF sUnack .net 0 0x1004 8 6 ∧
    portIsUp (sUnack.modQp 2 (fun x => { x with retries := x.retries + 1 })) (qpOf sUnack 2).port = true ∧
    regF ((answerIn sUnack 2 0).acked 2 (seqSub 5 1) []) .net 0 0x1004 11 9 = 7 ∧
    (qpOf sUnack 3).st = .rts ∧ (qpOf sUnack 3).unacked ≠ [] ∧ (qpOf sUnack 3).rnrWait = false ∧ regF sUnack .net 0 0x1004 8 6 ≤ (qpOf sUnack 3).retries ∧
    (qpOf sUnack 4).st = .rts ∧ (qpOf sUnack 4).rnrWait = true := by decide +kernel

/-- An open client's REQ (no coupling record) for purpose 1 of partition 0's job; contexts that wait for a REP and for an RTU. -/
def sCm : State := { withRegs (withJob upNet idleJob) [(⟨.net, 0, 0x1000, 0⟩, 1#32)] with net := { qps := [(2, { st := .init }), (3, { st := .rtr })] } }
def cmReq : CmMsg := { src := 7, serviceId := 0x4B5700000001 }
def cmAt (q : Nat) : CmMsg := { src := 0, localQpn := q }
theorem witness_connection : fwUp sCm = true ∧ somePort sCm = some 0 ∧ reqReason sCm cmReq (reqCoupled sCm cmReq) = none ∧ freeQp sCm = some 4 ∧
    (qpOf sCm (cmAt 2).localQpn).st = .init ∧ (cmAt 2).src = (qpOf sCm (cmAt 2).localQpn).addr ∧
    (qpOf sCm (cmAt 3).localQpn).st = .rtr ∧ (cmAt 3).src = (qpOf sCm (cmAt 3).localQpn).addr := by decide +kernel

def sPorts : State := withRegs up [(⟨.net, 3, 0x004, 0⟩, 2#32), (⟨.net, 3, 0x008, 0⟩, 7#32), (⟨.net, 3, 0x010, 0⟩, 0xFF00#32), (⟨.net, 3, 0x014, 0⟩, 100#32)]
def sPause : State := { sPorts with
  time := { sPorts.time with mono := 10 ^ 10 },
  net := { paused := [(pauseKey 3 3 7, 0)], ignoring := [(pauseKey 3 2 7, 0)] } }
theorem witness_ports : diePorts sPorts 3 = 4 ∧ bitN (reg sPorts .net 3 0x008) 2 = true ∧ bitN (reg sPorts .net 3 0x008) 3 = false ∧
    pauseOk sPause 3 0 7 = true ∧ bitN (regF sPause .net 3 0x010 15 8) 7 = true ∧ getT sPause.net.ignoring (pauseKey 3 0 7) = none ∧
    getT sPause.net.paused (pauseKey 3 0 7) = none ∧ pauseOk sPause 3 3 7 = true ∧ getT sPause.net.paused (pauseKey 3 3 7) = some 0 ∧
    regF sPause .net 3 0x014 15 0 = 100 ∧ 100 * 1000000 ≤ sPause.time.mono ∧ pauseOk sPause 3 2 7 = true ∧
    getT sPause.net.ignoring (pauseKey 3 2 7) = some 0 ∧ portIsUp sPorts 14 = true ∧ fwUp sPorts = true := by decide +kernel

def sPairT : State := { withJob up pairJob with time := { up.time with mono := 3000000 } }
theorem witness_pair_timers : pairLive (jobD sPairT 0) = true ∧ (jobD sPairT 0).saved = none ∧ inHold (jobD sPairT 0) = false ∧ (jobD sPairT 0).pair.lastHeard + 3000000 ≤ sPairT.time.mono ∧ sPairT.fatal = false ∧
    (jobD (withJob up { idleJob with pair := { st := .broken } }) 0).pair.st = .broken := by decide +kernel

def sVf : State := { up with pcie := { up.pcie with reads := [{ tag := 9, part := 0, addr := 0, len := 4, d := some ⟨0, 1, 0⟩, inst := 0 }] } }
theorem witness_host_link : sVf.pcie.perstLow = false ∧ sVf.pin.stopped = false ∧ inRecovery sVf = false ∧ vfUp sVf 15 = true ∧
    (∃ r, sVf.pcie.reads.find? (fun r => r.tag == 9) = some r ∧ r.d = some ⟨0, 1, 0⟩) ∧
    ({ sVf with pcie := { sVf.pcie with perstLow := true } } : State).pcie.perstLow = true := by
  refine ⟨by decide +kernel, by decide +kernel, by decide +kernel, by decide +kernel, ⟨_, rfl, rfl⟩, rfl⟩

/-! Witnesses: registers, time, temperature, starts, housekeeping, slow ports. -/

theorem witness_registers : classNow up .pf = some .pf ∧ hasMbx .pf = true ∧
    (∀ o, o = 0x010 ∨ o = 0x04C ∨ o = 0x13C → regAt up .pf (0xDE0000 + o) = some (.dbg, 15, o) ∧ (ringAt up .dbg 15 o).isSome = true) ∧
    regAt up .pf 0xE0000C = some (.dbgc, 0, 0x00C) ∧ (ringAt up .dbgc 0 0x00C).isSome = true := by
  refine ⟨by decide +kernel, by decide +kernel, ?_, by decide +kernel, by decide +kernel⟩
  rintro o (rfl | rfl | rfl) <;> decide +kernel

def sTim : State := withRegs { upNet with time := { upNet.time with mono := 10 ^ 15 }, pin := { upNet.pin with alertAt := some 0 } }
  [(⟨.tim, 0, 0x028, 0⟩, 0x70001#32), (⟨.tim, 0, 0x010, 0⟩, 2#32), (⟨.tim, 0, 0x030, 0⟩, 0xC00F4240#32)]
theorem witness_time : portIsUp sTim 0 = true ∧ fwUp sTim = true ∧ regF sTim .tim 0 0x028 23 16 = 7 ∧ bitN (reg sTim .tim 0 0x028) 0 = true ∧
    regF sTim .tim 0 0x010 23 20 = 0 ∧ timState sTim = tLocked ∧ grdClass sTim .fw = true ∧ regF sTim .tim 0 0x030 30 30 = 1 ∧ regF sTim .tim 0 0x030 31 31 = 1 ∧
    sTim.pin.alertAt = some 0 ∧ regF sTim .thm 0 0x000 9 9 = 0 ∧ 1000000000 ≤ sTim.time.mono ∧ timState (sTim.setTim tHoldover) = tHoldover ∧
    sTim.time.holdStart + 1000000000 * regF (sTim.setTim tHoldover) .tim 0 0x02C 31 16 ≤ sTim.time.mono := by decide +kernel

/-! Samples: nothing trips; a compute-die sensor exactly at TRIP; two broken sensors on a stack die. -/

def cold : List (Option Reading) := []
def hot : List (Option Reading) := [some { temp := 440 }]
def upBroken : State := { up with thm := { up.thm with sensors := [(80, { temp := 380, broken := true }), (81, { temp := 380, broken := true })] } }

theorem witness_no_trip : up.pin.thermtrip = false ∧ up.pin.stopped = false ∧ fwUp up = true ∧ ∀ d, d < 26 → tripOf (sampleAll up cold) d = none := by
  refine ⟨rfl, rfl, by decide +kernel, ?_⟩
  decide +kernel

theorem witness_hot : 4 * brokenOf (sampleAll up hot) 0 ≤ (dieSensors 0).length ∧ hottest (sampleAll up hot) 0 = some (0, 440) ∧ bandLow 0 4 ≤ 440 := by
  decide +kernel
theorem witness_trip : tripOf (sampleAll up hot) 0 = some 0 := by
  obtain ⟨h1, h2, h3⟩ := witness_hot
  rw [tripOf, if_neg (Nat.not_lt.mpr h1), h2]
  exact if_pos h3
theorem witness_broken : upBroken.pin.thermtrip = false ∧ (∀ e, e < 1 → tripOf (sampleAll upBroken cold) e = none) ∧
    (dieSensors 1).length < 4 * brokenOf (sampleAll upBroken cold) 1 := by
  refine ⟨rfl, ?_, ?_⟩ <;> decide +kernel

/-! Witnesses: starts, housekeeping, slow ports. -/

def sBoot (rails : Nat) : State := { pin := { pwrgood := true, resetN := true, railOk := rails } }
def sRecov : State := withRegs { pin := { pwrgood := true, resetN := true } } [(⟨.mgt, 0, 0, 0⟩, 3#32), (⟨.glb, 0, 4, 0⟩, 3#32)]

theorem witness_starts : State.reset.pin.pwrgood = false ∧ up.pin.pwrgood = true ∧ inBoot (sBoot 126) = true ∧ (sBoot 126).pin.railOk ≠ 127 ∧
    inBoot (sBoot 127) = true ∧ (sBoot 127).pin.railOk = 127 ∧ running up = true ∧ resetCause up .pf = some 2 ∧
    classNow sRecov .pf = some .pf ∧ inRecovery sRecov = true ∧ regF sRecov .mgt 0 0 3 0 = 3 ∧ running sRecov = true := by decide +kernel

def sSleep : State :=
  let s := partS [(⟨.prt, 0, 0x004, 0⟩, 1#32)] { idleJob with cfg := cfg0 }
  { s with time := { s.time with mono := 10 ^ 9 } }
theorem witness_sleep : pState sSleep 0 = pIdle ∧ jobIdle sSleep (jobD sSleep 0) = true ∧ (jobD sSleep 0).saved = none ∧
    (part sSleep 15).lead = none ∧ pState sSleep 15 = pFree ∧ (part sSleep 15).freeSince + 1000000000 ≤ sSleep.time.mono := by
  refine ⟨by decide +kernel, ?_, by decide +kernel, by decide +kernel, by decide +kernel, by decide +kernel⟩
  have h : reqsWhere sSleep (jobD sSleep 0) entActive = [] := by
    rw [reqsWhere_one (by decide +kernel) (by decide +kernel) (by rfl), if_neg (by decide +kernel)]
  rw [jobIdle, h]
  decide +kernel

theorem witness_journal : up.fw.jReadOnly = false ∧ fwUp up = true ∧
    ((jPending up).find? (fun x => jMay up { key := x.1, seq := up.fw.jSeq + 1, words := x.2 })).isSome = true := by
  refine ⟨rfl, ?_, ?_⟩ <;> decide +kernel

def sTest : State := { up with pin := { up.pin with testEn := true } }
theorem witness_slow_ports : aonOff 0 = some (.glb, 0) ∧ smReady sBmcS = true ∧ smbPath sBmcS 0x200024 = true ∧ aonOff 0x200024 = none ∧
    smbPath up 0x100000 = true ∧ sTest.pin.testEn = true ∧ sTest.pin.stopped = false ∧ fld (2 ^ 63 + 0x200024 * 2 ^ 32) 57 32 % 4 = 0 := by decide +kernel

/-! Witnesses: the rules of the host link, of time and of power. -/

theorem witness_rules : vfUp up 15 = true ∧ up.pin.stopped = false ∧ up.pcie.perstLow = false ∧ alertHolds sTim = true ∧
    alertHolds ({ sTim with pin := up.pin } : State) = false ∧ classNow up .pf = some .pf ∧ inRecovery up = false ∧ fwClass sBmcS hBmc 4 = some .bmc ∧
    regF sBmcS .thm 0 0x028 11 0 = 3400 ∧ classNow sBmcS .bmc = some .bmc ∧ inRecovery sBmcS = false ∧ classNow sTest .jtag = some .jtag ∧
    inRecovery sTest = false := by decide +kernel

def nextB (o : Host.Outcome State Fault Refusal) : Bool := match o with | .next _ => true | _ => false
theorem isNext (o : Host.Outcome State Fault Refusal) (h : nextB o = true) : ∃ t, o = .next t := by
  cases o with
  | next t => exact ⟨t, rfl⟩
  | _ => exact absurd h Bool.false_ne_true

/-- A state that has tripped, with a command waiting that is no power-up. -/
def sTripped : State := { up with pin := { up.pin with thermtrip := true }, pending := [.idcode] }
theorem witness_invariants : fusesOk sTripped.fuse ∧ sTripped.pin.thermtrip = true ∧ (∃ t, step sTripped = .next t) ∧
    (∀ testEn smbAddr railsOk, sTripped.pending.head? ≠ some (.pwrgoodRise testEn smbAddr railsOk)) ∧
    (∀ env, sTripped.pending.head? ≠ some (.powerOnReset env)) ∧ up.pending = [] :=
  ⟨by unfold fusesOk; decide, rfl, ⟨_, rfl⟩, by simp [sTripped], by simp [sTripped], rfl⟩

theorem nextOf {i : Instr} {r : Reach} (h : (cmdReach i == r && nextB (exec i up)) = true) : ∃ t, cmdReach i = r ∧ exec i up = .next t := by
  obtain ⟨h1, h2⟩ := Bool.and_eq_true_iff.mp h
  obtain ⟨t, ht⟩ := isNext _ h2
  exact ⟨t, eq_of_beq h1, ht⟩

/-- Every kind of reach has a command that answers a next state. -/
theorem witness_frames : ∀ r ∈ [Reach.lane 3, .quiet, .ctl, .pins, .desc, .load, .unit, .mbx, .fw, .fuse, .time, .thm],
    ∃ i t, cmdReach i = r ∧ exec i up = .next t := by
  intro r hr
  simp only [List.mem_cons, List.not_mem_nil, or_false] at hr
  rcases hr with rfl | rfl | rfl | rfl | rfl | rfl | rfl | rfl | rfl | rfl | rfl | rfl
  · exact ⟨.laneAdd 3 {}, nextOf (by decide +kernel)⟩
  · exact ⟨.cremaBudgetWindow, _, rfl, rfl⟩
  · exact ⟨.stepEnd d0, nextOf (by decide +kernel)⟩
  · exact ⟨.idcode, _, rfl, rfl⟩
  · exact ⟨.traceDrain 0, _, rfl, rfl⟩
  · exact ⟨.load, nextOf (by decide +kernel)⟩
  · exact ⟨.deviceFatalError, nextOf (by decide +kernel)⟩
  · exact ⟨.perst true, nextOf (by decide +kernel)⟩
  · exact ⟨.configScan, nextOf (by decide +kernel)⟩
  · exact ⟨.arvRaise hPf 9, nextOf (by decide +kernel)⟩
  · exact ⟨.ppsOut, nextOf (by decide +kernel)⟩
  · exact ⟨.vrAlert false, nextOf (by decide +kernel)⟩

/-- An enrolled BMC key with the digest `w 0`, …, `w 7`, and a nonce that waits. -/
def sEnroll (w : Nat → Word) : State :=
  let s := withRegs up ((List.range 8).map (fun i => (⟨.mgt, 0, 0x040 + 4 * i, 0⟩, w i)))
  { s with fw := { s.fw with nonce := some [] } }
/-- BMC_AUTH rests on ML-DSA too: its witness takes a key, its digest and a good signature as given. -/
theorem witness_bmc_auth (k g : List Byte) (w : Nat → Word) (hk : k.length = 1312) (hg : g.length = 2420)
    (hw : sha3 k = wordsBytes ((List.range 8).map w)) (h0 : w 0 ≠ 0#32)
    (hv : Config.mldsaVerify k g (sha3 ([] ++ natBytes 8 Config.serial.toNat)) = true) :
    fwClass (sEnroll w) hBmc 8 = some .bmcU ∧ k.length = 1312 ∧ g.length = 2420 ∧ (sEnroll w).fw.nonce = some [] ∧
      (bmcKeyWords (sEnroll w)).all (· == 0#32) = false ∧ sha3 k = wordsBytes (bmcKeyWords (sEnroll w)) ∧
      Config.mldsaVerify k g (sha3 ([] ++ natBytes 8 Config.serial.toNat)) = true := by
  have hb : bmcKeyWords (sEnroll w) = (List.range 8).map w := by rfl
  have hs : session (sEnroll w) = session up := by
    unfold session reg rawW
    rw [show lookupR (sEnroll w).regs ⟨.mgt, 1, 0x038, 0⟩ = lookupR up.regs ⟨.mgt, 1, 0x038, 0⟩ from rfl]
  have hf : fwUp (sEnroll w) = fwUp up := by
    unfold fwUp regF reg rawW
    rw [show lookupR (sEnroll w).regs ⟨.mgt, 0, 0, 0⟩ = lookupR up.regs ⟨.mgt, 0, 0, 0⟩ from rfl]
    rfl
  have hs0 : session up = false := by decide +kernel
  have hf1 : fwUp up = true := by decide +kernel
  have hp : (sEnroll w).pin.stopped = false := rfl
  refine ⟨by simp [fwClass, classNow, authBit, hBmc, hs, hf, hs0, hf1, hp], hk, hg, rfl, ?_, hb ▸ hw, hv⟩
  have : (w 0 == 0#32) = false := by simpa using h0
  rw [hb, show List.range 8 = 0 :: (List.range 7).map (· + 1) from rfl, List.map_cons, List.all_cons, this, Bool.false_and]

/-! Witness: a model of one program that the device fetches (R409): its bytes are written and then read back by the loader. -/

/-- The same device but for DRAM and the traffic counters; nothing buffered, no stored error. -/
def sameBut (s t : State) : Prop :=
  t = { s with mem := { s.mem with dram := t.mem.dram }, wide := t.wide } ∧ s.mem.wcb = [] ∧ s.mem.synd = [] ∧ cellsWf t.mem.dram = true

/-- The row of a key is open, and its stack neither asleep nor in maintenance. -/
def rowOpen (s : State) (k : Nat) : Bool := getT s.stk.openRow (keyBankId k) == some (keyRow k) && fld (reg s .stk (keyStack k) 0x008) 1 0 == 0
/-- Every sealed region is empty. -/
def noSeal (s : State) : Bool := s.fw.sealedR.all (fun n => (ratEnt s n).size == 0)

theorem none_sealed {l : List Nat} {size : Nat → Nat} {p : Nat → Bool} (h : l.all (fun n => size n == 0) = true) (hp : ∀ n, size n = 0 → p n = false) :
    l.filter p = [] := by
  rw [List.filter_eq_nil_iff]
  intro n hn
  rw [hp n (eq_of_beq (List.all_eq_true.mp h n hn))]
  exact Bool.false_ne_true

theorem outside_empty {b n y : Nat} {x : Bool} (h : n = 0) : (x && decide (b ≤ y) && decide (y < b + n)) = false := by
  subst h
  simp only [Nat.add_zero, Bool.and_eq_false_iff, decide_eq_false_iff_not, Nat.not_le, Nat.not_lt]
  omega

theorem unseal_none {s : State} (h : noSeal s = true) (k : Nat) : s.unseal k = s := by
  unfold State.unseal
  rw [none_sealed h (fun n hn => outside_empty hn)]
  rfl

theorem writeRun_open {s t : State} {k : Nat} {bs : List Byte} (h : sameBut s t) (hf : fillIdx s = none) (hn : noSeal s = true) (hb : bs.length = 64)
    (ho : rowOpen s k = true) :
    sameBut s ((t.unseal k).writeRun k bs {}) ∧ ((t.unseal k).writeRun k bs {}).mem.dram = putBs t.mem.dram k bs := by
  obtain ⟨h1, h2, h3, h4⟩ := h
  have hn' : noSeal t = true := by rw [h1]; exact hn
  rw [unseal_none hn']
  have hf' : fillIdx t = none := by rw [h1]; exact hf
  obtain ⟨ho1, ho2⟩ := Bool.and_eq_true_iff.mp ho
  have e : t.writeRun k bs {} = (t.putSegs k bs).addWide .stk (keyStack k) 0x048 64 := by
    have ho' : (getT ((t.putSegs k bs).addWide .stk (keyStack k) 0x048 64).stk.openRow (keyBankId k) == some (keyRow k)) = true := by
      rw [show ((t.putSegs k bs).addWide .stk (keyStack k) 0x048 64).stk = s.stk by rw [h1]; rfl]
      exact ho1
    have hw : t.wakeStack (keyStack k) = t := by
      have h0 : fld (reg t .stk (keyStack k) 0x008) 1 0 = 0 := by rw [h1]; exact eq_of_beq ho2
      have : bitN (reg t .stk (keyStack k) 0x008) 1 = false := by
        simp only [bitN, beq_eq_false_iff_ne]
        simp only [fld] at h0
        omega
      rw [State.wakeStack, this]
      rfl
    simp only [State.writeRun, State.segWrite, hf', hb, hw, State.activate, ho']
    simp
  have h0 : ∀ n, clearSynd [] k n = [] := by
    intro n
    unfold clearSynd
    generalize List.range (n / 16 + 1) = l
    induction l with
    | nil => rfl
    | cons x l ih =>
      have e0 : (if 16 * ((k + 15) / 16 + x) + 16 ≤ k + n then delT ([] : Tbl (BitVec 16)) ((k + 15) / 16 + x) else []) = [] := by split <;> rfl
      exact (congrArg (fun y => List.foldl _ y l) e0).trans ih
  rw [e]
  refine ⟨⟨?_, h2, h3, cellsWf_putBs _ _ _ h4⟩, rfl⟩
  have hw : t.mem.wcb = [] := by rw [h1]; exact h2
  have hs : t.mem.synd = [] := by rw [h1]; exact h3
  have hp : t.putSegs k bs = { t with mem := { t.mem with dram := putBs t.mem.dram k bs } } := by
    simp only [State.putSegs, hs, hw, h0, List.filter_nil]
  rw [hp]
  conv_lhs => rw [h1]
  rfl

def keyAt (s : State) (x : Nat) : Nat := (hostKey s x).getD 0

/-- Whole segments written one after another: each lands under its own key. -/
theorem writes_land {s : State} (hf : fillIdx s = none) (hn : noSeal s = true) : ∀ (rs : List (Nat × Nat)) (t : State) (bs : List Byte), sameBut s t →
    (∀ r ∈ rs, r.2 = 64 ∧ (hostKey s r.1).isSome = true ∧ rowOpen s (keyAt s r.1) = true ∧ keyAt s r.1 % 64 = 0) →
    rs.Pairwise (fun a b => keyAt s a.1 ≠ keyAt s b.1) → bs.length = 64 * rs.length →
    let u := (rs.foldl (fun (sb : State × List Byte) (r : Nat × Nat) =>
      ((match hostKey sb.1 r.1 with
        | none => sb.1
        | some k => (sb.1.unseal k).writeRun k (sb.2.take r.2) {}), sb.2.drop r.2)) (t, bs)).1
    sameBut s u ∧ (∀ k, (∀ r ∈ rs, k / 64 * 64 ≠ keyAt s r.1) → getB u.mem.dram k = getB t.mem.dram k) ∧
      ∀ i o, i < rs.length → o < 64 → getB u.mem.dram (keyAt s (rs.getD i (0, 0)).1 + o) = bs.getD (64 * i + o) 0#8
  | [], t, bs, h, _, _, _ => ⟨h, fun _ _ => rfl, fun i o hi => absurd hi (by simp)⟩
  | r :: rs, t, bs, h, hr, hp, hl => by
    obtain ⟨r1, r2, r3, r4⟩ := hr r (by simp)
    obtain ⟨k, hk⟩ := Option.isSome_iff_exists.mp r2
    have hK : keyAt s r.1 = k := by rw [keyAt, hk]; rfl
    have hkt : hostKey t r.1 = some k := by rw [hostKey_regs (t := s) (by rw [h.1])]; exact hk
    simp only [List.length_cons] at hl
    obtain ⟨w1, w2⟩ := writeRun_open h hf hn (bs := bs.take 64) (by rw [List.length_take]; omega) (hK ▸ r3)
    have hp' := List.pairwise_cons.mp hp
    have ih := writes_land hf hn rs ((t.unseal k).writeRun k (bs.take 64) {}) (bs.drop 64) w1 (fun x hx => hr x (by simp [hx])) hp'.2
      (by rw [List.length_drop]; omega)
    dsimp only at ih ⊢
    rw [List.foldl_cons]
    dsimp only
    rw [hkt, r1]
    dsimp only
    generalize (List.foldl _ (State.writeRun (t.unseal k) k (bs.take 64) {}, bs.drop 64) rs).1 = u at ih ⊢
    obtain ⟨i1, i2, i3⟩ := ih
    rw [w2] at i2
    refine ⟨i1, fun k' hk' => ?_, fun i o hi ho => ?_⟩
    · rw [i2 k' (fun x hx => hk' x (by simp [hx]))]
      have := hk' r (by simp)
      rw [hK] at this r4
      apply getB_putBs_other
      rw [List.length_take]
      omega
    · cases i with
      | zero =>
        rw [hK] at r4
        rw [List.getD_cons_zero, hK, i2 (k + o) (fun x hx => ?_), getB_putBs_same _ _ _ _ h.2.2.2 (by rw [List.length_take]; omega)]
        · simp [List.getD_eq_getElem?_getD, ho]
        · have := hp'.1 x hx
          rw [hK] at this
          omega
      | succ i =>
        rw [List.getD_cons_succ, i3 i o (by simpa using hi) ho]
        simp only [List.getD_eq_getElem?_getD, List.getElem?_drop]
        rw [show 64 + (64 * i + o) = 64 * (i + 1) + o by omega]

theorem fwPoke_plain {s : State} (a : Nat) (bs : List Byte) (h : (s.writeVia (fun s _ k b => (s.unseal k).writeRun k b {}) a bs).mem.wcb = []) :
    s.fwPoke a bs = s.writeVia (fun s _ k b => (s.unseal k).writeRun k b {}) a bs := by
  simp only [State.fwPoke, State.flushRange, State.flushWhere, h, List.filter_nil, List.foldl_nil]

/-- A run of whole segments written by firmware reads back. -/
theorem poke_read {s : State} {a n : Nat} {bs : List Byte} (hs : sameBut s s) (hf : fillIdx s = none) (hn : noSeal s = true) (ha : a % 64 = 0)
    (hb : bs.length = 64 * n) (hi : a + 64 * n ≤ bankBase) (hr : segRuns a (64 * n) = (List.range n).map (fun i => (a + 64 * i, 64)))
    (ho : ((List.range n).all (fun i => (hostKey s (a + 64 * i)).isSome && rowOpen s (keyAt s (a + 64 * i)))) = true)
    (hd : ((List.range n).map (fun i => keyAt s (a + 64 * i))).Nodup) :
    sameBut s (s.fwPoke a bs) ∧ peek (s.fwPoke a bs) a (64 * n) = bs := by
  have hm : ∀ x, x % 64 = 0 → x < bankBase → (hostKey s x).isSome = true → keyAt s x % 64 = 0 := by
    intro x hx hl hs
    obtain ⟨h1, h2⟩ := stackKey_block (s := s) hl
    obtain ⟨k, hk⟩ := Option.isSome_iff_exists.mp hs
    rw [keyAt, hk, Option.getD_some]
    rw [hostKey, Option.bind_eq_some_iff] at hk
    obtain ⟨k1, hk1, hk2⟩ := hk
    obtain rfl := Option.some.inj (Option.ite_none_left_eq_some.mp hk2).2
    rw [hk1] at h1
    obtain ⟨k0, h3, h4⟩ := Option.map_eq_some_iff.mp h1.symm
    have := h2 k0 h3
    omega
  have hw := writes_land hf hn (segRuns a (64 * n)) s bs hs (fun r hr' => ?_) ?_ (by rw [hr, hb]; simp)
  · rw [← hb] at hw
    change sameBut s (s.writeVia (fun s _ k b => (s.unseal k).writeRun k b {}) a bs) ∧ _ ∧ (∀ i o, i < (segRuns a bs.length).length → o < 64 →
      getB (s.writeVia (fun s _ k b => (s.unseal k).writeRun k b {}) a bs).mem.dram (keyAt s ((segRuns a bs.length).getD i (0, 0)).1 + o) =
        bs.getD (64 * i + o) 0#8) at hw
    obtain ⟨w1, _, w3⟩ := hw
    have hp := fwPoke_plain a bs (by rw [w1.1]; exact hs.2.1)
    rw [hp]
    generalize s.writeVia (fun s _ k b => (s.unseal k).writeRun k b {}) a bs = u at w1 w3 ⊢
    refine ⟨w1, ?_⟩
    apply List.ext_getElem
    · simp [peek, hb]
    intro i h1 h2
    have hi' : i < 64 * n := hb ▸ h2
    have w3 := w3 (i / 64) (i % 64) (by rw [hb, hr]; simp; omega) (by omega)
    rw [hb, hr] at w3
    simp only [List.getD_eq_getElem?_getD, List.getElem?_map, List.getElem?_range (show i / 64 < n by omega), Option.map_some, Option.getD_some] at w3
    rw [Nat.div_add_mod, List.getElem?_eq_getElem h2, Option.getD_some] at w3
    rw [← w3]
    simp only [peek, List.getElem_map, List.getElem_range]
    have hA := Bool.and_eq_true_iff.mp (List.all_eq_true.mp ho (i / 64) (List.mem_range.mpr (by omega)))
    obtain ⟨k, hh⟩ := Option.isSome_iff_exists.mp hA.1
    have hK : keyAt s (a + 64 * (i / 64)) = k := by rw [keyAt, hh, Option.getD_some]
    have h0 := (Bool.and_eq_true_iff.mp hA.2).2
    rw [hK] at h0
    have hk := hh
    rw [hostKey, Option.bind_eq_some_iff] at hk
    obtain ⟨k1, hk, hk2⟩ := hk
    obtain rfl := Option.some.inj (Option.ite_none_left_eq_some.mp hk2).2
    have hk' : stackKey u (a + i) = some (k1 + i % 64) := by
      rw [stackKey_regs (t := s) (by rw [w1.1])]
      obtain ⟨b1, _⟩ := stackKey_block (s := s) (x := a + i) (by omega)
      obtain ⟨b2, _⟩ := stackKey_block (s := s) (x := a + 64 * (i / 64)) (by omega)
      rw [show (a + 64 * (i / 64)) / 256 * 256 = (a + i) / 256 * 256 by omega, hk] at b2
      obtain ⟨k0, h3, h4⟩ := Option.map_eq_some_iff.mp b2.symm
      rw [b1, h3, Option.map_some, ← h4]
      congr 1
      omega
    have hmod : k1 % 64 = 0 := by rw [← hK]; exact hm _ (by omega) (by omega) hA.1
    have hst : keyStack (k1 + i % 64) = keyStack k1 := by
      unfold keyStack
      omega
    have hv : inService u (keyStack k1) = true := by
      rw [inService_regs (t := s) (by rw [w1.1])]
      have h0 := eq_of_beq h0
      simp only [fld] at h0
      simp only [inService, bitN, Bool.not_eq_true', beq_eq_false_iff_ne]
      omega
    rw [hostKey_of hk' (hst ▸ hv)]
    dsimp only
    rw [dieByte_plain (by rw [w1.1]; exact hf) (by rw [w1.1]; exact w1.2.1) (by rw [w1.1]; exact w1.2.2.1), hK]
  · rw [hr] at hr'
    obtain ⟨i, hi', rfl⟩ := List.mem_map.mp hr'
    have hA := Bool.and_eq_true_iff.mp (List.all_eq_true.mp ho i hi')
    exact ⟨rfl, hA.1, hA.2, hm _ (by dsimp only; omega) (by have := List.mem_range.mp hi'; dsimp only; omega) hA.1⟩
  · rw [hr, List.pairwise_map]
    exact List.pairwise_map.mp hd

/-- The program image with its digest, and the manifest that lists it in slot 0, with no weight block. -/
def mfProgB : List Byte :=
  wordsBytes (imgHdr.take 32) ++ ((List.range 32).map (fun i => (sha3 imgBody).getD i 0#8) ++ (wordsBytes (imgHdr.drop 40) ++ imgBody))
def mfMan : List Byte :=
  wordsBytes (rec_ 16 [(0, 0x4B574D46), (1, 1), (4, 1)]) ++ (wordsBytes (rec_ 4 [(2, 8256)]) ++ (List.range 32).map (fun i => (sha3 mfProgB).getD i 0#8))
def sMF0 : State :=
  let s := withRegs sBase ([(⟨.stkc, 0, 0x820, 0⟩, 0xC001007F#32), (⟨.stkc, 0, 0x82C, 0⟩, 0#32)] ++ (List.range 20).map (fun k => (⟨.stk, k, 0x008, 0⟩, 0#32)))
  let ks := (List.range 33).map (fun i => keyAt s (imgAt + 256 * i))
  { s with fw := { s.fw with regionClass := [(1, { rat := 1, sealIt := true, digtab := imgAt })] },
           stk := { s.stk with openRow := ks.foldl (fun t k => putT t (keyBankId k) (keyRow k)) [] },
           jobs := [(0, { jobD s 0 with manifest := sha3 mfMan })] }
def sMF : State := { sMF0 with fw := { sMF0.fw with jobsToFetch := [0] } }
def sMF1 : State := { sMF0 with fw := { sMF0.fw with sealedR := [1] } }
/-- The device with the program in memory. -/
def sMF2 : State := { sMF1 with mem := { sMF1.mem with dram := (sMF1.fwPoke imgAt mfProgB).mem.dram }, wide := (sMF1.fwPoke imgAt mfProgB).wide }

theorem mf_read : sMF1.fwPoke imgAt mfProgB = sMF2 ∧ peek sMF2 imgAt 8256 = mfProgB := by
  have h := poke_read (s := sMF1) (a := imgAt) (n := 129) (bs := mfProgB) ⟨rfl, rfl, rfl, rfl⟩ (by rfl) (by decide +kernel) (by decide) (by decide +kernel)
    (by decide) (by decide +kernel) (by decide +kernel) (by decide +kernel)
  have e : sMF1.fwPoke imgAt mfProgB = sMF2 := h.1.1
  exact ⟨e, (congrArg (fun t => peek t imgAt 8256) e).symm.trans h.2⟩

def mfProgP : Prog := parseImage (freshProgram sMF2) imgAt mfProgB
def mfVx : VX := { s := sMF2, j := jobD sMF2 0, lead := 0, p := mfProgP, img := mfProgB, seqs := mfProgP.descs.map (seqOf mfProgP mfProgB) }
def mfReq : List Word := [lo32 imgAt, hi32 imgAt, BitVec.ofNat 32 mfProgB.length, 0#32, 0#32, 0#32, 0#32, 0#32]

theorem mf_slice : sliceB mfProgB 128 32 = sha3 imgBody := by
  rw [sliceB, mfProgB, List.drop_left' (by decide +kernel), List.take_left' (by simp), sha3_digits]

theorem mf_body : mfProgB.drop 256 = imgBody := by
  rw [mfProgB, ← List.append_assoc, ← List.append_assoc, List.drop_left' (by decide +kernel)]

theorem mf_phase1 : phase1 sMF2 (jobD sMF2 0) mfReq mfProgB = none := by
  have h0 : ((reqReserved mfReq || wAt mfReq 4 != 0#32) = false) := by decide +kernel
  have h1 : imageRead sMF2 (jobD sMF2 0) mfReq = true := by decide +kernel
  have h2 : (decide (reqSize mfReq < 256) || headerBad (headerOf mfProgB) (reqSize mfReq)) = false := by decide +kernel
  have h3 : (maskParts (wfld (wAt (headerOf mfProgB) 3) 15 0) != (jobD sMF2 0).parts) = false := by decide +kernel
  have h4 : limitBad (headerOf mfProgB) = false := by decide +kernel
  have h5 : ¬ 8 ≤ (jobD sMF2 0).progs.length := by decide +kernel
  have hd : (sha3 (mfProgB.drop 256) != sliceB mfProgB 128 32) = false := by rw [mf_body, mf_slice]; simp
  unfold phase1
  simp only [h0, h1, h2, h3, h4, hd]
  simp [h5]

theorem mf_verify : ∃ r n, verify sMF2 0 (jobD sMF2 0) mfReq (freshProgram sMF2) = (r, some mfProgP, n) := by
  have h1 : (imageRead sMF2 (jobD sMF2 0) mfReq && decide (reqSize mfReq ≤ 150994944)) = true := by decide +kernel
  have hi : reqImage mfReq = imgAt := by decide +kernel
  have hz : reqSize mfReq = 8256 := by decide +kernel
  have p2 : phase2 mfProgP = none := by decide +kernel
  have p3 : phase3 mfVx = none := by decide +kernel
  have p4 : phase4 mfVx = none := by decide +kernel
  have p5 : phase5 mfProgP = none := by decide +kernel
  have p6 : (phase6 mfVx).1 = none := by decide +kernel
  have hp : parseImage (freshProgram sMF2) (reqImage mfReq) mfProgB = mfProgP := by rw [hi, mfProgP]
  exact ⟨_, _, verify_of (((if_pos h1).trans ((congr (congrArg (peek sMF2) hi) hz).trans mf_read.2)).symm) mf_phase1 hp.symm (by rw [mfVx]) p2 p3 p4 p5 p6⟩

theorem poke_nil (s : State) (a : Nat) (h : s.mem.wcb = []) : s.fwPoke a [] = s := fwPoke_plain a [] h

theorem unqueue {s t u : State} (ht : t = { s with fw := { s.fw with jobsToFetch := [0] } }) (hs : s.fw.jobsToFetch = [])
    (hu : u = { t with fw := { t.fw with jobsToFetch := t.fw.jobsToFetch.filter (· != 0) } }) : u = s := by
  subst ht
  subst hu
  dsimp only
  rw [show ([0] : List Nat).filter (· != 0) = [] from rfl, ← hs]

theorem seal_eq {s t : State} {n : Nat} (ht : t = { s with fw := { s.fw with sealedR := [1] } }) (hs : s.fw.sealedR = []) (hn : n = 1) :
    ({ s with fw := { s.fw with sealedR := s.fw.sealedR.filter (· != n) ++ [n] } } : State) = t := by
  rw [ht, hs, hn]
  rfl

theorem mf_jobs : (jobD sMF0 0).manifest = sha3 mfMan := by
  simp only [jobD, job?, sMF0, getT, List.find?_cons, beq_self_eq_true, Option.map_some, Option.getD_some]

def mfRat : RatEnt := ratEnt sMF0 1

theorem mf_manifest : manifestOk sMF0 (jobD sMF0 0) mfMan [mfProgB] mfRat = true := by
  have hm : (sha3 mfMan == (jobD sMF0 0).manifest) = true := by
    rw [mf_jobs]
    exact beq_self_eq_true _
  have hs : mfSha mfMan 0 = sha3 mfProgB := by
    rw [mfSha, mfMan, ← List.append_assoc, List.drop_left' (by decide +kernel), List.take_of_length_le (by simp), sha3_digits]
  have h1 : (leAt mfMan 0 4 == 0x4B574D46 && leAt mfMan 4 4 == 1 && decide (1 ≤ mfProgs mfMan) && decide (mfProgs mfMan ≤ 8) &&
    mfMan.length == 0x40 + 48 * mfProgs mfMan + 32 * mfBlocks mfMan && decide (mfBlocks mfMan ≤ regionBlocks mfRat) &&
    sealable sMF0 mfRat.n (classRec sMF0 mfRat.n).digtab && [mfProgB].length == mfProgs mfMan) = true := by decide +kernel
  have h2 : (mfProgB.length == mfProg mfMan 0 8 4 && mfProg mfMan 0 12 1 < 8 && u64At (headerOf mfProgB) 18 == leAt mfMan 8 8) = true := by decide +kernel
  simp only [Bool.and_eq_true] at h1 h2
  simp only [manifestOk, List.zipIdx_cons, List.zipIdx_nil, List.all_cons, List.all_nil, hm, h1, h2, hs, beq_self_eq_true, Bool.and_self]

theorem mf_prog : ∃ u, sMF1.fetchedProg 0 imgAt (mfProg mfMan 0 12 1) mfProgB = (true, u) := by
  have hs : spreadIn sMF1 (jobD sMF1 0).parts.contains imgAt mfProgB.length = true := by decide +kernel
  obtain ⟨r, n, hv⟩ := mf_verify
  unfold State.fetchedProg
  simp only [hs, Bool.not_true, Bool.false_eq_true, if_false, mf_read.1]
  have hj : jobD sMF1 0 = jobD sMF2 0 := by simp only [jobD, job?, sMF2]
  unfold mfReq at hv
  rw [hj, hv]
  exact ⟨_, rfl⟩

theorem fetch_of {s t : State} {lead a : Nat} {m p : List Byte} {e : RatEnt} {u : State} (hr : weightRegion s (jobD s lead) = some e)
    (hm : manifestOk s (jobD s lead) m [p] e = true) (hb : regionBlocks e = 0) (ha : roundUp ((classRec s e.n).digtab + 32 * 0) 64 = a)
    (hp : s.fwPoke (classRec s e.n).digtab [] = s)
    (e1 : ({ s with fw := { s.fw with sealedR := s.fw.sealedR.filter (· != e.n) ++ [e.n] } } : State) = t)
    (hu : t.fetchedProg lead a (mfProg m 0 12 1) p = (true, u)) : s.fetchModel lead m [p] [] = (true, u) := by
  unfold State.fetchModel
  simp only [hr, hm, hb, ha, Bool.not_true, Bool.false_eq_true, if_false, List.range_zero, List.foldl_nil, List.map_nil, List.flatten_nil,
    hp, e1, List.zipIdx_cons, List.zipIdx_nil, State.fetchedProgs, hu]

theorem mf_fetch : ∃ u, sMF0.fetchModel 0 mfMan [mfProgB] [] = (true, u) := by
  have hr : weightRegion sMF0 (jobD sMF0 0) = some mfRat := by decide +kernel
  have hb : regionBlocks mfRat = 0 := by decide +kernel
  have ha : roundUp ((classRec sMF0 mfRat.n).digtab + 32 * 0) 64 = imgAt := by decide +kernel
  obtain ⟨u, hu⟩ := mf_prog
  exact ⟨u, fetch_of hr mf_manifest hb ha (poke_nil _ _ (by decide +kernel)) (seal_eq (by rw [sMF1]) (by decide +kernel) (by decide +kernel)) hu⟩

theorem witness_model_fetch : sMF.fw.jobsToFetch.contains 0 = true ∧ (job? sMF 0).isSome = true ∧ fwUp sMF = true ∧
    ∃ u, ({ sMF with fw := { sMF.fw with jobsToFetch := sMF.fw.jobsToFetch.filter (· != 0) } } : State).fetchModel 0 mfMan [mfProgB] [] = (true, u) := by
  refine ⟨by decide +kernel, by decide +kernel, by decide +kernel, ?_⟩
  rw [unqueue (s := sMF0) (by rw [sMF]) (by decide +kernel) rfl]
  exact mf_fetch

end Sys2Proof.Machine.Tests
end

section
/-! SUPPORT. A function-level reset of a VF (R328): what clearing the VF's copies and its MSI-X state leaves in each register and
each MSI-X entry, and what the PRT fields of class RC read at reset. -/

namespace Sys2Proof.Machine

/-! The VF's copies in its PRT page. -/

theorem lookupR_filter {α : Type} (l : List (RegKey × α)) (q : RegKey → Bool) (k : RegKey) :
    lookupR (l.filter (fun x => q x.1)) k = if q k then lookupR l k else none := by
  have at_key : ∀ x : RegKey × α, (decide (q x.1 = true ∧ (x.1 == k) = true)) = (q k && x.1 == k) := by
    intro x
    by_cases hx : x.1 = k <;> simp [hx]
  unfold lookupR
  simp only [List.find?_filter, at_key]
  cases q k <;> simp

/-- The VF's own copies of its PRT page read their reset values after they are cleared. -/
theorem rawW_vfClear_own (s : State) (p off : Nat) : rawW (s.vfClear p) ⟨.prt, p, off, 1⟩ = resetW ⟨.prt, p, off, 1⟩ := by
  unfold rawW State.vfClear
  rw [lookupR_filter s.regs (fun k => !(k.blk = .prt && k.inst == p && k.cls == 1))]
  simp

/-- Every other copy stays as it was. -/
theorem rawW_vfClear_other (s : State) (p : Nat) (k : RegKey) (hk : k.blk ≠ .prt ∨ k.inst ≠ p ∨ k.cls ≠ 1) :
    rawW (s.vfClear p) k = rawW s k := by
  unfold rawW State.vfClear
  rw [lookupR_filter s.regs (fun k => !(k.blk = .prt && k.inst == p && k.cls == 1)), if_pos]
  simpa [imp_iff_not_or, or_assoc] using hk

@[simp] theorem rawW_msixReset (s : State) (q : Nat → Bool) (k : RegKey) : rawW (s.msixReset q) k = rawW s k := rfl

/-! MSI-X. -/

theorem mem_masked_msixReset (s : State) (q : Nat → Bool) (f v : Nat) :
    (f, v) ∈ (s.msixReset q).pcie.masked ↔ (f, v) ∈ s.pcie.masked ∧ q f = false := by
  simp [State.msixReset]

theorem mem_pend_msixReset (s : State) (q : Nat → Bool) (f v : Nat) :
    (f, v) ∈ (s.msixReset q).pcie.pend ↔ (f, v) ∈ s.pcie.pend ∧ q f = false := by
  simp [State.msixReset]

@[simp] theorem State.vfClear_pcie (s : State) (p : Nat) : (s.vfClear p).pcie = s.pcie := rfl

/-! PRT registers at reset. -/

/-- Only PRT_ID has a part of its reset word from the page it stands in. -/
theorem resetW_prt_eq_page_zero (p off c : Nat) (h : off ≠ 0) : resetW ⟨.prt, p, off, c⟩ = resetW ⟨.prt, 0, off, c⟩ := by
  have hf : ∀ i, fuseBits ⟨.prt, i, off, c⟩ = 0 := by
    intro i
    simp [fuseBits, h]
  simp only [resetW, hf]

/-- A field of class RC is not in PRT_ID and reads zero in page 0 at reset. -/
theorem prt_rc_field_zero_in_page_zero : ∀ r ∈ regsOf .prt, ∀ f ∈ r.fields, f.acc = .rc →
    r.off ≠ 0 ∧ fld (resetW ⟨.prt, 0, r.off, 1⟩).toNat f.hi f.lo = 0 := by decide

theorem prt_rc_field_zero_at_reset (p : Nat) {r : Reg} (hr : r ∈ regsOf .prt) {f : Field} (hf : f ∈ r.fields) (ha : f.acc = .rc) :
    fld (resetW ⟨.prt, p, r.off, 1⟩).toNat f.hi f.lo = 0 := by
  obtain ⟨hoff, hzero⟩ := prt_rc_field_zero_in_page_zero r hr f hf ha
  rw [resetW_prt_eq_page_zero p r.off 1 hoff, hzero]

theorem prt_arglo_zero_at_reset (p : Nat) : resetW ⟨.prt, p, 0x00C, 1⟩ = 0#32 := by
  rw [resetW_prt_eq_page_zero p _ 1 (by decide)]
  decide

theorem prt_arghi_zero_at_reset (p : Nat) : resetW ⟨.prt, p, 0x010, 1⟩ = 0#32 := by
  rw [resetW_prt_eq_page_zero p _ 1 (by decide)]
  decide

/-! The command. -/

/-- What a function-level reset of a VF clears, before its event is raised. -/
def State.vfReset (s : State) (p : Nat) : State := (s.vfClear p).msixReset (· == p + 1)

theorem exec_vfFlr_of_vfUp {s : State} {p : Nat} (hup : vfUp s p = true) (hclk : s.pin.stopped = false) :
    exec (.vfFlr p) s = .next (touchDesc s ((s.vfReset p).raise { code := 0x5003, part := some p })) := by
  change execVfFlr p s = _
  simp [execVfFlr, State.vfReset, hup, hclk]

theorem rawW_vfReset_own (s : State) (p off : Nat) : rawW (s.vfReset p) ⟨.prt, p, off, 1⟩ = resetW ⟨.prt, p, off, 1⟩ :=
  rawW_vfClear_own s p off

theorem rawW_vfReset_other (s : State) (p : Nat) (k : RegKey) (hk : k.blk ≠ .prt ∨ k.inst ≠ p ∨ k.cls ≠ 1) :
    rawW (s.vfReset p) k = rawW s k :=
  rawW_vfClear_other s p k hk

theorem mem_masked_vfReset (s : State) (p f v : Nat) : (f, v) ∈ (s.vfReset p).pcie.masked ↔ (f, v) ∈ s.pcie.masked ∧ f ≠ p + 1 := by
  simp [State.vfReset, mem_masked_msixReset]

theorem mem_pend_vfReset (s : State) (p f v : Nat) : (f, v) ∈ (s.vfReset p).pcie.pend ↔ (f, v) ∈ s.pcie.pend ∧ f ≠ p + 1 := by
  simp [State.vfReset, mem_pend_msixReset]

/-- Settles O54: the state before the event is `State.vfReset`, whose registers and MSI-X entries the lemmas above give. -/
theorem aFunctionLevelResetOfAVf : Obligations.AFunctionLevelResetOfAVf := by
  unfold Obligations.AFunctionLevelResetOfAVf
  intro s p hup hclk
  refine ⟨s.vfReset p, exec_vfFlr_of_vfUp hup hclk, rawW_vfReset_own s p, ?rcFields, ?argLo, ?argHi, ?msixGone, ?msixKept,
    rawW_vfReset_other s p, rfl, rfl, rfl, rfl⟩
  case rcFields =>
    intro r hr f hf ha
    rw [rawW_vfReset_own, prt_rc_field_zero_at_reset p hr hf ha]
  case argLo => rw [rawW_vfReset_own, prt_arglo_zero_at_reset]
  case argHi => rw [rawW_vfReset_own, prt_arghi_zero_at_reset]
  case msixGone =>
    intro v
    simp [mem_masked_vfReset, mem_pend_vfReset]
  case msixKept =>
    intro f v hf
    simp [mem_masked_vfReset, mem_pend_vfReset, hf]

end Sys2Proof.Machine
end

section
/-! SUPPORT. The PPS input and the event pin (R364, R464): an edge latches its time and sets PPSIN, and aligning the phase to the second in
FREE keeps both; a whole second with OUTEN starts a pulse or counts a suppressed one. -/

namespace Sys2Proof.Machine

/-! Fields above one that is written, and a status bit in every copy. -/

/-- Putting a field changes no higher bits. -/
theorem setFld_high (x hi lo v a : Nat) (hl : lo ≤ hi) (ha : hi < a) : setFld x hi lo v / 2 ^ a = x / 2 ^ a := by
  have low_lt : setFld (x % 2 ^ (hi + 1)) hi lo v < 2 ^ (hi + 1) :=
    setFld_lt _ _ _ _ _ (Nat.mod_lt _ (Nat.two_pow_pos _)) (Nat.lt_succ_self hi) hl
  have split_off : setFld x hi lo v = setFld (x % 2 ^ (hi + 1)) hi lo v + 2 ^ (hi + 1) * (x / 2 ^ (hi + 1)) := by
    have hdvd : 2 ^ lo ∣ 2 ^ (hi + 1) := Nat.pow_dvd_pow 2 (by omega)
    unfold setFld
    rw [Nat.mod_mod_of_dvd x hdvd, Nat.mod_div_self]
    ring
  have at_top : setFld x hi lo v / 2 ^ (hi + 1) = x / 2 ^ (hi + 1) := by
    rw [split_off, Nat.add_mul_div_left _ _ (Nat.two_pow_pos _), Nat.div_eq_of_lt low_lt, Nat.zero_add]
  have hpow : 2 ^ a = 2 ^ (hi + 1) * 2 ^ (a - (hi + 1)) := by rw [← Nat.pow_add]; congr 1; omega
  rw [hpow, ← Nat.div_div_eq_div_mul, at_top, Nat.div_div_eq_div_mul]

theorem fld_setFld_above (x hi lo v h2 l2 : Nat) (hl : lo ≤ hi) (ha : hi < l2) : fld (setFld x hi lo v) h2 l2 = fld x h2 l2 := by
  unfold fld
  rw [setFld_high x hi lo v l2 hl ha]

/-- A field put into the shared copy leaves the higher fields of every copy of that register as they were. -/
theorem fld_rawW_setRegF_above (s : State) (b : Blk) (i o hi lo v c h2 l2 : Nat) (hh : hi < 32) (hl : lo ≤ hi) (ha : hi < l2) :
    fld (rawW (s.setRegF b i o hi lo v) ⟨b, i, o, c⟩).toNat h2 l2 = fld (rawW s ⟨b, i, o, c⟩).toNat h2 l2 := by
  by_cases hc : c = 0
  · subst hc
    change fld (reg (s.setReg b i o (setFld (reg s b i o) hi lo v)) b i o) h2 l2 = fld (reg s b i o) h2 l2
    rw [reg_setReg_same, Nat.mod_eq_of_lt (setFld_lt _ _ _ _ _ (reg_lt s b i o) hh hl), fld_setFld_above _ _ _ _ _ _ hl ha]
  · have hk : (⟨b, i, o, c⟩ : RegKey) ≠ ⟨b, i, o, 0⟩ := by simpa using hc
    unfold State.setRegF State.setReg
    rw [rawW_setW_other _ _ _ _ hk]

theorem fld_rawW_markRC_copy (s : State) (b : Blk) (i o n c : Nat) (hn : n < 32) (hc : c ∈ rcCopies b) :
    fld (rawW (s.markRC b i o n) ⟨b, i, o, c⟩).toNat n n = 1 := by
  have hlt := setFld_lt (rawW s ⟨b, i, o, c⟩).toNat n n 1 32 (BitVec.isLt _) hn le_rfl
  unfold State.markRC
  rw [rawW_updRC_copy _ _ _ _ _ _ _ _ hc, BitVec.toNat_ofNat, Nat.mod_eq_of_lt hlt, fld_setFld_same _ _ _ _ le_rfl, Nat.add_sub_cancel_left]
  decide

@[simp] theorem getWide_markRC (s : State) (b : Blk) (i o n : Nat) (k : RegKey) : getWide (s.markRC b i o n) k = getWide s k := by
  unfold State.markRC
  rw [updRC_whole]
  rfl

@[simp] theorem getWide_setTim (s : State) (v : Nat) (k : RegKey) : getWide (s.setTim v) k = getWide s k := rfl

theorem fld_rawW_setTim_above (s : State) (v c h2 l2 : Nat) (ha : 2 < l2) :
    fld (rawW (s.setTim v) ⟨.tim, 0, 0x010, c⟩).toNat h2 l2 = fld (rawW s ⟨.tim, 0, 0x010, c⟩).toNat h2 l2 :=
  fld_rawW_setRegF_above s .tim 0 0x010 2 0 v c h2 l2 (by decide) (by decide) ha

/-! What a step of device time leaves, and what a command about time takes over. -/

theorem rawW_withTime (s : State) (x : TimeState) (k : RegKey) : rawW { s with time := x } k = rawW s k := rfl
theorem getWide_withTime (s : State) (x : TimeState) (k : RegKey) : getWide { s with time := x } k = getWide s k := rfl

@[simp] theorem rawW_touchTime (s t : State) (k : RegKey) : rawW (touchTime s t) k = rawW t k := rfl
@[simp] theorem getWide_touchTime (s t : State) (k : RegKey) : getWide (touchTime s t) k = getWide t k := rfl
@[simp] theorem alertHolds_touchTime (s t : State) : alertHolds (touchTime s t) = alertHolds t := rfl

/-! An edge of the PPS input. -/

/-- An edge at time `t` is held in TIM_PPSIN_TS and sets PPSIN (R364). -/
def State.ppsLatch (s : State) (t : Nat) : State := (s.setWide ⟨.tim, 0, 0x038, 0⟩ (t % 2 ^ 64)).markRC .tim 0 0x010 19

/-- An edge is latched; beyond that it can only change the time state and device time. -/
theorem ppsEdge_cases (s : State) (nsOff : Nat) :
    ppsEdge s nsOff = s.ppsLatch (s.time.now + nsOff) ∨
    ∃ x : TimeState, ppsEdge s nsOff = { (s.ppsLatch (s.time.now + nsOff)).setTim tPps with time := x } := by
  unfold ppsEdge
  dsimp only
  split
  · exact .inr ⟨_, rfl⟩
  · exact .inl rfl

theorem getWide_ppsLatch (s : State) (t : Nat) : getWide (s.ppsLatch t) ⟨.tim, 0, 0x038, 0⟩ = t % 2 ^ 64 := by
  unfold State.ppsLatch
  rw [getWide_markRC, getWide_setWide_same _ _ _ (Nat.mod_lt _ (Nat.two_pow_pos 64))]

theorem ppsin_ppsLatch (s : State) (t c : Nat) (hc : c ∈ rcCopies .tim) : fld (rawW (s.ppsLatch t) ⟨.tim, 0, 0x010, c⟩).toNat 19 19 = 1 :=
  fld_rawW_markRC_copy _ _ _ _ _ _ (by decide) hc

/-- The time of the edge outlives the alignment to the second. -/
theorem getWide_ppsEdge (s : State) (nsOff : Nat) : getWide (ppsEdge s nsOff) ⟨.tim, 0, 0x038, 0⟩ = (s.time.now + nsOff) % 2 ^ 64 := by
  obtain h | ⟨x, h⟩ := ppsEdge_cases s nsOff
  · rw [h, getWide_ppsLatch]
  · rw [h, getWide_withTime, getWide_setTim, getWide_ppsLatch]

/-- So does PPSIN, which lies above the time state in TIM_STATUS. -/
theorem ppsin_ppsEdge (s : State) (nsOff c : Nat) (hc : c ∈ rcCopies .tim) :
    fld (rawW (ppsEdge s nsOff) ⟨.tim, 0, 0x010, c⟩).toNat 19 19 = 1 := by
  obtain h | ⟨x, h⟩ := ppsEdge_cases s nsOff
  · rw [h, ppsin_ppsLatch s _ c hc]
  · rw [h, rawW_withTime, fld_rawW_setTim_above _ _ _ _ _ (by decide), ppsin_ppsLatch s _ c hc]

theorem exec_ppsIn_of_enabled {s : State} (nsOff : Nat) (hen : regF s .tim 0 0x030 30 30 = 1) :
    exec (.ppsIn nsOff) s = .next (touchTime s (ppsEdge s nsOff)) := by
  change execPpsIn nsOff s = _
  simp [execPpsIn, hen]

/-! The PPS output. -/

/-- End of the pulse that starts at the last whole second: min(WIDTH, 500,000) µs after it. -/
def pulseEnd (s : State) : Nat := s.time.now / 1000000000 * 1000000000 + 1000 * min (regF s .tim 0 0x030 19 0) 500000

theorem ppsPulse_of_pin_free {s : State} (h : alertHolds s = false) :
    ppsPulse s = { s with pin := { s.pin with pulseUntil := some (pulseEnd s) } } := by
  simp [ppsPulse, pulseEnd, h]

theorem pin_ppsPulse_of_pin_held {s : State} (h : alertHolds s = true) :
    (ppsPulse s).pin = { s.pin with suppressed := s.pin.suppressed + 1, pulseUntil := none } := by
  simp [ppsPulse, h, raise_pin]

theorem exec_ppsOut_of_enabled {s : State} (hen : regF s .tim 0 0x030 31 31 = 1) : exec .ppsOut s = .next (touchTime s (ppsPulse s)) := by
  change execPpsOut s = _
  simp [execPpsOut, hen]

/-- Where no alert holds it, the event pin is high until the pulse ends. -/
theorem eventPin_of_pulse {t : State} {u : Nat} (ha : alertHolds t = false) (hp : t.pin.pulseUntil = some u) (n : Nat) :
    eventPin { t with time := { t.time with now := n } } = decide (n < u) := by
  have ha' : alertHolds { t with time := { t.time with now := n } } = false := ha
  simp [eventPin, ha', hp]

/-- Settles O57: the latch of an edge outlives the alignment to the second, and a whole second either starts a pulse or counts one. -/
theorem thePpsInputAndOutput : Obligations.ThePpsInputAndOutput := by
  unfold Obligations.ThePpsInputAndOutput
  refine ⟨?input, ?pulse, ?suppressed⟩
  case input =>
    intro s nsOff hen
    refine ⟨_, exec_ppsIn_of_enabled nsOff hen, ?_, fun c hc => ?_⟩
    · rw [getWide_touchTime, getWide_ppsEdge]
    · rw [rawW_touchTime, ppsin_ppsEdge s nsOff c hc]
  case pulse =>
    intro s hen ha
    have free_after : alertHolds (touchTime s (ppsPulse s)) = false := by
      rw [alertHolds_touchTime, ppsPulse_of_pin_free ha]
      exact ha
    have pulse_after : (touchTime s (ppsPulse s)).pin.pulseUntil = some (pulseEnd s) := by
      rw [touchTime_pin, ppsPulse_of_pin_free ha]
    exact ⟨_, exec_ppsOut_of_enabled hen, eventPin_of_pulse free_after pulse_after⟩
  case suppressed =>
    intro s hen ha
    have pin_after := pin_ppsPulse_of_pin_held ha
    exact ⟨_, exec_ppsOut_of_enabled hen, by simp [pin_after], by simp [pin_after]⟩

end Sys2Proof.Machine
end

section
/-! SUPPORT. The thermal alert (R436): THM_STATUS.ALERT as a sample leaves it, said of the bands, the sensors and THM_ALERT_CFG, and what the rest of
the sample leaves of these. -/

namespace Sys2Proof.Machine

/-- R436: a die is at or above the alert band (Table 18.6), or a sensor is broken and BROKEN is set. -/
def AlertDue (s : State) : Prop :=
  (∃ d, d < 26 ∧ (if regF s .thm 0 0x014 2 0 = 2 then 2 else 3) ≤ bandOf s d) ∨
  (regF s .thm 0 0x014 8 8 = 1 ∧ ∃ n, n < 220 ∧ (sensor s n).broken = true)

/-- Bands and sensors stand in the thermal state, BAND and BROKEN in THM_ALERT_CFG: nothing else decides whether the alert is due. -/
theorem alertDue_congr {s t : State} (hthm : t.thm = s.thm) (hcfg : reg t .thm 0 0x014 = reg s .thm 0 0x014) : AlertDue t ↔ AlertDue s := by
  have cfg : ∀ hi lo, regF t .thm 0 0x014 hi lo = regF s .thm 0 0x014 hi lo := fun hi lo => congrArg (fld · hi lo) hcfg
  simp only [AlertDue, cfg, bandOf, sensor, hthm]

/-! The registers of a sample. -/

/-- The band registers and THM_BROKEN as a sample shows them, before the alert is worked out. -/
def State.showBroken (s : State) : State :=
  let s := (s.setReg .thm 0 0x004 (packBands s 1 10)).setReg .thm 0 0x008 (packBands s 11 10)
  let s := s.setReg .thm 0 0x00C (bandOf s 25 * 4096 + packBands s 21 4)
  s.setRegF .thm 0 0x010 7 0 (min ((List.range 220).filter (fun n => (sensor s n).broken)).length 255)

/-- THM_STATUS: the alert over three bands of three bits each. -/
def statusWord (s : State) : Nat := b2n (alertNow s) * 512 + effBand s % 8 * 64 + stackMax s % 8 * 8 + bandOf s 0 % 8

theorem fld_alert_statusWord (s : State) : fld (statusWord s % 2 ^ 32) 9 9 = b2n (alertNow s) := by
  have bit : b2n (alertNow s) ≤ 1 := by cases alertNow s <;> decide
  unfold fld statusWord
  omega

/-- THM_STATUS as a sample shows it, with the time at which a new alert was asserted. -/
def State.showStatus (s : State) : State :=
  let t := s.setReg .thm 0 0x000 (statusWord s)
  if alertNow s && regF s .thm 0 0x000 9 9 == 0 then { t with pin := { t.pin with alertAt := some t.time.mono } } else t

theorem showBands_eq (s : State) : s.showBands = s.showBroken.showStatus.setClock (loopClock s.showBroken.showStatus) := rfl

theorem thm_showStatus (s : State) : s.showStatus.thm = s.thm := by
  unfold State.showStatus
  dsimp only
  split <;> rfl

/-- The time of an alert is no register. -/
theorem reg_showStatus (s : State) (o : Nat) : reg s.showStatus .thm 0 o = reg (s.setReg .thm 0 0x000 (statusWord s)) .thm 0 o := by
  unfold State.showStatus
  dsimp only
  split <;> rfl

/-- The clock stands in THM_CLOCK alone. -/
theorem reg_setClock (s : State) (c : Nat) {o : Nat} (ho : o ≠ 0x020) : reg (s.setClock c) .thm 0 o = reg s .thm 0 o := by
  simp [State.setClock, State.setRegF, reg_setReg_other, ho]

theorem thm_showBands (s : State) : s.showBands.thm = s.thm := thm_showStatus s.showBroken

theorem alertCfg_showBroken (s : State) : reg s.showBroken .thm 0 0x014 = reg s .thm 0 0x014 := by
  simp [State.showBroken, State.setRegF, reg_setReg_other]

theorem alertCfg_showBands (s : State) : reg s.showBands .thm 0 0x014 = reg s .thm 0 0x014 := by
  rw [showBands_eq, reg_setClock _ _ (by decide), reg_showStatus, reg_setReg_other _ _ _ _ _ _ _ _ (by decide), alertCfg_showBroken]

/-! The alert. -/

/-- There are fewer sensors than THM_BROKEN can count, so it is zero just when none is broken. -/
theorem broken_showBroken_pos_iff (s : State) : 0 < regF s.showBroken .thm 0 0x010 7 0 ↔ ∃ n, n < 220 ∧ (sensor s n).broken = true := by
  have shown : regF s.showBroken .thm 0 0x010 7 0 = min ((List.range 220).filter (fun n => (sensor s n).broken)).length 255 % 2 ^ 8 :=
    regF_setRegF_same _ _ _ _ _ _ _ (by decide) (by decide)
  have few : ((List.range 220).filter (fun n => (sensor s n).broken)).length ≤ 220 := by
    simpa using List.length_filter_le (fun n => (sensor s n).broken) (List.range 220)
  have some_broken : 0 < ((List.range 220).filter (fun n => (sensor s n).broken)).length ↔ ∃ n, n < 220 ∧ (sensor s n).broken = true := by
    simp [List.length_pos_iff_exists_mem]
  rw [shown, ← some_broken]
  omega

theorem alertNow_showBroken_iff (s : State) : alertNow s.showBroken = true ↔ AlertDue s := by
  have cfg : ∀ hi lo, regF s.showBroken .thm 0 0x014 hi lo = regF s .thm 0 0x014 hi lo := by
    intro hi lo
    unfold regF
    rw [alertCfg_showBroken]
  have band : ∀ d, bandOf s.showBroken d = bandOf s d := fun _ => rfl
  simp only [alertNow, AlertDue, cfg, band, Bool.or_eq_true, Bool.and_eq_true, List.any_eq_true, List.mem_range, decide_eq_true_eq, beq_iff_eq,
    broken_showBroken_pos_iff]

theorem alert_showBands (s : State) : regF s.showBands .thm 0 0x000 9 9 = b2n (alertNow s.showBroken) := by
  unfold regF
  rw [showBands_eq, reg_setClock _ _ (by decide), reg_showStatus, reg_setReg_same, fld_alert_statusWord]

theorem alert_showBands_iff (s : State) : regF s.showBands .thm 0 0x000 9 9 = 1 ↔ AlertDue s := by
  rw [alert_showBands, ← alertNow_showBroken_iff]
  cases alertNow s.showBroken <;> decide

/-- A set alert drives the event pin, whatever the PPS output does (R436, R464). -/
theorem eventPin_of_alert {s : State} (h : regF s .thm 0 0x000 9 9 = 1) : eventPin s = true := by
  simp [eventPin, alertHolds, h]

/-! The ramps, which follow the bands. -/

theorem thm_clipRamps (s : State) : s.clipRamps.thm = s.thm :=
  List.foldlRecOn (motive := fun t : State => t.thm = s.thm) _ _ rfl fun _ ht _ _ => ht

theorem reg_clipRamps_thm (s : State) (o : Nat) : reg s.clipRamps .thm 0 o = reg s .thm 0 o :=
  List.foldlRecOn (motive := fun t : State => reg t .thm 0 o = reg s .thm 0 o) _ _ rfl
    fun _ ht _ _ => (reg_setReg_other _ _ _ _ _ _ _ _ (.inl (by decide))).trans ht

/-! The command. -/

/-- The state that every die's samples and bands leave, before the registers show it. -/
def State.sampleDies (s : State) (rs : List (Option Reading)) : State := (List.range 26).foldl (fun s d => s.sampleDie rs d) s

@[simp] theorem reg_touchThm (s t : State) (b : Blk) (i o : Nat) : reg (touchThm s t) b i o = reg t b i o := rfl

theorem exec_sensorSample_of_no_trip {s : State} {rs : List (Option Reading)} (hup : s.pin.thermtrip = false)
    (hno : ∀ d, d < 26 → tripOf (sampleAll s rs) d = none) :
    exec (.sensorSample rs) s = .next (touchThm s (s.sampleDies rs).showBands.clipRamps) := by
  have no_die : (List.range 26).findSome? (fun d => (tripOf (sampleAll s rs) d).map (fun n => (d, n))) = none := by
    simpa [List.findSome?_eq_none_iff] using hno
  change execSensorSample rs s = _
  simp [execSensorSample, hup, no_die, State.sampleDies]

/-- What such a command takes over of a sample: the alert, and all that it is due to. -/
theorem alert_sample_iff (s u : State) :
    regF (touchThm s u.showBands.clipRamps) .thm 0 0x000 9 9 = 1 ↔ AlertDue (touchThm s u.showBands.clipRamps) := by
  have regs_after : ∀ o, reg (touchThm s u.showBands.clipRamps) .thm 0 o = reg u.showBands .thm 0 o := by
    intro o
    rw [reg_touchThm, reg_clipRamps_thm]
  have thm_after : (touchThm s u.showBands.clipRamps).thm = u.thm := by rw [touchThm_thm, thm_clipRamps, thm_showBands]
  rw [alertDue_congr thm_after ((regs_after 0x014).trans (alertCfg_showBands u)), ← alert_showBands_iff, regF, regF, regs_after]

/-- Settles O56: the registers show the alert of the bands and sensors that the sample left, and the ramps that follow leave both alone. -/
theorem theAlertFollowsBandsAndSensors : Obligations.TheAlertFollowsBandsAndSensors := by
  unfold Obligations.TheAlertFollowsBandsAndSensors
  intro s readings hup hno
  exact ⟨_, exec_sensorSample_of_no_trip hup hno, alert_sample_iff s (s.sampleDies readings), eventPin_of_alert⟩

end Sys2Proof.Machine
end

section
/-! SUPPORT. PERST# (R465): what the reset of the endpoint leaves alone, that no function is reached while it is held, and that no reset
and no start moves the pin. -/

namespace Sys2Proof.Machine

/-! The reset of the endpoint, which PERST# shares with a function-level reset of the PF (R358). -/

/-- Clearing the copies of any VFs changes registers only. -/
theorem vfClears_whole (ps : List Nat) (s : State) : ∃ rs, ps.foldl (fun s p => s.vfClear p) s = { s with regs := rs } :=
  List.foldlRecOn (motive := fun t : State => ∃ rs, t = { s with regs := rs }) _ _ ⟨s.regs, rfl⟩ fun t ⟨rs, ht⟩ p _ =>
    ⟨(t.vfClear p).regs, by rw [ht]; rfl⟩

/-- The endpoint's own state is its registers, the wide ones among them, and the host link. -/
theorem endpointReset_whole (s : State) : ∃ rs ws x, s.endpointReset = { s with regs := rs, wide := ws, pcie := x } := by
  unfold State.endpointReset
  dsimp only
  rw [(vfClears_whole (List.range 16) _).choose_spec]
  exact ⟨_, _, _, rfl⟩

theorem exec_pfFlr_of_up {s : State} (hup : s.pcie.perstLow = false) (hclk : s.pin.stopped = false) : exec .pfFlr s = .next (flrDone s) := by
  change execPfFlr s = _
  simp [execPfFlr, hup, hclk]

theorem exec_perst_fall {s : State} (hup : s.pcie.perstLow = false) (hclk : s.pin.stopped = false) :
    exec (.perst true) s = .next { flrDone s with pcie := { (flrDone s).pcie with perstLow := true } } := by
  change execPerst true s = _
  simp [execPerst, hup, hclk]

theorem exec_perst_rise {s : State} (hlow : s.pcie.perstLow = true) (hclk : s.pin.stopped = false) :
    exec (.perst false) s = .next { s with pcie := { s.pcie with perstLow := false, gen := 5, width := 8 } } := by
  change execPerst false s = _
  simp [execPerst, hlow, hclk]

/-! Functions while PERST# is low. -/

theorem vfUp_of_perstLow {s : State} (hlow : s.pcie.perstLow = true) (p : Nat) : vfUp s p = false := by simp [vfUp, hlow]

theorem classNow_pf_of_perstLow {s : State} (hlow : s.pcie.perstLow = true) : classNow s .pf = none := by simp [classNow, hlow]

theorem classNow_vf_of_perstLow {s : State} (hlow : s.pcie.perstLow = true) (p : Nat) : classNow s (.vf p) = none := by
  simp [classNow, vfUp_of_perstLow hlow p]

/-! Power-up and the power-on start. -/

/-- A power-up is a reset, whatever the straps and the rails. -/
theorem exec_pwrgoodRise_of_off {s : State} (testEn : Bool) (smbAddr railsOk : Nat) (hoff : s.pin.pwrgood = false) :
    ∃ u, exec (.pwrgoodRise testEn smbAddr railsOk) s = .next (resetTo s u) := by
  change ∃ u, execPwrgoodRise testEn smbAddr railsOk s = _
  simp [execPwrgoodRise, hoff]

/-- The values that a power-on start finds in the journal (R405); none where the flash does not answer. -/
def powerOnKept (s : State) (env : BootEnv) : Kept :=
  if env.flashOk then ⟨((jAll s).map (·.key)).dedup.map (fun x => (x, jValue s x)), !(jAll s).isEmpty⟩ else ⟨[], false⟩

theorem exec_powerOnReset_of_boot {s : State} (env : BootEnv) (hboot : inBoot s = true) (hrail : s.pin.railOk = 127) :
    exec (.powerOnReset env) s = .next (resetTo s ((s.powerBase s.pin).start env (powerOnKept s env) false false 0)) := by
  change execPowerOnReset env s = _
  simp [execPowerOnReset, powerOnKept, hboot, hrail]

theorem perstLow_resetTo (s t : State) : (resetTo s t).pcie.perstLow = s.pcie.perstLow := rfl

/-- Settles O55: the fall is the PF's function-level reset with the pin low, whose effect before the event `endpointReset_whole` bounds;
power-up and start answer `resetTo`, which keeps the level of the pin. -/
theorem perstResetsTheEndpointOnly : Obligations.PerstResetsTheEndpointOnly := by
  unfold Obligations.PerstResetsTheEndpointOnly
  refine ⟨?fall, ?held, fun s => exec_perst_rise, ?powerUp, ?start⟩
  case fall =>
    intro s hup hclk
    refine ⟨s.endpointReset, flrDone s, exec_pfFlr_of_up hup hclk, exec_perst_fall hup hclk, rfl, ?_⟩
    obtain ⟨rs, ws, x, reset⟩ := endpointReset_whole s
    rw [reset]
    exact ⟨rfl, rfl, rfl, rfl, rfl, rfl, rfl, rfl, rfl⟩
  case held =>
    exact fun s hlow => ⟨classNow_pf_of_perstLow hlow, fun p => ⟨vfUp_of_perstLow hlow p, classNow_vf_of_perstLow hlow p⟩⟩
  case powerUp =>
    intro s testEn smbAddr railsOk t hoff hex
    obtain ⟨u, hu⟩ := exec_pwrgoodRise_of_off testEn smbAddr railsOk hoff
    cases hu.symm.trans hex
    exact perstLow_resetTo s u
  case start =>
    exact fun s env hboot hrail => ⟨powerOnKept s env, _, exec_powerOnReset_of_boot env hboot hrail, rfl, perstLow_resetTo s _⟩

end Sys2Proof.Machine
end

section
/-! SUPPORT. The frame of every command, by reach: a shared operation has its frame from Laws/Reach.lean, a guarded command changes nothing or answers
one `touch` of its reach, and a request has an answer that programs no fuse unless its reach is `fuse`. -/

namespace Sys2Proof.Machine

/-! Guarded commands. -/

theorem frame_ite {r : Reach} {g : Prop} [Decidable g] {s t u : State} (ht : r.frame s t) (hu : r.frame s u) :
    r.frame s (if g then t else u) := by
  split
  · exact ht
  · exact hu

theorem frame_onlyIf {r : Reach} {g : Prop} [Decidable g] {s t : State} (ht : r.frame s t) : r.frame s (if g then t else s) :=
  frame_ite ht (frame_refl r s)

theorem frame_unless {r : Reach} {g : Prop} [Decidable g] {s t : State} (ht : r.frame s t) : r.frame s (if g then s else t) :=
  frame_ite (frame_refl r s) ht

/-! Firmware's answers that program no fuse. -/

theorem fuse_ite {g : Prop} [Decidable g] {a b : Served} (ha : a.fuse = none) (hb : b.fuse = none) : (if g then a else b).fuse = none := by
  split
  · exact ha
  · exact hb

theorem takeClass_fuse (s : State) (r : ClassRec) : (takeClass s r).fuse = none := by
  unfold takeClass
  exact fuse_ite rfl rfl

theorem regionSet_fuse (s : State) (n : Nat) (f : RatFields) (r : Option ClassRec) : (regionSet s n f r).fuse = none := by
  cases r with
  | none => exact fuse_ite rfl (fuse_ite rfl rfl)
  | some r => exact fuse_ite rfl (fuse_ite rfl (fuse_ite (takeClass_fuse _ r) rfl))

theorem qpSet_fuse (s : State) (qp : Nat) (f : QpFields) : (qpSet s qp f).fuse = none := fuse_ite rfl (fuse_ite rfl rfl)

theorem keySet_fuse (s : State) (key : Nat) (valid : Bool) (job rat : Nat) (nrd nwr : Bool) : (keySet s key valid job rat nrd nwr).fuse = none :=
  fuse_ite rfl (fuse_ite rfl rfl)

theorem settingWrite_fuse (s : State) (c : RClass) (off : Nat) (mask value : Word) : (settingWrite s c off mask value).fuse = none := by
  unfold settingWrite
  split
  · rfl
  · split
    · rfl
    · exact fuse_ite rfl (fuse_ite rfl (fuse_ite rfl (fuse_ite (fuse_ite rfl (fuse_ite rfl rfl)) rfl)))

theorem leadReq_fuse (s : State) (lead : Nat) (f : State → Job → Served) (hf : ∀ s j, (f s j).fuse = none) : (leadReq s lead f).fuse = none := by
  unfold leadReq
  refine fuse_ite rfl ?_
  split
  · exact hf _ _
  · rfl

/-! Shared operations of the waits and of prefetch. -/

theorem frame_ctl_descStep (s : State) (d : DescRef) (op : Nat) (f : State → Cx → State) (hf : ∀ c, quietAt s (f s c)) :
    Reach.ctl.frame s (descStep s d op f) := by
  unfold descStep
  split
  · exact frame_refl .ctl s
  · exact frame_ctl_touchDesc s _ (hf _)

theorem frame_ctl_contStep (s : State) (d : DescRef) (op : Nat) (f : State → Job → StepRun → Cx → State)
    (hf : ∀ j r c, quietAt s (f s j r c)) : Reach.ctl.frame s (contStep s d op f) := by
  unfold contStep
  split
  · exact frame_refl .ctl s
  · exact frame_ctl_touchDesc s _ (hf _ _ _)

/-- A descriptor that starts and gets a status (R69). -/
theorem quietAt_begun (s : State) (c : Cx) (st : DStat) (n : Nat) : quietAt s ((s.noteStart c).setStat c.d st n) :=
  quietAt_trans (quietAt_noteStart s c) (quietAt_setStat _ _ _ _)

theorem frame_fenceStep (s : State) (d : DescRef) : Reach.ctl.frame s (fenceStep s d) := by
  unfold fenceStep
  split
  · exact frame_ctl_touchDesc s _ (quietAt_begun s _ _ _)
  · refine frame_ctl_contStep s d _ _ fun j r c => ?_
    split
    · exact quietAt_setStat _ _ _ _
    · exact quietAt_refl s

/-- The mark of a prefetched tile stands in the job. -/
theorem frame_ctl_modJob (s : State) (l : Nat) (f : Job → Job) : Reach.ctl.frame s (s.modJob l f) := by
  unfold State.modJob
  split
  · exact frame_refl .ctl s
  · exact ⟨⟨rfl, rfl, rfl, rfl, rfl, rfl, rfl, rfl, rfl, rfl⟩, rfl, rfl, rfl, rfl, rfl, rfl, rfl⟩

/-! Lane operations, waits and pins. -/

theorem frame_of_lane {i : Instr} {k : Nat} {s t : State} (hi : cmdReach i = .lane k) (hx : exec i s = .next t) : (Reach.lane k).frame s t := by
  cases i <;> cases hi <;> cases hx
  case resultLand =>
    split
    · exact frame_refl _ s
    · exact frame_setVec s k _
  all_goals exact frame_laneReg s k _ _

theorem frame_of_quiet {i : Instr} {s t : State} (hi : cmdReach i = .quiet) (hx : exec i s = .next t) : Reach.quiet.frame s t := by
  cases i <;> cases hi <;> cases hx
  case cremaItemDispatch | cremaPieceQueue | cremaBudgetWindow | regulatorRefill => rfl
  case rampFall => exact frame_ite (r := .quiet) rfl rfl
  case rampRise => exact frame_onlyIf (r := .quiet) rfl

theorem frame_of_ctl {i : Instr} {s t : State} (hi : cmdReach i = .ctl) (hx : exec i s = .next t) : Reach.ctl.frame s t := by
  cases i <;> cases hi <;> cases hx
  case flagWait d | stepEnd d => exact frame_ctl_descStep s d _ _ fun c => quietAt_begun s c _ 0
  case flagWaitSatisfied d => exact frame_ctl_contStep s d _ _ (quietAt_satisfied s)
  case fence d => exact frame_fenceStep s d
  case bTilePrefetch =>
    split
    · exact frame_refl .ctl s
    · exact frame_ctl_modJob s _ _

/-- Pins and the time of the last SMBus transaction, with the trip and PWRGOOD as they were. -/
theorem frame_pins_set (s : State) (n m : Nat) (p : PinState) (ht : p.thermtrip = s.pin.thermtrip) (hp : p.pwrgood = s.pin.pwrgood) :
    Reach.pins.frame s { s with free := n, pin := p, fw := { s.fw with lastSmb := m } } :=
  ⟨rfl, rfl, ht, hp⟩

theorem frame_of_pins {i : Instr} {s t : State} (hi : cmdReach i = .pins) (hx : exec i s = .next t) : Reach.pins.frame s t := by
  cases i <;> cases hi <;> cases hx
  case extest | idcode | samplePreload | clamp | highz | extestPulse | extestTrain | bypass | pinstat =>
    exact frame_pins_set s _ _ _ rfl rfl
  case snapshotRead => exact frame_ite (frame_pins_set s _ _ _ rfl rfl) (frame_pins_set s _ _ _ rfl rfl)
  case railCheckRetry => exact frame_onlyIf (frame_pins_set s _ _ _ rfl rfl)
  case alertHoldEnd =>
    split
    · exact frame_refl .pins s
    · exact frame_onlyIf (frame_pins_set s _ _ _ rfl rfl)

/-! The frames, command by command. -/

theorem descFrame_onlyIf {g : Prop} [Decidable g] {s t : State} (ht : descFrame s t) : descFrame s (if g then t else s) := frame_onlyIf (r := .desc) ht
theorem descFrame_unless {g : Prop} [Decidable g] {s t : State} (ht : descFrame s t) : descFrame s (if g then s else t) := frame_unless (r := .desc) ht

theorem frame_of_desc {i : Instr} {s t : State} (hi : cmdReach i = .desc) (hx : exec i s = .next t) : descFrame s t := by
  cases i <;> cases hi <;> cases hx
  -- descriptors and lane operations on streams
  case matmul d | steer d | attnPrefill d | attnDecode d | kvAppend d | kvSeal d | vlane d | sample d | move d | gather d | scatter d
      | codecScan d | codecEnc d | codecDec d | cremaSeq d | cremaGemv d | flagSet d | flagSetClear d | netWrite d | netRead d | netSend d
      | watch d => exact descFrame_descStep s d _ _
  case laneLd | laneLds | laneSt | laneSts | laneStc => exact descFrame_laneMem s _ _ _
  case atomicAdd d | atomicMax d | atomicMin d | atomicSwap d | atomicCas d | atomicAnd d | atomicOr d => exact descFrame_atomicStep s d _
  case flagWaitTimeout d => exact descFrame_contStep s d _ _
  case drain d => exact descFrame_drainStep s d
  case descriptorComplete d => exact descFrame_completeStep s d
  -- records, steps, jobs and doorbells
  case request | cancel | adapterLoad | adapterRetire | ringSet => exact descFrame_ringStep s _ _ _
  case form | dissolve | suspend | jobResume | hold | release => exact descFrame_jobctl s _ _ _ _
  case prtReqdb | prtFlagsetSet | prtFlagsetClear | prtRingset => exact descFrame_leadCmd s _ _ _
  case prtTruncCtl => exact frame_ite (r := .desc) (descFrame_touchServ s _) (descFrame_leadCmd s _ _ _)
  case stepFormation | stepLaunch | faultResume | retry | fail | deepSleep => exact descFrame_onlyIf (descFrame_touchServ s _)
  case resourceReturn => exact descFrame_touchServ s _
  -- units, packets and the host link
  case resultRecordMerge | cremaNop | stream | row | act | fold | store | emit | send | rdmaWrite | writeWithImmediate | rdmaRead
      | roceAtomic | ack | nak | rnrNak | traceDrain => exact descFrame_touchDesc s _
  case delta | chunk | heartbeat | sync | depart | hello => exact descFrame_decMsg s _ _
  case req | rep | rtu | rej => exact descFrame_cmStep s _
  case refreshBreak | portDown | portUp | trainingRetry | vfFlr | rnrTimerExpiry => exact descFrame_onlyIf (descFrame_touchDesc s _)
  case cnp | firmwareFrame | ccEpoch | malformedTlp | linkRetrain | ackTimeout | pauseFrame => exact descFrame_unless (descFrame_touchDesc s _)
  case pfBar2Access =>
    exact descFrame_unless (frame_ite (r := .desc) (descFrame_touchDesc s _) (descFrame_touchDesc s _))
  -- commands on a job, a fault, a timer or a read that may be absent
  case commit =>
    split
    · exact descFrame_refl s
    · exact descFrame_touchServ s _
  case heldRecordWrite | demotion | partitionWake =>
    split
    · exact descFrame_refl s
    · exact descFrame_unless (descFrame_touchServ s _)
  case faultHoldExpiry | heartbeatSend | partnerLost | pairRetry | dissolveHoldExpiry | partitionSleep =>
    split
    · exact descFrame_refl s
    · exact descFrame_onlyIf (descFrame_touchServ s _)
  case completionTimeout | hostReadCompletion | rcRead =>
    split
    · exact descFrame_refl s
    · exact descFrame_touchDesc s _
  case pfcWatchdog =>
    dsimp only
    split
    · exact descFrame_refl s
    · exact descFrame_unless (descFrame_touchDesc s _)
  case pauseWatchdogRelease =>
    dsimp only
    split
    · exact descFrame_refl s
    · exact descFrame_onlyIf (descFrame_touchDesc s _)
  case dbgRingConsWrite =>
    split
    · exact descFrame_refl s
    · split
      · exact descFrame_unless (descFrame_touchDesc s _)
      · exact descFrame_refl s
  case frameDrop =>
    refine descFrame_unless ?_
    split
    case h_5 => exact descFrame_refl s
    all_goals exact descFrame_touchDesc s _

theorem frame_of_load {i : Instr} {s t : State} (hi : cmdReach i = .load) (hx : exec i s = .next t) : Reach.load.frame s t := by
  cases i <;> cases hi <;> cases hx
  case prtLoaddb =>
    refine frame_unless ?_
    split
    · exact frame_refl .load s
    · exact frame_touchLoad s _
  case load =>
    split
    · exact frame_unless (frame_touchLoad s _)
    · exact frame_refl .load s
  case unload =>
    split
    · exact frame_onlyIf (frame_touchLoad s _)
    · exact frame_refl .load s

theorem frame_mbx_pcie (s : State) (x : PcieState) : Reach.mbx.frame s { s with pcie := x } := descFrame_touchDesc s _
theorem frame_flrDone_pcie (s : State) (x : PcieState) : Reach.mbx.frame s { flrDone s with pcie := x } := descFrame_touchDesc s _

theorem frame_of_mbx {i : Instr} {s t : State} (hi : cmdReach i = .mbx) (hx : exec i s = .next t) : Reach.mbx.frame s t := by
  cases i <;> cases hi <;> cases hx
  case pfFlr => exact frame_unless (frame_flrDone s)
  case perst => exact frame_unless (frame_ite (frame_mbx_pcie s _) (frame_ite (frame_flrDone_pcie s _) (frame_mbx_pcie s _)))
  case glbMbxSel | mbxData7Read =>
    split
    · exact frame_refl .mbx s
    · exact frame_onlyIf (frame_touchMbx s _)

theorem frame_of_fw {i : Instr} {s t : State} (hi : cmdReach i = .fw) (hx : exec i s = .next t) : Reach.fw.frame s t := by
  cases i <;> cases hi <;> cases hx
  -- requests
  case bmcEnd | configWriteStart => exact frame_fwReq s _ _ _ _ fun _ => rfl
  case regionSet rat f rec => exact frame_fwReq s _ _ _ _ fun s => regionSet_fuse s rat f rec
  case qpSet qp f => exact frame_fwReq s _ _ _ _ fun s => qpSet_fuse s qp f
  case keySet key valid job rat nrd nwr => exact frame_fwReq s _ _ _ _ fun s => keySet_fuse s key valid job rat nrd nwr
  case settingWrite h off mask value => exact frame_fwReq s h _ _ _ fun s => settingWrite_fuse s h.cls off mask value
  case vfBar2 | peerSet | apertureSet | cremaEnable | scrubSet | configRead | attest | certRead | bmcChallenge =>
    exact frame_fwReq s _ _ _ _ fun _ => fuse_ite rfl rfl
  case regionClear => exact frame_fwReq s _ _ _ _ fun _ => fuse_ite rfl (fuse_ite rfl rfl)
  case regionClass rec => exact frame_fwReq s _ _ _ _ fun s => fuse_ite rfl (takeClass_fuse s rec)
  case unpair lead | jobRelease lead => exact frame_fwReq s _ _ _ _ fun s => leadReq_fuse s lead _ fun _ _ => fuse_ite rfl rfl
  case classSet =>
    refine frame_fwReq s _ _ _ _ fun s => fuse_ite rfl ?_
    split <;> rfl
  case pairSet =>
    refine frame_fwReq s _ _ _ _ fun s => fuse_ite rfl ?_
    split
    · rfl
    · exact fuse_ite rfl rfl
  case configWriteData =>
    refine frame_fwReq s _ _ _ _ fun s => fuse_ite rfl ?_
    split <;> rfl
  case configWriteCommit =>
    refine frame_fwReq s _ _ _ _ fun s => ?_
    split <;> rfl
  case fwUpdate => exact frame_fwReq s _ _ _ _ fun _ => fuse_ite rfl (fuse_ite rfl (fuse_ite rfl (fuse_ite rfl rfl)))
  case bmcAuth =>
    refine frame_fwReq s _ _ _ _ fun s => fuse_ite rfl ?_
    split
    · rfl
    · exact fuse_ite rfl rfl
  -- stacks
  case stkClasschg | selfRefreshEntry | selfRefreshExit => exact frame_onlyIf (frame_touchStk s _)
  case ratEntryWrite => exact frame_unless (frame_touchStk s _)
  case refresh => exact frame_unless (frame_ite (frame_touchStk s _) (frame_touchStk s _))
  case refreshWindowEnd => exact frame_touchStk s _
  case rprNop | readMap | softRow | hardRow | clearSoft | rawRead | rawWrite => exact frame_rprRun s _ _ _ _
  case classFillDone =>
    split
    · exact frame_refl .fw s
    · exact frame_touchStk s _
  case wcbIdleFlush =>
    split
    · exact frame_refl .fw s
    · exact frame_onlyIf (frame_touchStk s _)
  -- housekeeping and the host's window
  case bmcSessionTimeout | telemetrySnapshot => exact frame_onlyIf (frame_touchFw s _)
  case modelFetch | configScan => exact frame_unless (frame_touchFw s _)
  case journalWrite =>
    refine frame_unless ?_
    split
    · exact frame_refl .fw s
    · exact frame_touchFw s _
  case vfBar2Access =>
    refine frame_unless (frame_ite ?_ (frame_ite (frame_fw_touchDesc s _) (frame_fw_touchDesc s _)))
    split
    · exact frame_touchFw s _
    · exact frame_fw_touchDesc s _

theorem frame_of_fuse {i : Instr} {s t : State} (hi : cmdReach i = .fuse) (hx : exec i s = .next t) : Reach.fuse.frame s t := by
  cases i <;> cases hi <;> cases hx <;> exact frame_fuse_fwReq s _ _ _ _

theorem frame_of_unit {i : Instr} {s t : State} (hi : cmdReach i = .unit) (hx : exec i s = .next t) : Reach.unit.frame s t := by
  cases i <;> cases hi <;> cases hx
  case patrolRead | digestScrub | fwRowRepair | fwUeResolve => exact frame_unless (frame_touchRes s _)
  case deviceFatalError => exact frame_touchRes s _
  case sramRemap =>
    split
    · exact frame_ite (frame_touchRes s _) (frame_touchRes s _)
    · exact frame_unless (frame_ite (frame_touchRes s _) (frame_touchRes s _))

theorem frame_of_time {i : Instr} {s t : State} (hi : cmdReach i = .time) (hx : exec i s = .next t) : Reach.time.frame s t := by
  cases i <;> cases hi <;> cases hx <;> exact frame_onlyIf (frame_touchTime s _)

theorem frame_of_thm {i : Instr} {s t : State} (hi : cmdReach i = .thm) (hx : exec i s = .next t) : Reach.thm.frame s t := by
  cases i <;> cases hi <;> cases hx
  case powerLoop | railMeasure => exact frame_unless (frame_touchThm s _)
  case roastMeasure => exact frame_onlyIf (frame_touchThm s _)
  case vrAlert =>
    exact frame_ite (frame_touchThm s _) ⟨descFrame_refl s, aonFrame_refl s⟩

/-! The obligations on frames. -/

/-- Settles O48: `frame_of_lane`. -/
theorem laneOperationsReachOneEngine : Obligations.LaneOperationsReachOneEngine := by
  unfold Obligations.LaneOperationsReachOneEngine
  exact fun _ _ _ _ => frame_of_lane

/-- Each of the three reaches leaves memories, network and fuses alone. -/
theorem quiet_stores_nothing {r : Reach} {s t : State} (hr : r = .quiet ∨ r = .ctl ∨ r = .pins) (h : r.frame s t) :
    t.mem = s.mem ∧ t.net = s.net ∧ t.fuse = s.fuse := by
  rcases hr with rfl | rfl | rfl
  · change t = _ at h
    rw [h]
    exact ⟨rfl, rfl, rfl⟩
  · obtain ⟨⟨-, -, -, -, -, hfuse, -⟩, hmem, -, -, -, -, -, hnet⟩ := h
    exact ⟨hmem, hnet, hfuse⟩
  · obtain ⟨h, -⟩ := h
    rw [h]
    exact ⟨rfl, rfl, rfl⟩

/-- Settles O49: the frames of the three reaches, none of which names a memory, the network or the fuses. -/
theorem quietCommandsStoreNothing : Obligations.QuietCommandsStoreNothing := by
  unfold Obligations.QuietCommandsStoreNothing
  intro i s t hi hx
  have hf : (cmdReach i).frame s t := by
    rcases hi with h | h | h <;> rw [h]
    · exact frame_of_quiet h hx
    · exact frame_of_ctl h hx
    · exact frame_of_pins h hx
  exact ⟨hf, quiet_stores_nothing hi hf⟩

/-- Settles O50: the frames of descriptors, of the loader's commands and of the mailbox's. -/
theorem descriptorsAndPacketsReach : Obligations.DescriptorsAndPacketsReach := by
  unfold Obligations.DescriptorsAndPacketsReach
  intro i s t hi hx
  rcases hi with h | h | h <;> rw [h]
  · exact frame_of_desc h hx
  · exact frame_of_load h hx
  · exact frame_of_mbx h hx

/-- Settles O51: the frames of firmware's commands, of the four requests that program a fuse, and of scrubbing and repair. -/
theorem firmwareCommandsReach : Obligations.FirmwareCommandsReach := by
  unfold Obligations.FirmwareCommandsReach
  intro i s t hi hx
  rcases hi with h | h | h <;> rw [h]
  · exact frame_of_fw h hx
  · exact frame_of_fuse h hx
  · exact frame_of_unit h hx

/-- Settles O52: the frames of time commands and of temperature commands. -/
theorem timeAndThermalCommandsReach : Obligations.TimeAndThermalCommandsReach := by
  unfold Obligations.TimeAndThermalCommandsReach
  intro i s t hi hx
  rcases hi with h | h <;> rw [h]
  · exact frame_of_time h hx
  · exact frame_of_thm h hx

end Sys2Proof.Machine
end

section
/-! SUPPORT. What every step keeps: the queue's rest, TIM_MONO, a latched trip and the fuses, by the frames of the reaches; power-up and the four requests
that program a fuse are the exceptions. -/

namespace Sys2Proof.Machine

/-- A command of any reach but the two widest keeps queue, TIM_MONO, fuses and a trip. -/
theorem Keeps_of_frame {r : Reach} {s t : State} (hany : r ≠ .any) (hfuse : r ≠ .fuse) (h : r.frame s t) : Keeps s t := by
  cases r
  case any => exact absurd rfl hany
  case fuse => exact absurd rfl hfuse
  case lane k =>
    obtain ⟨h, -⟩ := h
    rw [h]
    exact ⟨rfl, rfl, rfl, id⟩
  case quiet =>
    change t = _ at h
    rw [h]
    exact ⟨rfl, rfl, rfl, id⟩
  case pins =>
    obtain ⟨h, hmono, htrip, -⟩ := h
    refine ⟨?_, hmono, ?_, htrip.trans⟩ <;> rw [h]
  case ctl => exact Keeps_descFrame h.1
  case desc | load | unit | mbx | fw =>
    have k := Keeps_descFrame h
    exact ⟨k.pending, k.mono, k.fuse, k.trip⟩
  case time | thm =>
    obtain ⟨h, hmono, htrip, -⟩ := h
    have k := Keeps_descFrame h
    exact ⟨k.pending, hmono, k.fuse, htrip.trans⟩

/-! Commands of the widest reach. -/

theorem Keeps_onlyIf {g : Prop} [Decidable g] {s t : State} (ht : Keeps s t) : Keeps s (if g then t else s) := by
  split
  · exact ht
  · exact Keeps_refl s

theorem Keeps_unless {g : Prop} [Decidable g] {s t : State} (ht : Keeps s t) : Keeps s (if g then s else t) := by
  split
  · exact Keeps_refl s
  · exact ht

/-- A sample that trips keeps device time, and the trip is latched (R435). -/
theorem Keeps_tripped (s u : State) (d n : Nat) : Keeps s (resetTo s { u.trip d n with time := s.time }) := ⟨rfl, rfl, rfl, fun _ => rfl⟩

theorem Keeps_powerFall (s : State) : Keeps s (resetTo s { s.dark with pin := { s.dark.pin with pwrgood := false } }) := ⟨rfl, rfl, rfl, id⟩

theorem Keeps_regWrite (s : State) (c : RClass) (off value : Nat) (b : Bool) :
    Keeps s { write4 s c off value with pin := { (write4 s c off value).pin with regFail := b } } := by
  have k := Keeps_write4 s c off value
  exact ⟨k.pending, k.mono, k.fuse, k.trip⟩

theorem Keeps_regAccess (s : State) (dr : BitVec 64) : Keeps s (regAccess s dr) := by
  unfold regAccess
  dsimp only
  split
  · exact Keeps_pin s _ id
  · split
    · exact Keeps_regWrite s _ _ _ _
    · exact ⟨rfl, rfl, rfl, id⟩

/-- A power-up starts from cleared state; any other command of that reach keeps what `Keeps` says. -/
theorem any_cases {i : Instr} {s t : State} (hi : cmdReach i = .any) (hx : exec i s = .next t) :
    Keeps s t ∨ ((∃ testEn smbAddr railsOk, i = .pwrgoodRise testEn smbAddr railsOk) ∨ ∃ env, i = .powerOnReset env) ∧ ∃ u, t = resetTo s u := by
  cases i <;> cases hi <;> cases hx
  case pwrgoodRise testEn smbAddr railsOk =>
    split
    · exact .inl (Keeps_refl s)
    · exact .inr ⟨.inl ⟨testEn, smbAddr, railsOk, rfl⟩, _, rfl⟩
  case powerOnReset env =>
    split
    · exact .inl (Keeps_refl s)
    · exact .inr ⟨.inr ⟨env, rfl⟩, _, rfl⟩
  all_goals left
  case pwrgoodFall => exact Keeps_onlyIf (Keeps_powerFall s)
  case resetN => exact Keeps_onlyIf (Keeps_warmReset s _ _ _)
  case mgtReset c recovery env => exact Keeps_mgtReset s c recovery env
  case mgtRecovCtl c write env => exact Keeps_mgtRecovCtl s c write env
  case sensorSample =>
    refine Keeps_unless ?_
    dsimp only
    split
    · exact Keeps_tripped s _ _ _
    · exact Keeps_touchThm s _
  case registerWrite =>
    split
    · exact Keeps_refl s
    · split
      · exact Keeps_onlyIf (Keeps_touchDesc s _)
      · dsimp only
        split
        · exact Keeps_trans (Keeps_write4 _ _ _ _) (Keeps_write4 _ _ _ _)
        · exact Keeps_write4 _ _ _ _
  case read32 =>
    split
    · exact Keeps_smbReply s _ _
    · split
      · exact Keeps_smbReply s _ _
      · split
        · exact Keeps_smbReply s _ _
        · split
          · exact Keeps_smbReply s _ _
          · exact Keeps_trans (Keeps_touchDesc s _) (Keeps_smbReply _ _ _)
  case write32 =>
    split
    · exact Keeps_smbReply s _ _
    · split
      · exact Keeps_smbReply s _ _
      · split
        · exact Keeps_smbReply s _ _
        · exact Keeps_trans (Keeps_write4 s _ _ _) (Keeps_smbReply _ _ _)
  case regacc =>
    split
    · exact Keeps_bypass s _ _
    · exact Keeps_trans (Keeps_pin s { s.pin with ir := irRegacc, drive := driveSystem, dr := regCaptured s } id) (Keeps_regAccess _ _)

/-! The four requests that program a fuse. -/

/-- Fuses in range stay in range, and what is blown stays blown. -/
def fusesStep (a b : Fuses) : Prop := fusesOk b ∧ fusesGrow a b

theorem fusesStep_refl {f : Fuses} (h : fusesOk f) : fusesStep f f := ⟨h, le_rfl, le_rfl, le_rfl, fun _ => id⟩

/-- A request's fuses are those it programs, or the former ones. -/
theorem fusesStep_fwReq {s : State} {h : FwHdr} {code auth : Nat} {f : State → Served} (hok : fusesOk s.fuse)
    (hf : ∀ x, (f s).fuse = some x → fusesStep s.fuse x) : fusesStep s.fuse (fwReq s h code auth f).fuse := by
  unfold fwReq
  split
  · exact fusesStep_refl hok
  · dsimp only
    split
    · exact fusesStep_refl hok
    · split
      · exact fusesStep_refl hok
      · change fusesStep s.fuse ((f s).fuse.getD s.fuse)
        cases hx : (f s).fuse with
        | none => exact fusesStep_refl hok
        | some x => exact hf x hx

theorem revoked_in_range : ∀ (r : Fin 15) (slot signer : Fin 4), slot ≠ signer → bitN r slot = false → bitN r signer = false →
    r.val + 2 ^ slot.val < 15 := by decide

theorem revoked_grows_below_four : ∀ (r : Fin 15) (slot k : Fin 4), bitN r slot = false → bitN r k = true → bitN (r + 2 ^ slot.val) k = true := by
  decide

theorem bitN_false_of_lt {x n k : Nat} (hx : x < 2 ^ n) (hk : n ≤ k) : bitN x k = false := by
  have hlt : x < 2 ^ k := lt_of_lt_of_le hx (Nat.pow_le_pow_right (by decide) hk)
  simp [bitN, Nat.div_eq_of_lt hlt]

/-- A key is revoked once, by a signature of another that stays (R407). -/
theorem fusesStep_revoke {f : Fuses} {slot signer : Nat} (hok : fusesOk f) (hslot : slot < 4) (hsigner : signer < 4) (hne : slot ≠ signer)
    (hs : bitN f.revoked slot = false) (hg : bitN f.revoked signer = false) : fusesStep f { f with revoked := f.revoked + 2 ^ slot } := by
  obtain ⟨harv, hrev, hlay, hchg, hceil⟩ := hok
  have hrange := revoked_in_range ⟨_, hrev⟩ ⟨_, hslot⟩ ⟨_, hsigner⟩ (by simpa using hne) hs hg
  refine ⟨⟨harv, hrange, hlay, hchg, hceil⟩, le_rfl, le_rfl, le_rfl, fun k hk => ?_⟩
  by_cases hk4 : k < 4
  · exact revoked_grows_below_four ⟨_, hrev⟩ ⟨_, hslot⟩ ⟨k, hk4⟩ hs hk
  · have hclear := bitN_false_of_lt (x := f.revoked) (n := 4) (by omega) (Nat.le_of_not_lt hk4)
    rw [hclear] at hk
    cases hk

theorem fusesStep_arv {f : Fuses} {n : Nat} (hok : fusesOk f) (hup : f.arvcnt ≤ n) (hn : n ≤ 255) : fusesStep f { f with arvcnt := n } :=
  ⟨⟨hn, hok.2⟩, hup, le_rfl, le_rfl, fun _ => id⟩

theorem fusesStep_layout {f : Fuses} {n : Nat} (hok : fusesOk f) (hn : n ≤ 4) (hroom : f.layoutChg < 31) :
    fusesStep f { f with layout := n, layoutChg := f.layoutChg + 1 } := by
  obtain ⟨harv, hrev, -, -, hceil⟩ := hok
  exact ⟨⟨harv, hrev, hn, hroom, hceil⟩, le_rfl, Nat.le_succ _, le_rfl, fun _ => id⟩

theorem fusesStep_ceiling {f : Fuses} (hok : fusesOk f) (hroom : f.ceilRaise < 3) : fusesStep f { f with ceilRaise := f.ceilRaise + 1 } := by
  obtain ⟨harv, hrev, hlay, hchg, -⟩ := hok
  exact ⟨⟨harv, hrev, hlay, hchg, hroom⟩, le_rfl, le_rfl, Nat.le_succ _, fun _ => id⟩

/-- An answer that programs a fuse is not a request stopped. -/
theorem not_stopped {g : Prop} [Decidable g] {s : State} {st d : Nat} {a : Served} {x : Fuses}
    (h : (if g then stop_ s st d else a).fuse = some x) : ¬ g ∧ a.fuse = some x := by
  split at h
  · cases h
  · exact ⟨‹_›, h⟩

theorem fusesStep_of_fuse {i : Instr} {s t : State} (hi : cmdReach i = .fuse) (hx : exec i s = .next t) (hok : fusesOk s.fuse) :
    fusesStep s.fuse t.fuse := by
  cases i <;> cases hi <;> cases hx <;> refine fusesStep_fwReq hok fun x hx => ?_ <;>
    (obtain ⟨hform, hx⟩ := not_stopped hx; obtain ⟨hmay, hx⟩ := not_stopped hx; cases hx) <;>
    simp only [Bool.or_eq_true, decide_eq_true_eq, beq_iff_eq, not_or, Bool.not_eq_true] at hform hmay
  case arvRaise target => exact fusesStep_arv hok (by omega) (by omega)
  case keyRevoke =>
    obtain ⟨⟨⟨⟨hne, hslot⟩, hsigner⟩, -⟩, -⟩ := hmay
    exact fusesStep_revoke hok (by omega) (by omega) hne hslot hsigner
  case layoutClass => exact fusesStep_layout hok (by omega) (by omega)
  case ceilingRaise => exact fusesStep_ceiling hok (by omega)

/-! Every command. -/

theorem exec_frame {i : Instr} {s t : State} (hx : exec i s = .next t) : (cmdReach i).frame s t := by
  cases hr : cmdReach i
  case lane => exact frame_of_lane hr hx
  case quiet => exact frame_of_quiet hr hx
  case ctl => exact frame_of_ctl hr hx
  case pins => exact frame_of_pins hr hx
  case desc => exact frame_of_desc hr hx
  case load => exact frame_of_load hr hx
  case unit => exact frame_of_unit hr hx
  case mbx => exact frame_of_mbx hr hx
  case fw => exact frame_of_fw hr hx
  case fuse => exact frame_of_fuse hr hx
  case time => exact frame_of_time hr hx
  case thm => exact frame_of_thm hr hx
  case any =>
    obtain k | ⟨-, u, rfl⟩ := any_cases hr hx
    · exact k.pending
    · rfl

/-- The three kinds of command: one that keeps what `Keeps` says, one that programs a fuse, and a power-up. -/
theorem exec_cases {i : Instr} {s t : State} (hx : exec i s = .next t) :
    Keeps s t ∨ (cmdReach i = .fuse ∧ Reach.fuse.frame s t) ∨
    ((∃ testEn smbAddr railsOk, i = .pwrgoodRise testEn smbAddr railsOk) ∨ ∃ env, i = .powerOnReset env) ∧ ∃ u, t = resetTo s u := by
  by_cases hany : cmdReach i = .any
  · exact (any_cases hany hx).imp_right .inr
  · by_cases hfuse : cmdReach i = .fuse
    · exact .inr (.inl ⟨hfuse, frame_of_fuse hfuse hx⟩)
    · exact .inl (Keeps_of_frame hany hfuse (exec_frame hx))

theorem pending_of_exec {i : Instr} {s t : State} (hx : exec i s = .next t) : t.pending = s.pending := by
  obtain k | ⟨-, k⟩ | ⟨-, u, rfl⟩ := exec_cases hx
  · exact k.pending
  · exact k.1
  · rfl

theorem fusesStep_of_exec {i : Instr} {s t : State} (hx : exec i s = .next t) (hok : fusesOk s.fuse) : fusesStep s.fuse t.fuse := by
  obtain k | ⟨hi, -⟩ | ⟨-, u, rfl⟩ := exec_cases hx
  · rw [k.fuse]
    exact fusesStep_refl hok
  · exact fusesStep_of_fuse hi hx hok
  · exact fusesStep_refl hok

/-- No command but a power-up. -/
def notPowerUp (c : Option Instr) : Prop :=
  (∀ testEn smbAddr railsOk, c ≠ some (.pwrgoodRise testEn smbAddr railsOk)) ∧ ∀ env, c ≠ some (.powerOnReset env)

theorem aon_of_exec {i : Instr} {s t : State} (hx : exec i s = .next t) (hi : notPowerUp (some i)) :
    t.time.mono = s.time.mono ∧ (s.pin.thermtrip = true → t.pin.thermtrip = true) := by
  obtain k | ⟨-, k⟩ | ⟨⟨a, b, c, rfl⟩ | ⟨env, rfl⟩, -⟩ := exec_cases hx
  · exact ⟨k.mono, k.trip⟩
  · have k := Keeps_descFrame k
    exact ⟨k.mono, k.trip⟩
  · exact absurd rfl (hi.1 a b c)
  · exact absurd rfl (hi.2 env)

/-! Every step. -/

theorem step_cases {s t : State} (h : step s = .next t) :
    (s.pending = [] ∧ t = s.tick) ∨ ∃ c rest, s.pending = c :: rest ∧ exec c { s with pending := rest } = .next t := by
  unfold step at h
  split at h
  · cases h
    exact .inl ⟨‹_›, rfl⟩
  · exact .inr ⟨_, _, ‹_›, h⟩

/-- Settles O43: a tick adds nothing to an empty queue, and `pending_of_exec` says that no command changes the rest. -/
theorem theQueueOnlyLosesItsFront : Obligations.TheQueueOnlyLosesItsFront := by
  unfold Obligations.TheQueueOnlyLosesItsFront
  intro s t h
  obtain ⟨hq, rfl⟩ | ⟨c, rest, hq, hx⟩ := step_cases h
  · exact hq.trans (by rw [hq]; rfl)
  · rw [pending_of_exec hx, hq]
    rfl

/-- Settles O44: only four requests program a fuse, each inside its range. -/
theorem fusesStayInRange : Obligations.FusesStayInRange := by
  unfold Obligations.FusesStayInRange
  intro s t hok h
  obtain ⟨-, rfl⟩ | ⟨c, rest, -, hx⟩ := step_cases h
  · exact fusesStep_refl hok
  · exact fusesStep_of_exec (s := { s with pending := rest }) hx hok

/-- Settles O45: a tick goes forward, and no command but a power-up writes TIM_MONO. -/
theorem monotonicTimeNeverGoesBack : Obligations.MonotonicTimeNeverGoesBack := by
  unfold Obligations.MonotonicTimeNeverGoesBack
  intro s t h hrise hreset
  obtain ⟨-, rfl⟩ | ⟨c, rest, hq, hx⟩ := step_cases h
  · exact Nat.le_add_right _ _
  · rw [hq] at hrise hreset
    exact (aon_of_exec hx ⟨hrise, hreset⟩).1.ge

/-- Settles O46: no command but a power-up releases THERMTRIP#. -/
theorem aTripHolds : Obligations.ATripHolds := by
  unfold Obligations.ATripHolds
  intro s t htrip h hrise hreset
  obtain ⟨-, rfl⟩ | ⟨c, rest, hq, hx⟩ := step_cases h
  · exact htrip
  · rw [hq] at hrise hreset
    exact (aon_of_exec hx ⟨hrise, hreset⟩).2 htrip

/-- Settles O40: by the definition of a step. -/
theorem stepRunsTheFrontCommand : Obligations.StepRunsTheFrontCommand := by
  unfold Obligations.StepRunsTheFrontCommand
  intro s c rest
  rfl

/-- Every command answers a next state. -/
theorem exec_answers (i : Instr) (s : State) : ∃ t, exec i s = .next t := by
  cases i <;> exact ⟨_, rfl⟩

/-- Settles O42: a tick answers, and so does every command. -/
theorem everyStepAnswers : Obligations.EveryStepAnswers := by
  unfold Obligations.EveryStepAnswers
  intro s
  unfold step
  split
  · exact ⟨_, rfl⟩
  · exact exec_answers _ _

end Sys2Proof.Machine
end

section
/-! SUPPORT. Completion of the engines' commands: a descriptor that may start answers its own effect (`descStep_of`), which is the state that its
work units leave where they run out (`runOp_of`); a lane operation that issues answers the engine that has issued it (`laneReg_of`, `laneMem_of`). -/

namespace Sys2Proof.Machine

/-! Lane operations (Table 06.4). -/

@[simp] theorem isInt_laneEnv (s : State) (core : Nat) (o : LaneOp) : (laneEnv s core o).isInt = (o.ty == 1) := rfl

/-- A register operation that needs nothing but the engine: its result is issued. -/
theorem laneReg_pure {s : State} {core : Nat} {o : LaneOp} {f : LEnv → M LRes} {r : LRes} (hc : condOut (laneEnv s core o).x o.cond = false)
    (hf : f (laneEnv s core o) = pure r) :
    laneReg s core o f = { s with free := s.free + 1, vecs := putT s.vecs core (laneIssued (laneEnv s core o) r) } := by
  apply laneReg_of (x := { s := s })
  unfold laneRuns
  rw [hc, hf]
  rfl

/-- An operation lane by lane. -/
theorem laneReg_each {s : State} {core : Nat} {o : LaneOp} {f : LEnv → M LRes} {lat : Nat} {g : Nat → WF}
    (hc : condOut (laneEnv s core o).x o.cond = false) (hf : f (laneEnv s core o) = (laneEnv s core o).each lat g) :
    laneReg s core o f =
      { s with free := s.free + 1, vecs := putT s.vecs core (laneIssued (laneEnv s core o) (laneWords (laneEnv s core o) lat g)) } :=
  laneReg_pure hc (hf.trans (each_eq _ lat g))

theorem next_laneReg_each {s : State} {core : Nat} {o : LaneOp} {f : LEnv → M LRes} {lat : Nat} {g : Nat → WF}
    (hc : condOut (laneEnv s core o).x o.cond = false) (hf : f (laneEnv s core o) = (laneEnv s core o).each lat g) :
    (.next (laneReg s core o f) : Host.Outcome State Fault Refusal) =
      .next { s with free := s.free + 1, vecs := putT s.vecs core (laneIssued (laneEnv s core o) (laneWords (laneEnv s core o) lat g)) } :=
  congrArg _ (laneReg_each hc hf)

/-- Settles O4: every operation is one word per active lane by its definition, FP32 or INT32 by TYPE. -/
theorem laneArithmeticComplete : Obligations.LaneArithmeticComplete := by
  unfold Obligations.LaneArithmeticComplete
  intro s core o hc
  refine ⟨congrArg _ (laneReg_pure hc rfl), ?add, ?sub, ?mul, ?fma, ?max, ?min, ?abs, ?neg, next_laneReg_each hc rfl, next_laneReg_each hc rfl,
    next_laneReg_each hc rfl, next_laneReg_each hc rfl, next_laneReg_each hc rfl, next_laneReg_each hc rfl, next_laneReg_each hc rfl,
    next_laneReg_each hc rfl, next_laneReg_each hc rfl, next_laneReg_each hc rfl, next_laneReg_each hc rfl, next_laneReg_each hc rfl⟩
  case add => exact next_laneReg_each hc (by simp [opAdd, LEnv.by, noFl])
  case sub => exact next_laneReg_each hc (by simp [opSub, LEnv.by, noFl])
  case mul => exact next_laneReg_each hc (by simp [opMul, LEnv.by, noFl])
  case fma => exact next_laneReg_each hc (by simp [opFma, LEnv.by, noFl])
  case max => exact next_laneReg_each hc (by simp [opMax, imax, noFl])
  case min => exact next_laneReg_each hc (by simp [opMin, imin, noFl])
  case abs => exact next_laneReg_each hc (by simp [opAbs, noFl])
  case neg => exact next_laneReg_each hc (by simp [opNeg, noFl])

/-- Settles O5: each is a register operation with its own body. -/
theorem laneRegisterOpsComplete : Obligations.LaneRegisterOpsComplete := by
  unfold Obligations.LaneRegisterOpsComplete
  intro s core o r x
  have issues : ∀ f, laneRuns s core o f = some (r, x) → (.next (laneReg s core o f) : Host.Outcome State Fault Refusal) =
      .next { s with free := s.free + 1, vecs := putT s.vecs core (laneIssued (laneEnv s core o) r) } :=
    fun f h => congrArg _ (laneReg_of h)
  exact ⟨issues _, issues _, issues _, issues _, issues _, issues _, issues _, issues _, issues _⟩

/-- Settles O6: each is a stream operation with its own body. -/
theorem laneStreamOpsComplete : Obligations.LaneStreamOpsComplete := by
  unfold Obligations.LaneStreamOpsComplete
  intro s core o r x
  have issues : ∀ f, laneRuns s core o f = some (r, x) → (.next (laneMem s core o f) : Host.Outcome State Fault Refusal) =
      .next (touchDesc s (x.s.setVec core (laneIssued (laneEnv s core o) r))) :=
    fun f h => congrArg _ (laneMem_of h)
  exact ⟨issues _, issues _, issues _, issues _, issues _⟩

/-! Descriptors. -/

/-- A descriptor that may start answers its own effect. -/
theorem next_descStep {s : State} {d : DescRef} {op : Nat} {f : State → Cx → State} {c : Cx} {t : State} (h : startable s d op = some c)
    (hf : f s c = t) : (.next (descStep s d op f) : Host.Outcome State Fault Refusal) = .next (touchDesc s t) := by
  rw [descStep_of h, hf]

theorem tensorOp_of_free {s : State} {c : Cx} {f : State → State} (h : engineBusy s c 2 0x02 = false) : tensorOp s c f = f s := by
  simp [tensorOp, h]

/-- Settles O1: on an array that no ATTN_PREFILL holds the work units run out; the prefetch marks the next MATMUL's cores. -/
theorem tensorCommandsComplete : Obligations.TensorCommandsComplete := by
  unfold Obligations.TensorCommandsComplete
  refine ⟨?matmul, ?steer, ?prefetch⟩
  case matmul =>
    intro s d c t h hfree hruns
    exact next_descStep h (by rw [tensorOp_of_free hfree, runOp_of hruns])
  case steer =>
    intro s d c t h hfree hruns
    exact next_descStep h (by rw [tensorOp_of_free hfree, runOp_of hruns])
  case prefetch =>
    intro s d c h
    change execBTilePrefetch d s = _
    unfold execBTilePrefetch
    rw [h]

/-- Settles O3: `Vec.settle` lands all that is due by the engine's clock. -/
theorem vectorCommandsComplete : Obligations.VectorCommandsComplete := by
  unfold Obligations.VectorCommandsComplete
  refine ⟨?vlane, ?sample, ?land⟩
  case vlane => exact fun s d c t h hruns => next_descStep h (runOp_of hruns)
  case sample => exact fun s d c t h hruns => next_descStep h (runOp_of hruns)
  case land =>
    intro s core l rest h
    change execResultLand core s = _
    unfold execResultLand
    rw [h]
    simp only [Vec.settle, h]

/-- Settles O7: the encoder is taken before the units run and freed when they have. -/
theorem movementCommandsComplete : Obligations.MovementCommandsComplete := by
  unfold Obligations.MovementCommandsComplete
  intro s d c t
  refine ⟨?move, ?gather, ?scatter, ?scan, ?enc, ?dec⟩
  case enc =>
    intro h hfree hruns hran
    refine next_descStep h ?_
    unfold encRun
    simp [hfree, runOp_of hruns, hran]
  all_goals exact fun h hruns => next_descStep h (runOp_of hruns)

/-- Settles O8: the units hand out the pieces, and the descriptor awaits them. -/
theorem cremaDescriptorsComplete : Obligations.CremaDescriptorsComplete := by
  unfold Obligations.CremaDescriptorsComplete
  intro s d c t
  exact ⟨fun h hruns => next_descStep h (by rw [runOp_of hruns]), fun h hruns => next_descStep h (by rw [runOp_of hruns])⟩

/-- Settles O9: `cremaCmd_of` for each body; NOP has none. -/
theorem cremaUnitCommandsComplete : Obligations.CremaUnitCommandsComplete := by
  unfold Obligations.CremaUnitCommandsComplete
  intro s ca i j q p c x
  have runs : ∀ op body, cremaReady s ca op = some (i, j, q, p, c) →
      (body ⟨c, ca.pc, p, q⟩).run { s := s.cmdStart c ca.pc i q p } = (.ok (), x) →
      (.next (cremaStep s ca op body) : Host.Outcome State Fault Refusal) = .next (touchDesc s (x.s.cmdEnd c ca.pc i j q p)) := by
    intro op body h hb
    rw [cremaStep, cremaCmd_of h hb]
  refine ⟨fun h => ?nop, runs _ _, runs _ _, runs _ _, runs _ _, runs _ _, runs _ _⟩
  case nop =>
    change Host.Outcome.next (cremaStep s ca 0 fun _ => pure ()) = _
    rw [cremaStep, cremaCmd_of h rfl]

/-! Attention. -/

theorem dispatchItem_of {s : State} {core : Nat} {it : AttItem} {c : Cx} {k : Nat} {rest : List AttItem} (hitems : (att s core).items = it :: rest)
    (hcx : pieceCx s it.piece.d (core % 16) = some c)
    (hslot : (List.range ((c.t 3).dim 0 / max c.att.recsz 1)).find? (fun i => !(slotsUsed s c.d).contains i) = some k)
    (hwait : (cunit s it.pc).waiting = []) (hroom : (cunit s it.pc).canQueue (it.placed c k) = true) (hon : (cunit s it.pc).disabled = false)
    (hstate : pState s (core / 16) < 4) :
    dispatchItem s core =
      { s with units := putT s.units it.pc { cunit s it.pc with queue := (cunit s it.pc).queue ++ [it.placed c k] },
               atts := putT s.atts core { att s core with items := rest, slots := (att s core).slots ++ [(k, it.merge, false)] } } := by
  have hrun : ¬ 4 ≤ pState s (core / 16) := by omega
  unfold dispatchItem
  simp only [hitems, hcx, hslot, hwait, hroom, hon]
  simp [hrun]

theorem mergeRecord_of {s : State} {core slot : Nat} {x : Nat × Nat × Bool} {m : MergeSet} {c0 : Cx}
    (hx : (att s core).slots.find? (fun x => x.1 == slot && x.2.2) = some x) (hm : (att s core).merges.find? (·.id == x.2.1) = some m)
    (hcx : pieceCx s m.d (core % 16) = some c0) :
    mergeRecord s core slot =
      (let c := { c0 with inst := c0.cores.findIdx (· == core % 16) }
       let s := recordIn s core slot x m c
       (if (dRunOf s c.d).stat == .faulted then s else postRun s c (10 ^ 9) (finishMerges c)).settleAtt c) := by
  unfold mergeRecord
  simp only [hx, hm, hcx]

/-- Settles O2: the commands that run by units, and the two that move an item or a record between an engine and a unit. -/
theorem attentionCommandsComplete : Obligations.AttentionCommandsComplete := by
  unfold Obligations.AttentionCommandsComplete
  refine ⟨?append, ?seal_, ?prefill, ?onDie, ?pieces, ?dispatch, ?merge⟩
  case append => exact fun s d c t h hruns => next_descStep h (runOp_of hruns)
  case seal_ =>
    intro s d c t h htrunc hruns
    refine next_descStep h ?_
    rw [sealRun, if_neg (by simp [htrunc])]
    exact runOp_of hruns
  case prefill =>
    intro s d c t h hidle hruns
    refine next_descStep h ?_
    rw [prefillRun, if_neg (by simp [hidle])]
    exact runOp_of hruns
  case onDie =>
    intro s d c t h hdie hsplit hruns
    exact next_descStep h (by simp [decodeRun, decodeSlots, hdie, runOp_of hruns, Nat.not_lt.mpr hsplit])
  case pieces =>
    intro s d c t h hdie hruns
    exact next_descStep h (by simp [decodeRun, decodeSlots, hdie, runOp_of hruns])
  case dispatch =>
    intro s core it rest c k hitems hcx hslot hwait hroom hon hstate
    change execCremaItemDispatch core s = _
    rw [execCremaItemDispatch, dispatchItem_of hitems hcx hslot hwait hroom hon hstate]
  case merge =>
    intro s core slot x m c0 hx hm hcx c hgoes
    change execResultRecordMerge core slot s = _
    rw [execResultRecordMerge, mergeRecord_of hx hm hcx]
    dsimp only
    rw [if_neg (by simpa using hgoes)]

/-! ATOMIC and the network descriptors. -/

theorem atomicStep_of {s : State} {d : DescRef} {c : Cx} {op : Nat} {t : State} (h : startable s d 0x24 = some c)
    (hop : wfld (wAt c.w 12) 3 0 = op) (hruns : runsOut s c (atomicSlots c) (fun _ => 1) (atomicUnit op) = some t) :
    atomicStep s d op = touchDesc s t := by
  rw [atomicStep, descStep_of h, if_pos (by simp [hop]), runOp_of hruns]

/-- With NONET a network descriptor of a truncated run is SKIPPED (R97). -/
theorem netRun_skips {s : State} {c : Cx} {n kind : Nat} (h : c.trunc = some (n, true)) : netRun kind s c = (s.noteStart c).setStat c.d .ran 1 := by
  unfold netRun
  rw [h]

theorem netRun_of {s : State} {c : Cx} {kind slot : Nat} {t : State} (hslot : slot = if kind == 2 then 2 else 0) (htrunc : c.trunc = none)
    (hroom : kind = 2 → readsFull s (netQp c) = false)
    (hruns : runsOut s c [slot] (fun c => pkts (netTotal c slot)) (netUnit kind) = some t) : netRun kind s c = t.awaitAck c := by
  subst hslot
  have goes : (kind == 2 && readsFull s (netQp c)) = false := by
    by_cases hk : kind = 2
    · simp [hroom hk]
    · simp [hk]
  unfold netRun
  rw [htrunc]
  simp only [goes, Bool.false_eq_true, if_false, runOp_of hruns]

/-- Settles O13: the operation in W12 chooses among the ATOMIC commands; `netRun` sends the packets unless NONET skips it. -/
theorem atomicAndNetworkCommandsComplete : Obligations.AtomicAndNetworkCommandsComplete := by
  unfold Obligations.AtomicAndNetworkCommandsComplete
  intro s d c t
  refine ⟨?atomic, ?write, ?read, ?send, ?nonet⟩
  case atomic =>
    intro op h hop hruns
    have answers : (.next (atomicStep s d op) : Host.Outcome State Fault Refusal) = .next (touchDesc s t) :=
      congrArg _ (atomicStep_of h hop hruns)
    refine ⟨?_, ?_, ?_, ?_, ?_, ?_, ?_⟩ <;>
    · rintro rfl
      exact answers
  case write => exact fun h htrunc hruns => next_descStep h (netRun_of rfl htrunc (by simp) hruns)
  case read => exact fun h htrunc hroom hruns => next_descStep h (netRun_of rfl htrunc (fun _ => hroom) hruns)
  case send => exact fun h htrunc hruns => next_descStep h (netRun_of rfl htrunc (by simp) hruns)
  case nonet =>
    intro n htrunc
    exact ⟨fun h => next_descStep h (netRun_skips htrunc), fun h => next_descStep h (netRun_skips htrunc),
      fun h => next_descStep h (netRun_skips htrunc)⟩

end Sys2Proof.Machine
end

section
/-! SUPPORT. Completion of Crema's clocks, of flags and waits, and of the control descriptors. -/

namespace Sys2Proof.Machine

/-! Crema's queue, windows, ramps and breaks (R239, R253, R254). -/

theorem pump_of {u : CUnit} {p : Piece} {rest : List Piece} (hw : u.waiting = p :: rest) (hroom : u.canQueue p = true) :
    u.pump = { u with queue := u.queue ++ [p], waiting := rest } := by
  unfold CUnit.pump
  rw [hw]
  simp only [hroom, if_true]

theorem breakDue_of {s : State} {pc b : Nat} (hb : b < 64) (h : 8 < (getT s.stk.postponed (pc * 64 + b)).getD 0) : breakDue s pc = true := by
  unfold breakDue
  rw [List.any_eq_true]
  exact ⟨b, List.mem_range.mpr hb, decide_eq_true h⟩

/-- Settles O10: a queue pumps its first waiting piece; a ramp's two cases are told apart by whether a unit used it; a break is due by one bank. -/
theorem cremaClocksComplete : Obligations.CremaClocksComplete := by
  unfold Obligations.CremaClocksComplete
  refine ⟨?queue, fun _ => rfl, ?fallUnused, ?fallUsed, ?rise, ?refreshBreak⟩
  case queue =>
    intro s pc p rest hw hroom
    change execCremaPieceQueue pc s = _
    rw [execCremaPieceQueue, modT]
    exact congrArg (fun u => Host.Outcome.next { s with units := putT s.units pc u }) (pump_of hw hroom)
  case fallUnused =>
    intro s stack h
    change execRampFall stack s = _
    rw [execRampFall, if_neg (by simp [h])]
  case fallUsed =>
    intro s stack h
    change execRampFall stack s = _
    rw [execRampFall, if_pos h]
    rfl
  case rise =>
    intro s stack h
    change execRampRise stack s = _
    rw [execRampRise, if_pos h]
    rfl
  case refreshBreak =>
    intro s pc b hb hdue
    change execRefreshBreak pc s = _
    rw [execRefreshBreak, if_pos (breakDue_of hb hdue)]
    rfl

/-! Flags and waits (R309 to R312). -/

/-- A descriptor that is going on answers the effect of its second event. -/
theorem next_contStep {s : State} {d : DescRef} {op : Nat} {f : State → Job → StepRun → Cx → State} {j : Job} {r : StepRun} {c : Cx} {t : State}
    (h : goingOn s d op = some (j, r, c)) (hf : f s j r c = t) :
    (.next (contStep s d op f) : Host.Outcome State Fault Refusal) = .next (touchDesc s t) := by
  rw [contStep_of h, hf]

/-- Settles O11: FLAG_SET and its clearing form are told apart by MODE; a wait is satisfied or times out by what its samples find. -/
theorem flagCommandsComplete : Obligations.FlagCommandsComplete := by
  unfold Obligations.FlagCommandsComplete
  refine ⟨?change, ?wait, ?satisfied, ?timeout⟩
  case change =>
    intro s d c mode hmode h hm s1 s2
    have answers : (.next (descStep s d 0x20 (flagRun mode)) : Host.Outcome State Fault Refusal) = .next (touchDesc s (s2.setStat c.d .ran)) := by
      refine next_descStep h ?_
      rw [flagRun, if_neg (by simp [hm])]
      rfl
    obtain rfl | rfl : mode = 0 ∨ mode = 1 := by omega
    · exact answers
    · exact answers
  case wait => exact fun s d c h => next_descStep h rfl
  case satisfied =>
    intro s d j r c t h hfound hwins f clr s1 s2
    refine next_contStep h ?_
    unfold satisfied
    simp only [hfound, hwins, Bool.false_eq_true, if_false, Bool.not_eq_true']
    rfl
  case timeout =>
    intro s d j r c h hclk hmiss htrunc s1 s2
    refine next_contStep h ?_
    unfold timedOut
    rw [if_neg (by simp [hmiss, hclk])]
    dsimp only
    rw [if_neg (by simp [htrunc])]
    rfl

/-! Control descriptors (R68, R69, R71). -/

/-- Settles O12: each starts and has its own effect; the completion of a descriptor is R71's, with the end of a withdrawn step (R299). -/
theorem controlCommandsComplete : Obligations.ControlCommandsComplete := by
  unfold Obligations.ControlCommandsComplete
  refine ⟨?fence, ?drain, ?watch, fun s d c h => next_descStep h rfl, ?complete⟩
  case fence =>
    intro s d c c' j r h hn
    change Host.Outcome.next (fenceStep s d) = _
    unfold fenceStep
    rw [h, hn]
  case drain =>
    intro s d c h s1 ws
    change Host.Outcome.next (drainStep s d) = _
    unfold drainStep
    rw [h]
  case watch => exact fun s d c t h hruns => next_descStep h (runOp_of hruns)
  case complete =>
    intro s d j r c hn hran hstop hgo htrunc s1
    change Host.Outcome.next (completeStep s d) = _
    unfold completeStep
    rw [hn]
    dsimp only
    rw [if_pos (by simp [hran, hstop, hgo])]
    simp only [htrunc, Option.isSome_none, Bool.false_and, Bool.false_eq_true, if_false]
    rfl

end Sys2Proof.Machine
end

section
/-! SUPPORT. Completion of Barista's commands: records of the request ring, forming, launching and committing a step, and what follows a commit. -/

namespace Sys2Proof.Machine

theorem jobD_of {s : State} {lead : Nat} {j : Job} (h : job? s lead = some j) : jobD s lead = j := by simp [jobD, h]

/-! Records of the request ring. -/

/-- A record that Barista handles and does not discard answers its own effect. -/
theorem next_ringStep {s : State} {lead kind : Nat} {f : State → Job → List Word → State} {t : State} (hh : handles s lead = true)
    (hd : discards s (jobD s lead) (headWords s (jobD s lead)) = false) (hk : recKind (headWords s (jobD s lead)) = kind)
    (hf : f (headSeen s lead) (jobD (headSeen s lead) lead) (headWords s (jobD s lead)) = t) :
    (.next (ringStep s lead kind f) : Host.Outcome State Fault Refusal) = .next (touchServ s t) := by
  rw [ringStep_of hh hd hk, hf]

/-- A CANCEL that matches an active request (R290). -/
theorem cancelRec_of {lead n : Nat} {rest : List Nat} {s : State} {j : Job} {w : List Word}
    (h : (byAdmit s j (reqsWhere s j (fun e => entActive e && u64At e 0 == recClient w && entRing e == recRing w))).filter
        (fun n => !wbit (wAt (ent s j n) 2) 10) ++
      byAdmit s j (reqsWhere s j (fun e => entActive e && u64At e 0 == recClient w && entRing e == recRing w)) = n :: rest) :
    cancelRec lead s j w =
      (if (s.cancelSeq lead n).1 then (s.cancelSeq lead n).2.finalNoTok lead n 3 0 0 else (s.cancelSeq lead n).2.deltaState lead n).popRec
        lead 2 0 n := by
  unfold cancelRec
  dsimp only
  rw [h]

/-- A RING record with a valid entry for an idle ring (R261). -/
theorem ringSetRec_of {lead : Nat} {s : State} {j : Job} {w : List Word} (hok : ringEntryOk ((w.drop 4).take 8) = true)
    (hidle : ringBusy s j (recRing w) = false) :
    ringSetRec lead s j w = (s.setRing lead (recRing w) ((w.drop 4).take 8)).popRec lead 5 0 0xFFFF := by
  unfold ringSetRec
  simp [hok, hidle]

/-- Settles O14: what each kind of record does when nothing stops it. -/
theorem ringRecordsComplete : Obligations.RingRecordsComplete := by
  unfold Obligations.RingRecordsComplete
  intro s0 lead hh hd w s j
  refine ⟨?request, ?cancel, ?adapterLoad, ?adapterRetire, ?ringSet⟩
  case request =>
    intro toks s1 ad n items hk hp hm hlen hplace hprompt hpack hfree hitems
    have h := requestRec_of (lead := lead) hp hm hlen hplace hprompt hpack hfree hitems
    exact next_ringStep hh hd hk h
  case cancel =>
    intro n rest hk ns hns
    exact next_ringStep hh hd hk (cancelRec_of hns)
  case adapterLoad =>
    intro pk i bs s1 hk hpk hi hmay htop hread hok hnone s2 g s3
    have h := adapterLoadRec_of (lead := lead) hpk hi hmay htop hread hok hnone
    exact next_ringStep hh hd hk h
  case adapterRetire => exact fun o hk ho => next_ringStep hh hd hk (adapterRetireRec_of ho)
  case ringSet => exact fun hk hok hidle => next_ringStep hh hd hk (ringSetRec_of hok hidle)

/-! Steps, held records, demotion and what a job gives back. -/

theorem formStep_of {s : State} {lead entry : Nat} {p : Prog} {xs : List Slot} {jt : Job}
    (h : fitProg ((batchOrder (formSlots (formRelieved (s.seesReqs lead) lead) lead).1.slots).length + 1)
      (formSlots (formRelieved (s.seesReqs lead) lead) lead).1.j (batchOrder (formSlots (formRelieved (s.seesReqs lead) lead) lead).1.slots) =
      some ((entry, p), xs, jt)) :
    formStep s lead = formWith (formSlots (formRelieved (s.seesReqs lead) lead) lead).2 lead (jobD (formRelieved (s.seesReqs lead) lead) lead)
      (readySeqs (formRelieved (s.seesReqs lead) lead) (jobD (formRelieved (s.seesReqs lead) lead) lead)) entry p xs jt := by
  unfold formStep
  dsimp only
  rw [h]

/-- A held record goes to its ring when that is up and has room. -/
theorem heldWrite_of {s : State} {lead ring c : Nat} {j : Job} {h : HeldRec} {s1 : State} (hj : job? s lead = some j)
    (hh : j.held.find? (·.ring == ring) = some h) (hup : ringUp s lead ring (ringEnt s j ring) = true)
    (hcred : readCredit s lead ring = (c, s1)) (hroom : (getT j.ringP ring).getD 0 - c < ringSize (ringEnt s j ring)) :
    heldWrite s lead ring = (s1.putResp lead ring h.words).heldDone lead h := by
  unfold heldWrite
  simp [jobD_of hj, hh, hup, hcred, hroom]

/-- The first chunk of the queue is demoted when it is still live and whole, and there is room (R279). -/
theorem demoteStep_of {s : State} {lead n k pc f h : Nat} {j : Job} {rest : List (Nat × Nat)} {b : BEnt} {t : State} (hj : job? s lead = some j)
    (hq : j.demoteQ = (n, k) :: rest) (hb : entryAt s (entRoot (ent s j n)) k = some b) (hst : b.st = 1) (hhalf : b.half = 0)
    (hact : entActive (ent s j n) = true ∨ entState (ent s j n) = 5) (hk : k < entLen (ent s j n) / 64) (hpages : 16 ≤ freeOf j j.cfg.nPage .page)
    (hpick : pickHalf s j (nAt (ent s j n) 15) k = some (pc, f, h))
    (hedit : (demoteTiles s lead b pc f h).editPool lead (entRoot (ent s j n)) k (demoteEnt s (ent s j n) k pc f h) 0 = some t) :
    demoteStep s lead = (t.modJob lead (fun j =>
      { (j.take (.half pc f h)).free (.frame b.pc b.frame) with
        gens := modT (modT ((j.take (.half pc f h)).free (.frame b.pc b.frame)).gens (pc * 2 ^ 20 + f * 4 + h) 0 (· + 1))
          (b.pc * 2 ^ 20 + b.frame * 4) 0 (· + 1) })).modJob lead (fun j => { j with demoteQ := rest }) := by
  have live : (b.st != 1 || b.half != 0 || !(entActive (ent s j n) || entState (ent s j n) == 5) || decide (entLen (ent s j n) / 64 ≤ k)) = false := by
    rcases hact with ha | ha <;> simp [hst, hhalf, ha, hk]
  unfold demoteStep
  simp only [jobD_of hj, hq, hb, live, Bool.false_eq_true, if_false, hpick, hedit]
  rw [if_neg (by omega)]

/-- Settles O15: each command's guard holds, and its effect is `formStep_of`, `heldWrite_of`, `demoteStep_of` or its definition. -/
theorem stepCommandsComplete : Obligations.StepCommandsComplete := by
  unfold Obligations.StepCommandsComplete
  refine ⟨?form, ?launch, ?commit, ?held, ?demote, ?return_, ?expiry⟩
  case form =>
    intro s lead entry p xs jt hmay s1 f hfit
    change execStepFormation lead s = _
    rw [execStepFormation, if_pos hmay, formStep_of hfit]
  case launch =>
    intro s lead hmay
    change execStepLaunch lead s = _
    rw [execStepLaunch, if_pos hmay]
  case commit =>
    intro s lead r hready
    change execCommit lead s = _
    unfold execCommit
    rw [hready]
  case held =>
    intro s lead ring c j h s1 hj hsaved hfatal hh hup hcred hroom
    change execHeldRecordWrite lead ring s = _
    unfold execHeldRecordWrite
    simp [hj, hsaved, hfatal, heldWrite_of hj hh hup hcred hroom]
  case demote =>
    intro s lead n k pc f h j rest b t hj hdebug hsaved hfatal hq hb hst hhalf hact hk hpages hpick hedit
    change execDemotion lead s = _
    unfold execDemotion
    simp [hj, hdebug, hsaved, hfatal, demoteStep_of hj hq hb hst hhalf hact hk hpages hpick hedit]
  case return_ =>
    intro s lead j hj hdebug
    change execResourceReturn lead s = _
    rw [execResourceReturn, if_neg (by simp [hj, jobD_of hj, hdebug]), State.returnAll, jobD_of hj]
  case expiry =>
    intro s lead j hj hdiss hat hdue
    change execDissolveHoldExpiry lead s = _
    unfold execDissolveHoldExpiry
    simp [hj, hdiss, hat, hdue]

end Sys2Proof.Machine
end

section
/-! SUPPORT. Completion of what a partition's registers ask for: loading, doorbells, the resolution of faults, and job control. -/

namespace Sys2Proof.Machine

/-! Loading and unloading. -/

/-- Room in the queue takes the request (R80). -/
theorem postLoad_of {s : State} {lead : Nat} {j : Job} {w : List Word} (h : s.fw.loadq.length < 16) :
    s.postLoad lead j w = { s with fw := { s.fw with loadq := s.fw.loadq ++
      [⟨lead, w, reqImage w, if !reqUnload w && imageRead s j w then reqSize w else 0⟩] } } := by
  unfold State.postLoad
  rw [if_neg (by omega)]

/-- A verified image becomes a program of the job, and the report says code 0 (R82). -/
theorem serveLoad_of {s : State} {q : LoadReq} {rest : List LoadReq} {r : Rep} {p : Prog} {n : Nat}
    (hv : verify s q.lead (jobD s q.lead) q.words (freshProgram s) = (r, some p, n)) (hr : r.code = 0) :
    let s1 : State := { s with fw := { s.fw with loadq := rest } }
    let h := if q.size == 0 then [] else headerOf (peek s q.image 256)
    let s2 := s1.modJob q.lead (fun j => { j with progs := j.progs ++ [p] })
    s.serveLoad q rest = s2.report q.lead q.words (r.bytes (min (Config.verifyUs s2.free) (verifyBound h q.size n))) := by
  intro s1 h s2
  unfold State.serveLoad
  simp only [hv, hr, beq_self_eq_true, if_true]
  rfl

/-- A program that no step runs is removed, and the report says code 0 (R83). -/
theorem serveUnload_of {s : State} {q : LoadReq} {rest : List LoadReq} {p : Prog} (hres : reqReserved q.words = false)
    (himg : reqImage q.words = 0) (hsize : reqSize q.words = 0) (hp : progOf (jobD s q.lead) (wAt q.words 4) = some p)
    (hbusy : progBusy (jobD s q.lead) (wAt q.words 4) = false) :
    let s1 := s.modJob q.lead (fun j => { j with progs := j.progs.filter (·.id != wAt q.words 4) })
    s.serveUnload q rest = ({ s1 with fw := { s1.fw with loadq := rest } } : State).report q.lead q.words
      (({ code := 0, phase := 0 } : Rep).bytes (min (Config.verifyUs s1.free) (verifyBound [] 0 0))) := by
  intro s1
  unfold State.serveUnload
  simp only [hres, himg, hsize, hp, hbusy, bne_self_eq_false, Bool.or_self, Bool.false_eq_true, if_false]
  rfl

/-- Settles O16: `postLoad_of`, `serveLoad_of` and `serveUnload_of` behind the commands' guards; a lead partition has a lead. -/
theorem loaderCommandsComplete : Obligations.LoaderCommandsComplete := by
  unfold Obligations.LoaderCommandsComplete
  refine ⟨?post, ?load, ?unload, ?launch⟩
  case post =>
    intro s cls p j hreach hlead hj hreads s1 w s2 hroom
    change execPrtLoaddb cls p s = _
    unfold execPrtLoaddb
    rw [if_neg (by simp [hreach, hlead]), hj]
    dsimp only
    rw [if_pos hreads, postLoad_of hroom]
  case load =>
    intro s q rest r p n hq hload hup hv hr s1 h s2
    have hserve := serveLoad_of (rest := rest) hv hr
    change execLoad s = _
    unfold execLoad
    simp only [hq, hload, hup, Bool.not_true, Bool.or_self, Bool.false_eq_true, if_false, hserve]
    rfl
  case unload =>
    intro s q rest p hq hunload hup hres himg hsize hp hbusy s1
    have hserve := serveUnload_of (rest := rest) hres himg hsize hp hbusy
    change execUnload s = _
    unfold execUnload
    simp only [hq, hunload, hup, Bool.and_self, if_true, hserve]
    rfl
  case launch =>
    intro s cls p nonet j q hreach hlead hj hq hdebug hruns hopen s1
    have hpart : (part s p).lead.isNone = false := by
      simp only [isLead, beq_iff_eq] at hlead
      simp [hlead]
    change execPrtTruncCtl cls p nonet s = _
    unfold execPrtTruncCtl
    rw [if_neg (by simp [hpart]), leadCmd_of hreach hlead hj]
    simp [hq, hdebug, hruns, hopen, s1]

/-! What a read by the die leaves of the tables of STKC, by which later accesses of the same command are checked. -/

/-- The class bits, the RAT and the rest of STKC read the same. -/
structure StkcKept (s t : State) : Prop where
  regs : ∀ i o, reg t .stkc i o = reg s .stkc i o

theorem StkcKept_refl (s : State) : StkcKept s s := ⟨fun _ _ => rfl⟩

theorem StkcKept_trans {a b c : State} (h : StkcKept a b) (k : StkcKept b c) : StkcKept a c := ⟨fun i o => (k.regs i o).trans (h.regs i o)⟩

theorem StkcKept_of_regs {s t : State} (h : t.regs = s.regs) : StkcKept s t := ⟨fun i o => by unfold reg rawW; rw [h]⟩

theorem StkcKept_of_event {s t : State} (h : EventFrame s t) : StkcKept s t :=
  ⟨fun i o => by unfold reg; rw [h.regs _ (by simp) (by simp)]⟩

theorem StkcKept_foldl {α : Type} (g : State → α → State) (hg : ∀ s a, StkcKept s (g s a)) (l : List α) (s : State) :
    StkcKept s (l.foldl g s) := by
  induction l generalizing s with
  | nil => exact StkcKept_refl s
  | cons a l ih => exact StkcKept_trans (hg s a) (ih _)

theorem StkcKept_raise (s : State) (e : EvSpec) : StkcKept s (s.raise e) := StkcKept_of_event (EventFrame_raise s e)

theorem StkcKept_ite {s a b : State} {c : Prop} [Decidable c] (ha : StkcKept s a) (hb : StkcKept s b) : StkcKept s (if c then a else b) := by
  split <;> assumption

theorem StkcKept_bumpRC (s : State) (st o hi lo n : Nat) : StkcKept s (s.bumpRC .stk st o hi lo n) := by
  unfold State.bumpRC
  exact StkcKept_of_event (EventFrame_updRC _ _ _ _ _ _ _ (.inr rfl))

theorem StkcKept_bump (s : State) (st o : Nat) : StkcKept s (s.bump .stk st o) := StkcKept_bumpRC s st o 31 0 1

theorem StkcKept_captureLog (s : State) (st o v : Nat) : StkcKept s (s.captureLog st o v) := by
  unfold State.captureLog
  refine StkcKept_foldl _ (fun _ _ => ?_) _ s
  exact StkcKept_of_regs rfl

/-- An event, raised with stack state changed beside it. -/
theorem StkcKept_raise_stk {s u : State} (h : StkcKept s u) (x : StkState) (e : EvSpec) : StkcKept s (({ u with stk := x } : State).raise e) :=
  StkcKept_trans (b := { u with stk := x }) (StkcKept_trans h (StkcKept_of_regs rfl)) (StkcKept_raise _ e)

theorem StkcKept_correct (s : State) (w : Nat) (f : EccFind) : StkcKept s (s.correct w f) := by
  have logged := StkcKept_trans (StkcKept_bump s (keyStack (16 * w)) 0x010) (StkcKept_captureLog _ (keyStack (16 * w)) 0x018 (eccLog (16 * w) w f false))
  unfold State.correct
  refine StkcKept_ite (StkcKept_raise_stk logged _ _) ?_
  exact StkcKept_trans (StkcKept_raise_stk logged _ _) (StkcKept_of_regs rfl)

theorem StkcKept_noteUe (s : State) (w : Nat) : StkcKept s (s.noteUe w) := by
  unfold State.noteUe
  exact StkcKept_trans (StkcKept_bump _ _ _) (StkcKept_captureLog _ _ _ _)

theorem StkcKept_examine (s : State) (ws : List Nat) : StkcKept s (s.examine ws) := by
  unfold State.examine
  refine StkcKept_foldl _ (fun s w => ?_) ws s
  split
  · exact StkcKept_correct _ _ _
  · exact StkcKept_noteUe _ _
  · exact StkcKept_refl _

theorem StkcKept_readRun (s : State) (k n : Nat) : StkcKept s (readRun s k n).2.2 := by
  have opened : StkcKept s (((s.wakeStack (keyStack k)).addWide .stk (keyStack k) 0x040 64).activate k) :=
    StkcKept_trans (b := (s.wakeStack (keyStack k)).addWide .stk (keyStack k) 0x040 64)
      (StkcKept_trans (StkcKept_of_event (EventFrame_wakeStack s _)) (StkcKept_of_regs rfl)) (StkcKept_of_event (EventFrame_activate _ k))
  unfold readRun
  dsimp only
  split
  · exact StkcKept_bumpRC s (keyStack k) 0x008 31 16 1
  · split
    · exact opened
    · exact StkcKept_trans opened (StkcKept_examine _ _)

/-- A read of a stack range, with what it finds, leaves STKC. -/
theorem StkcKept_readStack (s : State) (a n : Nat) : StkcKept s (readStack s a n).2.2 := by
  unfold readStack
  generalize ([] : List Byte) = bs
  generalize false = ue
  induction segRuns a n generalizing s bs ue with
  | nil => exact StkcKept_refl s
  | cons r l ih =>
    obtain ⟨x, m⟩ := r
    rw [List.foldl_cons]
    cases hk : hostKey s x with
    | none => simp only [hk]; exact ih _ _ _
    | some k => simp only [hk]; exact StkcKept_trans (StkcKept_readRun s k m) (ih _ _ _)

theorem StkcKept_seen (s : State) (a n : Nat) : StkcKept s (s.seen a n) := by
  have hread := StkcKept_readStack s a n
  unfold State.seen
  dsimp only
  split
  · exact hread
  · exact StkcKept_raise_stk hread _ _

theorem spreadTop_of_stkcKept {s t : State} (h : StkcKept s t) : spreadTop t = spreadTop s := by
  have hn : numHost t = numHost s := by simp only [numHost, hostIdxs, isCremaIdx, classBits, regF, h.regs]
  unfold spreadTop
  rw [hn]

theorem ratJob_of_stkcKept {s t : State} (h : StkcKept s t) (perm : Nat) (ps : List Nat) (a : Nat) : ratJob t perm ps a = ratJob s perm ps a := by
  have hr : ratEnt t = ratEnt s := by
    funext n
    simp only [ratEnt, h.regs]
  unfold ratJob ratOk ratAll
  rw [hr]

theorem jobReads_of_stkcKept {s t : State} (h : StkcKept s t) (j : Job) (a n : Nat) : jobReads t j a n = jobReads s j a n := by
  unfold jobReads
  rw [spreadTop_of_stkcKept h, funext fun r : Nat × Nat => ratJob_of_stkcKept h 0 j.parts r.1]

/-! Doorbells and regulators. -/

theorem bellCmd_of {s : State} {c : RClass} {p : Nat} {j : Job} {wakes : Bool} {f : State → Job → State} (hreach : reaches s c p = true)
    (hlead : isLead s p = true) (hj : job? s p = some j) :
    bellCmd s c p wakes f = touchServ s (f (if wakes then (s.fnFlush c).wakeJob p else s.fnFlush c) j) :=
  leadCmd_of hreach hlead hj

theorem hostFlag_of {s : State} {c : RClass} {p flag : Nat} {j : Job} (set : Bool) (hreach : reaches s c p = true)
    (hlead : isLead s p = true) (hj : job? s p = some j) (h1 : 2048 ≤ flag) (h2 : flag ≤ 4095) :
    hostFlag s c p flag set = touchServ s ((if set then (s.fnFlush c).wakeJob p else s.fnFlush c).flagChange p flag set none) := by
  rw [hostFlag, bellCmd_of hreach hlead hj]
  simp [h1, h2]

/-- Settles O17: a doorbell reaches its job (`bellCmd_of`); the read of a ring's entry leaves the tables that its check reads (`StkcKept_seen`). -/
theorem doorbellsComplete : Obligations.DoorbellsComplete := by
  unfold Obligations.DoorbellsComplete
  refine ⟨?request, ?flags, ?ring, ?refill⟩
  case request =>
    intro s cls p j hreach hlead hj hroom
    dsimp only
    intro hreads
    change execPrtReqdb cls p s = _
    rw [execPrtReqdb, bellCmd_of hreach hlead hj, if_pos rfl]
    dsimp only
    rw [if_neg (by simp [hreads]), if_neg (by simp [hroom])]
  case flags =>
    intro s cls p flag j hreach hlead hj h1 h2
    exact ⟨congrArg _ (hostFlag_of true hreach hlead hj h1 h2), congrArg _ (hostFlag_of false hreach hlead hj h1 h2)⟩
  case ring =>
    intro s cls p ring j hreach hlead hj
    dsimp only
    intro hreads hok hidle
    change execPrtRingset cls p ring s = _
    rw [execPrtRingset, leadCmd_of hreach hlead hj]
    dsimp only
    rw [if_pos hreads, if_neg (by simp [jobReads_of_stkcKept (StkcKept_seen _ _ _), hreads, hok, hidle])]
  case refill => exact fun _ => rfl

/-! Resolution of faults. -/

theorem faultCtl_of {s : State} {c : RClass} {p slot action : Nat} {last : Bool} {f : PFault}
    (hf : pendingFault (s.setRegF .prt p 0x0D4 18 0 (b2n last * 2 ^ 18 + action * 2 ^ 16 + slot % 65536)) p slot last = some f)
    (hmay : mayResolve c f action = true)
    (hs : suspending (s.setRegF .prt p 0x0D4 18 0 (b2n last * 2 ^ 18 + action * 2 ^ 16 + slot % 65536)) p = false) :
    faultCtl s c p slot action last =
      (s.setRegF .prt p 0x0D4 18 0 (b2n last * 2 ^ 18 + action * 2 ^ 16 + slot % 65536)).resolve p f action := by
  unfold faultCtl
  dsimp only
  rw [hf]
  dsimp only
  rw [if_neg (by simp [hmay]), if_neg (Bool.eq_false_iff.mp hs)]

/-- Settles O18: `faultCtl_of` for the three actions of a write; expiry and firmware's resolution behind their guards. -/
theorem faultResolutionsComplete : Obligations.FaultResolutionsComplete := by
  unfold Obligations.FaultResolutionsComplete
  refine ⟨?write, ?expiry, ?firmware⟩
  case write =>
    intro s cls p slot last action f hreach s1 hf hmay hs
    have hctl := faultCtl_of hf hmay hs
    refine ⟨?resume, ?retry, ?fail⟩
    case resume =>
      rintro rfl -
      change execFaultResume cls p slot last s = _
      rw [execFaultResume, if_pos hreach, hctl]
    case retry =>
      rintro rfl
      change execRetry cls p slot last s = _
      rw [execRetry, if_pos hreach, hctl]
    case fail =>
      rintro rfl
      change execFail cls p slot last s = _
      rw [execFail, if_pos hreach, hctl]
  case expiry =>
    intro s p k f hf hcode hdue hs
    have hany : (f.code == 0x3103 || f.code == 0x5001 || f.code == 0x4001) = true := by simpa [or_assoc] using hcode
    change execFaultHoldExpiry p k s = _
    unfold execFaultHoldExpiry
    simp only [hf, hany, hdue, hs, decide_true, Bool.not_false, Bool.and_self, if_true]
  case firmware =>
    intro s p k f hup t hf hcode hs
    have hany : (f.code == 0x1002 || f.code == 0x2002 || f.code == 0x1003) = true := by simpa [or_assoc] using hcode
    change execFwUeResolve p k s = _
    unfold execFwUeResolve
    rw [if_neg (by simp [hup])]
    dsimp only
    rw [hf]
    simp only [hany, hs, t, Bool.not_false, Bool.and_self, if_true]

/-! PRT_JOBCTL. -/

/-- A command that PRT_JOBCTL takes: none is under way, or it is DISSOLVE. -/
theorem jobctl_of {s : State} {c : RClass} {p cmd : Nat} {f : State → State} (hreach : reaches s c p = true) (hvf : notVf c = true)
    (hfree : regF s .prt p 0x008 11 8 ≠ 7 ∨ cmd = 2) :
    jobctl s c p cmd f = touchServ s (f ((s.setRegF .prt p 0x008 2 0 cmd).wakeJob p)) := by
  have hbusy : (regF s .prt p 0x008 11 8 == 7 && cmd != 2) = false := by
    rcases hfree with h | h <;> simp [h]
  simp [jobctl, hreach, hvf, hbusy]

/-- Settles O19: `jobctl_of` takes the command, and the state and the job let it through. -/
theorem jobCommandsComplete : Obligations.JobCommandsComplete := by
  unfold Obligations.JobCommandsComplete
  intro s cls p hreach hvf
  dsimp only
  refine ⟨?dissolve, fun hfree => ⟨?form, ?suspend, ?resume, ?hold, ?release⟩⟩
  case dissolve =>
    intro hlead hdiss
    change execDissolve cls p s = _
    rw [execDissolve, jobctl_of hreach hvf (.inr rfl), if_neg (by simpa using hlead), if_neg (by simpa using hdiss)]
  case form =>
    intro g hst hcheck
    change execForm cls p s = _
    rw [execForm, jobctl_of hreach hvf (.inl hfree), if_neg (by simpa using hst)]
    dsimp only
    rw [hcheck]
    rfl
  case suspend =>
    intro j hj hst hdiss hdebug hsave
    change execSuspend cls p s = _
    rw [execSuspend, jobctl_of hreach hvf (.inl hfree), hj]
    dsimp only
    rw [if_neg (by rcases hst with h | h | h <;> simp [h, hdiss, hdebug]), if_neg (by simp [hsave])]
  case resume =>
    intro j x hj hx hsave hstand
    change execJobResume cls p s = _
    rw [execJobResume, jobctl_of hreach hvf (.inl hfree), hj]
    dsimp only
    rw [hx]
    dsimp only
    rw [if_neg (by simp [hsave, hstand])]
  case hold =>
    intro j hj hst hdiss hdebug
    change execHold cls p s = _
    rw [execHold, jobctl_of hreach hvf (.inl hfree), hj]
    dsimp only
    rw [if_neg (by rcases hst with h | h <;> simp [h, hdiss, hdebug])]
  case release =>
    intro j hj hst hruns
    change execRelease cls p s = _
    rw [execRelease, jobctl_of hreach hvf (.inl hfree), hj]
    dsimp only
    rw [if_neg (by simp [hst, hruns])]

end Sys2Proof.Machine
end

section
/-! SUPPORT. Completion of firmware requests (Table 17.4): what each serves when its fields are in range and its conditions hold. -/

namespace Sys2Proof.Machine

/-- A request of a class with the authority for it is answered with what the request serves. -/
theorem next_fwReq {s : State} {h : FwHdr} {code auth : Nat} {c : RClass} {f : State → Served} {r : Served} (hc : fwClass s h auth = some c)
    (hf : f s = r) : (.next (fwReq s h code auth f) : Host.Outcome State Fault Refusal) = .next (fwAnswer s h c code r) := by
  rw [fwReq_of s h code auth f c hc, hf]

/-! Regions, classes, windows and apertures. -/

theorem regionSet_of {s : State} {rat : Nat} {f : RatFields} (hr : rat < 64) (hf : ratFieldsOk f = true)
    (hc : ratChangeOk s rat (ratWords f true) = true) :
    regionSet s rat f none = done_ (((s.dropClass rat).ratPut rat (ratWords f true)).commitCfg) := by
  unfold regionSet
  rw [if_neg (by simp [hf]; omega), if_neg (by simp [hc])]

theorem takeClass_of {s : State} {r : ClassRec} (hv : (ratEnt s r.rat).valid = true) (hs : r.sealIt = true → sealable s r.rat r.digtab = true) :
    takeClass s r = done_ (if r.sealIt then (s.putClass r).sealRegion r.rat else s.putClass r) := by
  unfold takeClass
  rw [if_neg (by cases hi : r.sealIt <;> simp_all)]

/-- Settles O20: `next_fwReq`, with every refusal of the request ruled out. -/
theorem regionRequestsComplete : Obligations.RegionRequestsComplete := by
  unfold Obligations.RegionRequestsComplete
  intro s h c hc
  refine ⟨?set, ?clear, ?class_, ?classSet, ?window, ?aperture⟩
  case set => exact fun rat f hr hf hch => next_fwReq hc (regionSet_of hr hf hch)
  case clear =>
    intro rat hr hch
    change Host.Outcome.next (fwReq s h 0x0002 aPB _) = _
    exact next_fwReq hc (by rw [if_neg (by omega), if_neg (by simp [hch])])
  case class_ =>
    intro r hf hv hs
    change Host.Outcome.next (fwReq s h 0x0003 aPB _) = _
    exact next_fwReq hc (by rw [if_neg (by simp [hf]), takeClass_of hv hs])
  case classSet =>
    intro index crema t hi ht
    change Host.Outcome.next (fwReq s h 0x0004 aPB _) = _
    exact next_fwReq hc (by rw [if_neg (by omega), ht]; rfl)
  case window =>
    intro vf base h1 h2 h3 h4
    change Host.Outcome.next (fwReq s h 0x0005 aPB _) = _
    exact next_fwReq hc (if_neg (by simp [h3]; omega))
  case aperture =>
    intro part aper f h1 h2 h3 h4
    change Host.Outcome.next (fwReq s h 0x0013 aPB _) = _
    exact next_fwReq hc (if_neg (by simp [h3]; omega))

/-! Queue pairs, keys, peers, pairs and held jobs. -/

theorem qpSet_of {s : State} {qp : Nat} {f : QpFields} (hf : qpFieldsOk qp f = true) (hq : 2 ≤ qp) (hst : f.st ≠ 3)
    (hidle : (qpOf s qp).unacked = []) :
    qpSet s qp f = done_ (s.modQp qp (fun _ => if f.st == 0 then {} else
      { st := qpStOf f.st, job := f.job, purpose := f.purpose, peer := f.peer, rqpn := f.rqpn, sndPsn := f.sndPsn, rcvPsn := f.rcvPsn,
        port := f.port, addr := if f.peer < 65536 then (peer s f.peer).addr else 0, setup := s.time.mono + 1 })) := by
  unfold qpSet
  rw [if_neg (by simp [hf]), if_neg (by omega), hidle]
  simp only [List.isEmpty_nil, if_true, beq_iff_eq, hst, if_false]

theorem leadReq_of {s : State} {lead : Nat} {j : Job} {f : State → Job → Served} (hl : lead < 16) (hj : job? s lead = some j) :
    leadReq s lead f = f s j := by
  unfold leadReq
  rw [if_neg (by omega), hj]

/-- Settles O21: `next_fwReq`, with every refusal of the request ruled out. -/
theorem transportAndPairRequestsComplete : Obligations.TransportAndPairRequestsComplete := by
  unfold Obligations.TransportAndPairRequestsComplete
  intro s h c hc
  refine ⟨?qp, ?key, ?peer, ?pair, ?unpair, ?release⟩
  case qp => exact fun qp f hf hq hst hidle => next_fwReq hc (qpSet_of hf hq hst hidle)
  case key =>
    intro key job rat nrd nwr hk hj hr hv hrd hwr k
    change Host.Outcome.next (fwReq s h 0x0011 aPB _) = _
    refine next_fwReq hc ?_
    unfold keySet
    dsimp only
    rw [if_neg (by simp; omega), if_neg (by cases nrd <;> cases nwr <;> simp_all)]
    rfl
  case peer =>
    intro first entries h1 h2
    change Host.Outcome.next (fwReq s h 0x0012 aPB _) = _
    exact next_fwReq hc (if_neg (by simp; omega))
  case pair =>
    intro rec j hf hj hfit
    change Host.Outcome.next (fwReq s h 0x0020 aPB _) = _
    refine next_fwReq hc ?_
    rw [if_neg (by simp [hf]), hj]
    exact if_pos hfit
  case unpair =>
    intro lead j hl hj hst
    change Host.Outcome.next (fwReq s h 0x0021 aPB _) = _
    exact next_fwReq hc ((leadReq_of hl hj).trans (if_neg (by simpa using hst)))
  case release =>
    intro lead j hl hj hheld
    change Host.Outcome.next (fwReq s h 0x0022 aPB _) = _
    exact next_fwReq hc ((leadReq_of hl hj).trans (if_pos hheld))

/-! Units, scrubbing, settings, the configuration copies and the image slot. -/

/-- Settles O22: `next_fwReq`; a commit takes the copy that is not in use, whichever that is. -/
theorem settingRequestsComplete : Obligations.SettingRequestsComplete := by
  unfold Obligations.SettingRequestsComplete
  intro s h c hc
  refine ⟨?unit, ?scrub, ?setting, ?read, ?start, ?data, ?commit, ?update⟩
  case unit =>
    intro pc hpc
    change Host.Outcome.next (fwReq s h 0x0023 aPB _) = _
    exact next_fwReq hc (if_neg (by omega))
  case scrub =>
    intro patrol digest hp hd
    change Host.Outcome.next (fwReq s h 0x0024 aPB _) = _
    exact next_fwReq hc (if_neg (by simp; omega))
  case setting => exact fun off mask value _ => next_fwReq hc rfl
  case read =>
    intro copyB off len hl ho
    change Host.Outcome.next (fwReq s h 0x0030 aPB _) = _
    exact next_fwReq hc (if_neg (by simp; omega))
  case start => exact next_fwReq hc rfl
  case data =>
    intro off bytes w hl ho hw
    change Host.Outcome.next (fwReq s h 0x0031 aPB _) = _
    refine next_fwReq hc ?_
    rw [if_neg (by simp; omega), hw]
  case commit =>
    intro w hw len recs copy seq hdr
    change Host.Outcome.next (fwReq s h 0x0031 aPB _) = _
    refine next_fwReq hc ?_
    rw [hw]
    simp only [hdr, seq, copy]
    cases s.fw.cfgInUse <;> rfl
  case update =>
    intro addr size h1 h2 h3 hown s1 hgood
    change Host.Outcome.next (fwReq s h 0x0032 aPB _) = _
    refine next_fwReq hc ?_
    rw [if_neg (by simp; omega), if_neg (by simp [hown])]
    dsimp only
    rw [if_neg (by simpa using hgood)]
    rfl

/-! Identity, fuses and the BMC's session. -/

/-- Settles O23: `next_fwReq` with the authority of each request; the session's timeout behind its guard. -/
theorem securityRequestsComplete : Obligations.SecurityRequestsComplete := by
  unfold Obligations.SecurityRequestsComplete
  intro s h c
  refine ⟨?attest, ?certificate, ?version, ?revoke, ?layout, ?ceiling, ?challenge, ?auth, ?end_, ?timeout⟩
  case attest =>
    intro nonce hc hl
    change Host.Outcome.next (fwReq s h 0x0040 7 _) = _
    exact next_fwReq hc (if_neg (by simp [hl]))
  case certificate =>
    intro hc h0 h1 hlen
    change Host.Outcome.next (fwReq s h 0x0041 15 _) = _
    exact next_fwReq hc (if_neg (by rw [h0, h1]; simp only [bne_self_eq_false, Bool.or_self, Bool.false_or, decide_eq_true_eq]; omega))
  case version =>
    intro target hc h1 h2 h3
    change Host.Outcome.next (fwReq s h 0x0050 aPB _) = _
    refine next_fwReq hc ?_
    rw [if_neg (by omega), if_neg (by simp; omega)]
  case revoke =>
    intro slot signer pubkey sig hc h1 h2 hne hkey hsig hslot hsigner hdig hver
    change Host.Outcome.next (fwReq s h 0x0051 aPB _) = _
    refine next_fwReq hc ?_
    rw [if_neg (by simp [hkey, hsig]; omega), if_neg (by simp [hne, hslot, hsigner, hdig, hver])]
  case layout =>
    intro n hc h1 hjobs h2
    change Host.Outcome.next (fwReq s h 0x0052 4 _) = _
    refine next_fwReq hc ?_
    rw [if_neg (by omega), if_neg (by simp [hjobs]; omega)]
  case ceiling =>
    intro watts hc h1 h2 h3 h4
    change Host.Outcome.next (fwReq s h 0x0053 4 _) = _
    refine next_fwReq hc ?_
    rw [if_neg (by simp; omega), if_neg (by simp; omega)]
  case challenge =>
    intro hc hdue
    change Host.Outcome.next (fwReq s h 0x0060 12 _) = _
    exact next_fwReq hc (if_neg (by omega))
  case auth =>
    intro key sig n hc hkey hsig hn hset hdig hver
    change Host.Outcome.next (fwReq s h 0x0061 8 _) = _
    refine next_fwReq hc ?_
    rw [if_neg (by simp [hkey, hsig]), hn]
    dsimp only
    rw [if_neg (by simp only [hset, hdig, hver, bne_self_eq_false, Bool.not_true, Bool.or_self, Bool.false_eq_true, not_false_iff])]
  case end_ => exact fun hc => next_fwReq hc rfl
  case timeout =>
    intro hs hdue
    change execBmcSessionTimeout s = _
    rw [execBmcSessionTimeout, if_pos (by simp [hs, hdue])]

end Sys2Proof.Machine
end

section
/-! SUPPORT. Completion of stack settings and repair, of the stacks' clocks, and of scrubbing and remapping. -/

namespace Sys2Proof.Machine

/-! Settings and repair. -/

/-- A repair command of a class that writes GRD fields, on a stack that exists, answers its code and what is free. -/
theorem rprRun_of {s t : State} {cls : RClass} {stack code r : Nat} {f : State → Nat → Nat × State} (hc : grdClass s cls = true)
    (hst : stack < 20)
    (hf : f (s.setRegF .stk stack 0x100 2 0 code) (rprKey (s.setRegF .stk stack 0x100 2 0 code) stack) = (r, t)) :
    rprRun s cls stack code f = touchStk s (t.setReg .stk stack 0x108
      ((8 - (spares t (keyBankId (rprKey (s.setRegF .stk stack 0x100 2 0 code) stack))).length) * 256 + r)) := by
  unfold rprRun
  rw [if_neg (by simp [hc]; omega)]
  dsimp only
  rw [hf]

theorem softRow_of {s : State} {bank row i : Nat} (hard : Bool) (h : spareFree s bank = some i) :
    s.softRow bank row hard = (0, (s.setSpares bank (spares s bank ++ [⟨i, row, hard⟩])).rowLost bank row) := by
  unfold State.softRow
  rw [h]

/-- Settles O24: `rprRun_of` for the repair commands; class changes and RAT words behind the class's guard. -/
theorem stackSettingsComplete : Obligations.StackSettingsComplete := by
  unfold Obligations.StackSettingsComplete
  intro s cls hc
  refine ⟨?classChange, ?rat, ?repair⟩
  case classChange =>
    intro index crema t ht
    change execStkClasschg cls index crema s = _
    rw [execStkClasschg, if_pos hc, ht]
  case rat =>
    intro n word value hn hword old m ws hok
    change execRatEntryWrite cls n word value s = _
    refine congrArg _ (if_neg ?_)
    simp only [hc, Bool.not_true, Bool.false_or, Bool.or_eq_true, decide_eq_true_eq, not_or, Bool.not_eq_true', Bool.not_eq_false]
    exact ⟨⟨by omega, by omega⟩, hok⟩
  case repair =>
    intro stack index hst
    dsimp only
    refine ⟨?nop, ?map, ?soft, ?hard, ?clear, ?read, ?write⟩
    case nop => exact congrArg _ (rprRun_of hc hst rfl)
    case map =>
      intro hi
      refine congrArg _ (rprRun_of hc hst ?_)
      dsimp only
      rw [Nat.mod_eq_of_lt (by omega), if_neg (by omega)]
      rfl
    case soft => exact fun i hi => congrArg _ (rprRun_of hc hst (softRow_of false hi))
    case hard => exact fun t hm ht => congrArg _ (rprRun_of hc hst ((if_pos hm).trans ht))
    case clear => exact congrArg _ (rprRun_of hc hst rfl)
    case read => exact fun hm => congrArg _ (rprRun_of hc hst (if_pos hm))
    case write => exact fun hm => congrArg _ (rprRun_of hc hst (if_pos hm))

/-! Clocks of the stacks. -/

theorem payBack_none {s : State} {b : Nat} (h : (getT s.stk.rhRows b).getD [] = []) :
    s.payBack b = { s with stk := { s.stk with
      postponed := if postponed s b - 1 = 0 then delT s.stk.postponed b else putT s.stk.postponed b (postponed s b - 1),
      openRow := delT s.stk.openRow b } } := by
  unfold State.payBack
  rw [h]
  simp only [beq_iff_eq]

theorem payBack_targeted {s : State} {b row : Nat} {rest : List Nat} (h : (getT s.stk.rhRows b).getD [] = row :: rest) :
    s.payBack b = ({ s with stk := { s.stk with
      postponed := if postponed s b - 2 = 0 then delT s.stk.postponed b else putT s.stk.postponed b (postponed s b - 2),
      openRow := delT s.stk.openRow b } } : State).targeted b row := by
  unfold State.payBack
  rw [h]
  simp only [beq_iff_eq]

/-- Settles O25: a refresh pays back one, or two with a waiting targeted refresh; the others behind their guards. -/
theorem stackClocksComplete : Obligations.StackClocksComplete := by
  unfold Obligations.StackClocksComplete
  refine ⟨?refresh, ?window, ?flush, ?enter, ?leave, ?fill⟩
  case refresh =>
    intro s pc bank hpc
    dsimp only
    have hstack : (pc * 64 + bank % 64) / 4096 = pc / 64 := by omega
    refine ⟨?plain, ?targeted, ?postpone⟩
    case plain =>
      intro h
      change execRefresh pc bank true s = _
      rw [execRefresh, if_neg (by omega), if_pos rfl, payBack_none h]
      rfl
    case targeted =>
      intro row rest h
      change execRefresh pc bank true s = _
      rw [execRefresh, if_neg (by omega), if_pos rfl, payBack_targeted h]
      rfl
    case postpone =>
      change execRefresh pc bank false s = _
      rw [execRefresh, if_neg (by omega), if_neg Bool.false_ne_true, State.postpone, hstack]
      rfl
  case window => exact fun _ _ => rfl
  case flush =>
    intro s stack seg e he hdue
    change execWcbIdleFlush stack seg s = _
    rw [execWcbIdleFlush, he]
    exact congrArg _ (if_pos hdue)
  case enter => exact fun _ hidle => congrArg _ (if_pos hidle)
  case leave => exact fun _ _ hst hself hup => congrArg _ (if_pos (by simp [hst, hself, hup]))
  case fill =>
    intro s i crema hfill s1 s2 s3
    change execClassFillDone s = _
    rw [execClassFillDone, hfill]

/-! Repair, scrubbing and remapping. -/

/-- A block of a sealed region that the digest scrubber reaches: a mismatch when it is bad, a count when it was read again. -/
theorem scrub_region {s : State} {rat block lead : Nat} {second : Bool} (hrate : s.fw.digestRate ≠ 0)
    (hown : ownerLead s (ratEnt s rat) = some lead) (hseal : s.fw.sealedR.contains rat = true) (hblock : block < regionBlocks (ratEnt s rat))
    (hfetch : fetching s rat block = false) :
    scrub s true rat block second = if blockBad s rat block then s.mismatch lead true rat block
      else if second then { s with fw := { s.fw with digestRetries := s.fw.digestRetries + 1 } } else s := by
  unfold scrub
  dsimp only
  rw [if_neg (by simpa using hrate), if_pos rfl, hown]
  dsimp only
  rw [if_neg (by simp only [hseal, hfetch, Bool.not_true, Bool.false_or, Bool.or_false, decide_eq_true_eq]; omega)]

/-- Settles O26: each behind its guard; a digest is told good from bad by `scrub_region`. -/
theorem resilienceCommandsComplete : Obligations.ResilienceCommandsComplete := by
  unfold Obligations.ResilienceCommandsComplete
  refine ⟨?row, ?patrol, ?scrub, ?remap, ?fatal⟩
  case row =>
    intro s pc rowNo hpc hrow hup hhost hdue
    change execFwRowRepair pc rowNo s = _
    refine congrArg _ (if_neg ?_)
    simp only [hup, hhost, hdue, Bool.not_true, Bool.or_false, Bool.or_eq_true, decide_eq_true_eq]
    omega
  case patrol =>
    intro s stack hst hrate hself hmaint hfatal n s1
    change execPatrolRead stack s = _
    refine congrArg _ (if_neg ?_)
    simp only [hself, hmaint, hfatal, Bool.or_false, Bool.or_eq_true, decide_eq_true_eq, beq_iff_eq]
    omega
  case scrub =>
    intro s rat block lead second hfatal hrate hown hseal hblock hfetch
    have run : exec (.digestScrub true rat block second) s = .next (touchRes s (scrub s true rat block second)) :=
      congrArg _ (if_neg (by simp [hfatal]))
    rw [run, scrub_region hrate hown hseal hblock hfetch]
    exact ⟨fun hbad => by rw [if_pos hbad], fun hgood => by rw [if_neg (by simp [hgood])]⟩
  case remap =>
    intro s k inst unit n ue hk hroom s1
    change execSramRemap k inst unit ue s = _
    rw [execSramRemap, hk]
    exact congrArg _ (if_pos hroom)
  case fatal =>
    intro s hf
    refine ⟨rfl, ?_⟩
    rw [State.deviceFatal, if_neg (by simp [hf])]

end Sys2Proof.Machine
end

section
/-! SUPPORT. Completion of what the network brings: messages, answers and timers, connection management, ports, and a pair's own timers. -/

namespace Sys2Proof.Machine

/-! Messages. -/

/-- A request on a queue pair of purpose REQUEST goes into its job's ring (R345). -/
theorem sendMsg_request {s : State} {h : NetHdr} {data : List Byte} {imm : Option Word} {j : Job} (ht : netTakes s h)
    (hj : job? (netIn s h data.length) (qpOf (netIn s h data.length) h.qp).job = some j) (hp : (qpOf (netIn s h data.length) h.qp).purpose = 1)
    (hlen : data.length ≤ 4096) (hroom : ringFull j = false) :
    sendMsg s h data imm = (netIn s h data.length).reqArrive h (qpOf (netIn s h data.length) h.qp).job data := by
  unfold sendMsg
  rw [arrive_of ht]
  simp only [hp, hj]
  rw [if_neg (by omega), if_neg (by simp [hroom])]

/-- A Decant message of the pair's peer, for which there is room, is handled by its type (R386). -/
theorem sendMsg_decant {s : State} {h : NetHdr} {data : List Byte} {j : Job} {type : Nat} (ht : netTakes s h)
    (hj : job? (netIn s h data.length) (qpOf (netIn s h data.length) h.qp).job = some j) (hp : (qpOf (netIn s h data.length) h.qp).purpose = 3)
    (hpair : j.pair.st ≠ .unpaired) (hpeer : pairPeer j = (qpOf (netIn s h data.length) h.qp).peer) (hlen : data.length ≤ 2 ^ 31)
    (hroom : rxRoom j data.length = true) (htype : decType data = some type) :
    sendMsg s h data none =
      ((netIn s h data.length).taken h (pkts data.length)).decArrive (qpOf (netIn s h data.length) h.qp).job data := by
  unfold sendMsg
  rw [arrive_of ht]
  simp only [hp, hj]
  rw [if_neg (by unfold msgMax; omega), if_neg (by simp [hpair, hpeer, htype]), if_neg (by simp [hroom])]

/-- A write that its key allows is placed, its immediate data taken, and acknowledged (R346). -/
theorem writeMsg_of {s : State} {h : NetHdr} {va : Nat} {rkey : Word} {data : List Byte} (imm : Option Word) (ht : netTakes s h)
    (hlen : data.length ≤ 2 ^ 31) (hkey : keyOk (netIn s h data.length) (qpOf (netIn s h data.length) h.qp) rkey.toNat va data.length 3 = true) :
    writeMsg s h va rkey data imm = (imm.elim ((netIn s h data.length).placeNet va data)
      (((netIn s h data.length).placeNet va data).immediate h ·)).taken h (pkts data.length) := by
  unfold writeMsg
  rw [arrive_of ht]
  dsimp only
  rw [if_neg (by unfold msgMax; omega), if_neg (by simp [hkey])]
  cases imm <;> rfl

/-- A read that its key allows, all of whose words are good, is answered with its bytes (R346). -/
theorem readAnswer_of {s t : State} {h : NetHdr} {va len : Nat} {rkey : Word} {bs : List Byte} (hlen : len ≤ 2 ^ 31) (howed : readsOwed s h.qp < 16)
    (hkey : keyOk s (qpOf s h.qp) rkey.toNat va len 2 = true) (hread : readStack s va len = (bs, false, t)) :
    s.readAnswer h va rkey len true =
      (t.modQp h.qp (fun x => { x with rcvPsn := seqAdd h.psn (pkts len) })).answer h.qp len (.readResp h.qp h.psn bs) := by
  have hshort : ¬ msgMax < len := by unfold msgMax; omega
  unfold State.readAnswer
  rw [if_neg (by simp [hshort, howed]), if_neg (by simp [hkey]), hread]
  rfl

/-- Settles O27: `arrive_of` takes the packet, and its purpose, length and key let the message through. -/
theorem messagesComplete : Obligations.MessagesComplete := by
  unfold Obligations.MessagesComplete
  refine ⟨?send, ?write, ?read, ?atomic⟩
  case send =>
    intro s h data imm j ht
    dsimp only
    intro hj
    refine ⟨?request, ?decant⟩
    case request =>
      intro hp hlen hroom
      change execSend h data imm s = _
      rw [execSend, sendMsg_request ht hj hp hlen hroom]
    case decant =>
      rintro hp hpair hpeer hlen hroom type m htype rfl rfl
      have handled : decMsg s m type = touchDesc s (((netIn s m.hdr m.bytes.length).taken m.hdr (pkts m.bytes.length)).decArrive
          (qpOf (netIn s m.hdr m.bytes.length) m.hdr.qp).job m.bytes) := by
        rw [Machine.decMsg, if_pos (by simp [htype]), sendMsg_decant ht hj hp hpair hpeer hlen hroom htype]
      refine ⟨?_, ?_, ?_, ?_, ?_, ?_⟩ <;> rintro rfl <;> exact congrArg _ handled
  case write =>
    intro s h va rkey data imm ht
    dsimp only
    intro hlen hkey
    refine ⟨?plain, ?immediate⟩
    case plain =>
      change execRdmaWrite h va rkey data s = _
      rw [execRdmaWrite, writeMsg_of none ht hlen hkey]
      rfl
    case immediate =>
      change execWriteWithImmediate h va rkey data imm s = _
      rw [execWriteWithImmediate, writeMsg_of (some imm) ht hlen hkey]
      rfl
  case read =>
    intro s h va rkey len bs t ht
    dsimp only
    intro hlen howed hkey hread
    change execRdmaRead h va rkey len s = _
    rw [execRdmaRead, arrive_of ht, readAnswer_of hlen howed hkey hread]
  case atomic =>
    intro s h ht
    change execRoceAtomic h s = _
    rw [execRoceAtomic, arrive_of ht]

/-! Answers and timers. -/

/-- Settles O28: `answered_of` in RTS, and the counts of retries decide between sending again and giving up. -/
theorem answersAndTimersComplete : Obligations.AnswersAndTimersComplete := by
  unfold Obligations.AnswersAndTimersComplete
  intro s qp hst
  refine ⟨?ack, ?again, ?fatal, ?notReady, ?timer, ?resend, ?spent, ?cnp, ?epoch⟩
  case ack =>
    intro psn data
    change execAck qp psn data s = _
    rw [execAck, answered_of hst]
  case again =>
    intro psn
    change execNak qp psn 0 s = _
    rw [execNak, answered_of hst]
    rfl
  case fatal =>
    intro psn code hcode t
    change execNak qp psn code s = _
    rw [execNak, answered_of hst]
    rcases hcode with rfl | rfl <;> rfl
  case notReady =>
    intro psn timer
    dsimp only
    intro hleft
    change execRnrNak qp psn timer s = _
    rw [execRnrNak, answered_of hst]
    dsimp only
    rw [if_neg (by rcases hleft with h | h <;> simp [h])]
  case timer =>
    intro hwait
    exact congrArg _ (if_pos (by simp [hwait, hst]))
  case resend =>
    intro hun hwait hleft hup
    change execAckTimeout qp s = _
    unfold execAckTimeout
    dsimp only
    rw [if_neg (by simp [hst, hun, hwait]), if_neg (by omega), if_pos hup]
  case spent =>
    intro hun hwait hleft
    change execAckTimeout qp s = _
    unfold execAckTimeout
    dsimp only
    rw [if_neg (by simp [hst, hun, hwait]), if_pos hleft]
  case cnp => exact congrArg _ (if_neg (by simp [hst]))
  case epoch => exact congrArg _ (if_neg (by simp [hst]))

/-! Connection management. -/

theorem cmStep_of {s f : State} {k : Nat} (hup : fwUp s = true) (hport : somePort s = some k) : cmStep s f = touchDesc s f := by
  simp [cmStep, hup, hport]

/-- Settles O29: `cmStep_of` lets the message in, and state and address match. -/
theorem connectionCommandsComplete : Obligations.ConnectionCommandsComplete := by
  unfold Obligations.ConnectionCommandsComplete
  intro s m k hup hport
  refine ⟨?request, ?reply, ?ready⟩
  case request =>
    intro q hgood hfree
    change execReq m s = _
    rw [execReq, cmStep_of hup hport, reqMsg, hgood, hfree]
  case reply =>
    intro hst hsrc x t
    refine ⟨?rep, fun reason => ?rej⟩
    case rep =>
      change execRep m s = _
      rw [execRep, cmStep_of hup hport, repMsg, if_neg (by simp [hst, hsrc])]
    case rej =>
      change execRej m reason s = _
      rw [execRej, cmStep_of hup hport, rejMsg, if_neg (by simp [hst, hsrc])]
  case ready =>
    intro hst hsrc
    change execRtu m s = _
    rw [execRtu, cmStep_of hup hport]
    exact congrArg (fun t => Host.Outcome.next (touchDesc s t)) (if_neg (by simp [hst, hsrc]))

/-! Ports, pauses and frames. -/

/-- Settles O30: a die and a port that exist, and the pause or the frame as it is found. -/
theorem portCommandsComplete : Obligations.PortCommandsComplete := by
  unfold Obligations.PortCommandsComplete
  refine ⟨?ports, ?pauses, ?frames, ?drops⟩
  case ports =>
    intro s die port hdie hport
    exact ⟨fun _ => congrArg _ (if_pos (by simp [hdie, hport])), fun hdown =>
      ⟨congrArg _ (if_pos (by simp [hdie, hport])), congrArg _ (if_pos (by simp [hdie, hport, hdown]))⟩⟩
  case pauses =>
    intro s die port prio hok k
    refine ⟨?pause, ?unpause, ?watchdog, ?release⟩
    case pause =>
      intro hprio hig hpaused
      change execPauseFrame die port prio true s = _
      simp [execPauseFrame, hok, hprio, hig, hpaused, k]
    case unpause =>
      intro hprio hig
      change execPauseFrame die port prio false s = _
      simp [execPauseFrame, hok, hprio, hig, k]
    case watchdog =>
      intro t ht hms hdue s1 s2
      change execPfcWatchdog die port prio s = _
      unfold execPfcWatchdog
      dsimp only
      rw [ht]
      refine congrArg _ (if_neg ?_)
      simp only [hok, Bool.not_true, Bool.false_or, Bool.or_eq_true, beq_iff_eq, decide_eq_true_eq]
      omega
    case release =>
      intro t ht hdue
      change execPauseWatchdogRelease die port prio s = _
      unfold execPauseWatchdogRelease
      dsimp only
      rw [ht]
      exact congrArg _ (if_pos (by simp [hok, hdue]))
  case frames =>
    intro s port kind payload hport hup
    have reached : ¬ (decide (16 ≤ port) || !portIsUp s port) = true := by simp [hup]; omega
    refine ⟨?answered, ?dropped⟩
    case answered =>
      intro hkind hlen hfw
      have hshort : ¬ frameMax < payload.length := by unfold frameMax; omega
      change execFirmwareFrame port kind payload s = _
      rw [execFirmwareFrame, if_neg reached, if_neg (by simp [hshort, hkind]), if_pos hfw]
    case dropped =>
      intro hbad
      have hbad : 2 < kind ∨ frameMax < payload.length := hbad.imp_right fun h => by unfold frameMax; omega
      change execFirmwareFrame port kind payload s = _
      rw [execFirmwareFrame, if_neg reached, if_pos (by simpa using hbad)]
  case drops =>
    intro s die hdie
    exact ⟨congrArg _ (if_neg (by omega)), congrArg _ (if_neg (by omega)), congrArg _ (if_neg (by omega)), congrArg _ (if_neg (by omega))⟩

/-! A pair's own timers. -/

/-- Settles O31: the job is there, and the pair's state lets the timer act. -/
theorem pairTimersComplete : Obligations.PairTimersComplete := by
  unfold Obligations.PairTimersComplete
  intro s lead j hj hfatal
  refine ⟨?heartbeat, ?lost, ?retry⟩
  case heartbeat =>
    intro hlive
    change execHeartbeatSend lead s = _
    rw [execHeartbeatSend, hj]
    exact congrArg _ (if_pos (by simp [hlive, hfatal]))
  case lost =>
    intro hlive hsaved hhold hdue
    change execPartnerLost lead s = _
    rw [execPartnerLost, hj]
    exact congrArg _ (if_pos (by simp only [hlive, hfatal, hsaved, hhold, hdue, Option.isNone_none, Bool.not_false, decide_true, Bool.and_self]))
  case retry =>
    intro hst
    change execPairRetry lead s = _
    rw [execPairRetry, hj]
    exact congrArg _ (if_pos (by rcases hst with h | h <;> simp [h, hfatal]))

end Sys2Proof.Machine
end

section
/-! SUPPORT. Completion of the host link, of register accesses, of device time, and of temperature and power. -/

namespace Sys2Proof.Machine

/-! The host link. -/

/-- Settles O32: the function is reached, and the access lies in its window. -/
theorem hostLinkCommandsComplete : Obligations.HostLinkCommandsComplete := by
  unfold Obligations.HostLinkCommandsComplete
  refine ⟨?pf, ?vf, ?completion, ?vfReset, ?link, fun s => exec_perst_rise⟩
  case pf =>
    intro s off len bs hup hclk hrec
    refine ⟨fun hoff => ?write, fun hoff => ?read⟩
    case write =>
      change execPfBar2Access off (some bs) len s = _
      unfold execPfBar2Access
      dsimp only
      rw [if_neg (by simp [hup, hclk]; omega), if_neg (by simp [hrec])]
    case read =>
      change execPfBar2Access off none len s = _
      unfold execPfBar2Access
      dsimp only
      rw [if_neg (by simp [hup, hclk]; omega), if_neg (by simp [hrec])]
  case vf =>
    intro s p off len bs hup hclk
    have inPage {n : Nat} (h : off + n ≤ vfPage) : ¬ 2 ^ 28 < off + n := by unfold vfPage at h; omega
    refine ⟨fun hoff hpage => ?write, fun hoff hpage => ?read⟩
    case write =>
      change execVfBar2Access p off (some bs) len s = _
      unfold execVfBar2Access
      dsimp only
      rw [if_neg (by simpa [hup, hclk] using inPage hoff), if_neg (by omega), if_neg (by omega)]
    case read =>
      change execVfBar2Access p off none len s = _
      unfold execVfBar2Access
      dsimp only
      rw [if_neg (by simpa [hup, hclk] using inPage hoff), if_neg (by omega), if_neg (by omega)]
  case completion =>
    intro s tag r hr
    refine ⟨?good, ?timeout⟩
    case good =>
      intro data d hd s1 s2
      change execHostReadCompletion tag true data s = _
      unfold execHostReadCompletion
      simp only [hr, hd, Bool.not_true, Bool.false_eq_true, if_false]
      rfl
    case timeout =>
      change execCompletionTimeout tag s = _
      rw [execCompletionTimeout, hr]
  case vfReset =>
    intro s p hup hclk
    rw [exec_vfFlr_of_vfUp hup hclk]
    rfl
  case link =>
    intro s hup hclk
    refine ⟨exec_pfFlr_of_up hup hclk, exec_perst_fall hup hclk, ?malformed, ?retrain⟩
    case malformed =>
      intro line hline
      exact congrArg _ (if_neg (by simp [hup, hclk]; omega))
    case retrain =>
      intro gen width h1 h2 hw t
      change execLinkRetrain gen width s = _
      unfold execLinkRetrain
      rw [if_neg (by simp only [hup, hclk, hw, Bool.false_or, Bool.not_true, Bool.or_false, Bool.or_eq_true, decide_eq_true_eq]; omega)]
      simp only [Bool.or_eq_true, decide_eq_true_eq, t]

/-! Register accesses. -/

/-- An aligned read of four bytes of a class in force answers its completion (R415). -/
theorem exec_rcRead_aligned {s : State} {cls c : RClass} {off : Nat} (hc : classNow s cls = some c) (hoff : off % 4 = 0) :
    exec (.rcRead cls off false) s = .next (touchDesc s ((read4 s c off).2.complete (natBytes 4 (read4 s c off).1) false)) := by
  change execRcRead cls off false s = _
  rw [execRcRead, hc]
  exact congrArg (fun t => Host.Outcome.next (touchDesc s t)) (if_neg (by simp [aligned, hoff]))

/-- Settles O33: the class is in force and the offset aligned. -/
theorem registerAccessesComplete : Obligations.RegisterAccessesComplete := by
  unfold Obligations.RegisterAccessesComplete
  intro s cls c hc
  refine ⟨fun off => exec_rcRead_aligned hc, ?read8, ?write4, ?write8, fun hm => ⟨fun value => ?select, ?last⟩, ?cons⟩
  case read8 =>
    intro off hoff
    change execRcRead cls off true s = _
    rw [execRcRead, hc]
    exact congrArg (fun t => Host.Outcome.next (touchDesc s t)) (if_neg (by simp [aligned, hoff]))
  case write4 =>
    intro off value hoff
    change execRegisterWrite cls off value false s = _
    rw [execRegisterWrite, hc]
    exact congrArg _ (if_neg (by simp [aligned, hoff]))
  case write8 =>
    intro off value hoff
    change execRegisterWrite cls off value true s = _
    rw [execRegisterWrite, hc]
    exact congrArg _ (if_neg (by simp [aligned, hoff]))
  case select =>
    change execGlbMbxSel cls value s = _
    rw [execGlbMbxSel, hc]
    exact congrArg _ (if_pos hm)
  case last =>
    change execMbxData7Read cls s = _
    rw [execMbxData7Read, hc]
    exact congrArg _ (if_pos hm)
  case cons =>
    intro off i o prod n b value hcls hreg hring
    change execDbgRingConsWrite cls off value s = _
    unfold execDbgRingConsWrite
    simp [hc, hreg, hring, hcls]

/-! Device time. -/

/-- Settles O34: each guard holds; a PTP message is told by SELECT. -/
theorem timeCommandsComplete : Obligations.TimeCommandsComplete := by
  unfold Obligations.TimeCommandsComplete
  refine ⟨?ptp, ?holdover, ?expiry, ?step, fun s => exec_ppsIn_of_enabled, fun s => exec_ppsOut_of_enabled, ?alert⟩
  case ptp =>
    intro s m hport hup hfw hdom hen
    have taken : exec (.ptpMessage m) s = .next (touchTime s (ptpStep s m)) := congrArg _ (if_pos (by simp [hport, hup, hfw]))
    rw [taken, ptpStep, if_neg (by simp [hdom]), if_neg (by simp [hen])]
    refine ⟨fun hsel => ?select, fun hsel hmine => ?offset⟩
    case select => rw [if_pos hsel]
    case offset => rw [if_neg (by simp [hsel]), if_pos (by simp [hmine])]
  case holdover => exact fun s hl => congrArg _ (if_pos (by simp [hl]))
  case expiry => exact fun s hl hdue => congrArg _ (if_pos (by simp only [hl, hdue, beq_self_eq_true, decide_true, Bool.and_self]))
  case step => exact fun s cls hc => congrArg _ (if_pos hc)
  case alert =>
    intro s t ht hfree hdue
    change execAlertHoldEnd s = _
    rw [execAlertHoldEnd, ht]
    exact congrArg _ (if_pos (by simp [hfree, hdue]))

/-! Temperature and power. -/

/-- The first of a range for which a function answers is the one that `findSome?` gives. -/
theorem findSome?_range_of_first {α : Type} {f : Nat → Option α} {n d : Nat} {x : α} (hd : d < n) (hx : f d = some x)
    (hfirst : ∀ e, e < d → f e = none) : (List.range n).findSome? f = some x := by
  induction n with
  | zero => omega
  | succ n ih =>
    rw [List.range_succ, List.findSome?_append]
    by_cases hn : d < n
    · rw [ih hn, Option.some_or]
    · obtain rfl : d = n := by omega
      have hnone : (List.range d).findSome? f = none := by simpa [List.findSome?_eq_none_iff] using hfirst
      simp [hnone, hx]

/-- A sample in which a die trips: the first such die decides (R433, R435). -/
theorem exec_sensorSample_of_trip {s : State} {rs : List (Option Reading)} {d n : Nat} (hup : s.pin.thermtrip = false) (hd : d < 26)
    (htrip : tripOf (sampleAll s rs) d = some n) (hfirst : ∀ e, e < d → tripOf (sampleAll s rs) e = none) :
    exec (.sensorSample rs) s = .next (resetTo s { (sampleAll s rs).trip d n with time := s.time }) := by
  have die : (List.range 26).findSome? (fun d => (tripOf (sampleAll s rs) d).map (fun n => (d, n))) = some (d, n) :=
    findSome?_range_of_first hd (by simp [htrip]) (fun e he => by simp [hfirst e he])
  change execSensorSample rs s = _
  simp [execSensorSample, hup, die]

/-- Settles O35: a sample trips on the first die that does (`exec_sensorSample_of_trip`) or on none; the others run while clocks do. -/
theorem thermalCommandsComplete : Obligations.ThermalCommandsComplete := by
  unfold Obligations.ThermalCommandsComplete
  refine ⟨?sample, ?power⟩
  case sample =>
    intro s readings hup
    exact ⟨exec_sensorSample_of_no_trip hup, fun d n hd htrip hfirst => exec_sensorSample_of_trip hup hd htrip hfirst⟩
  case power =>
    intro s hclk
    have runs : ¬ s.pin.stopped = true := by simp [hclk]
    refine ⟨fun _ _ _ => congrArg _ (if_neg runs), fun _ _ _ => congrArg _ (if_neg runs), ?alert, rfl, ?roast⟩
    case alert => exact congrArg _ (if_pos (by simp [hclk]))
    case roast => exact fun hfw slow => congrArg _ (if_pos (by simp [hfw, hclk]))

end Sys2Proof.Machine
end

section
/-! SUPPORT. Completion of starts and resets, of firmware's own work, and of the slow ports. -/

namespace Sys2Proof.Machine

/-! Power and resets. -/

/-- Settles O36: each guard holds; a class that may take recovery's command is neither the BMC without a session nor a VF. -/
theorem startCommandsComplete : Obligations.StartCommandsComplete := by
  unfold Obligations.StartCommandsComplete
  refine ⟨?rise, ?fall, ?boot, ?resetN, ?reset, ?recovery⟩
  case rise => exact fun s testEn smbAddr railsOk hoff => congrArg _ (if_neg (by simp [hoff]))
  case fall => exact fun s hon => congrArg _ (if_pos hon)
  case boot =>
    intro s hboot
    refine ⟨fun railsOk hrail => ?retry, fun env hrail => ?start⟩
    case retry => exact congrArg _ (if_pos (by simp [hboot, hrail]))
    case start => exact exec_powerOnReset_of_boot env hboot hrail
  case resetN => exact fun s us env hus hrun => congrArg _ (if_pos (by simp [hus, hrun]))
  case reset =>
    intro s cls recovery env k hk hrun
    change execMgtReset cls recovery env s = _
    rw [execMgtReset, hk]
    exact congrArg _ (if_neg (by simp [hrun]))
  case recovery =>
    intro s cls c write env hc hopen hvf hrec hst hrun
    have go : (inRecovery s && regF s .mgt 0 0 3 0 == 3 && running s) = true := by simp [hrec, hst, hrun]
    change execMgtRecovCtl cls write env s = _
    rw [execMgtRecovCtl, hc]
    cases c with
    | bmcU => exact absurd rfl hopen
    | vf p => exact absurd rfl (hvf p)
    | _ => exact congrArg _ (if_pos go)

/-! Firmware's own work. -/

/-- Settles O37: each guard holds, and the fetch, the journal and the job are as named. -/
theorem housekeepingComplete : Obligations.HousekeepingComplete := by
  unfold Obligations.HousekeepingComplete
  refine ⟨?fetch, ?journal, ?scans, fun _ _ => rfl, ?sleep, ?deep⟩
  case fetch =>
    intro s lead manifest programs blocks j u hwant hj hup hfetch
    change execModelFetch lead manifest programs blocks s = _
    unfold execModelFetch
    rw [if_neg (by simp only [hwant, hj, hup, Option.isNone_some, Bool.not_true, Bool.or_self, Bool.false_eq_true, not_false_iff])]
    dsimp only
    rw [hfetch]
  case journal =>
    intro s x hup hwrite hx
    change execJournalWrite true s = _
    rw [execJournalWrite, if_neg (by simp [hup, hwrite]), hx]
  case scans =>
    intro s hclk
    exact ⟨congrArg _ (if_neg (by simp [hclk])), fun hrun => congrArg _ (if_pos (by rcases hrun with h | h <;> simp [hclk, h]))⟩
  case sleep =>
    intro s lead j hj
    refine ⟨fun hst hidle => ?sleep, fun hsaved => ?wake⟩
    case sleep =>
      change execPartitionSleep lead s = _
      rw [execPartitionSleep, hj]
      exact congrArg _ (if_pos (by simp [hst, hidle]))
    case wake =>
      change execPartitionWake lead s = _
      rw [execPartitionWake, hj]
      exact congrArg _ (if_neg (by simp [hsaved]))
  case deep => exact fun s p hp hlead hst hdue => congrArg _ (if_pos (by simp [hp, hlead, hst, hdue]))

/-! SMBus. -/

/-- Settles O38: the offset is well formed, and SMBus serves it. -/
theorem smbusCommandsComplete : Obligations.SmbusCommandsComplete := by
  unfold Obligations.SmbusCommandsComplete
  intro s
  have formed {off : Nat} (h4 : off % 4 = 0) (hoff : off < 0x4000000) : ¬ (off % 4 != 0 || decide (0x4000000 ≤ off)) = true := by
    simp only [h4, bne_self_eq_false, Bool.false_or, decide_eq_true_eq]
    omega
  refine ⟨?always, ?read, ?write, fun hready => ?snapshot, rfl⟩
  case always =>
    intro off o b h4 hoff haon
    change execRead32 off s = _
    rw [execRead32, if_neg (formed h4 hoff), haon]
  case read =>
    intro off h4 hoff haon hready hpath
    change execRead32 off s = _
    rw [execRead32, if_neg (formed h4 hoff), haon]
    dsimp only
    rw [if_neg (by simp [hready]), if_neg (by simp [hpath])]
  case write =>
    intro off value h4 hoff hready hpath
    change execWrite32 off value s = _
    rw [execWrite32, if_neg (formed h4 hoff), if_neg (by simp [hready]), if_neg (by simp [hpath])]
  case snapshot => exact congrArg _ (if_pos (by simp [hready]))

/-! JTAG. -/

/-- REGACC on an aligned offset while clocks run: a write, or a read into its result (R462). -/
theorem regAccess_of {s : State} {dr : BitVec 64} (hclk : s.pin.stopped = false) (hoff : fld dr.toNat 57 32 % 4 = 0) :
    (bitN dr.toNat 63 = true → regAccess s dr =
      { write4 s .jtag (fld dr.toNat 57 32) (dr.toNat % 2 ^ 32) with
        pin := { (write4 s .jtag (fld dr.toNat 57 32) (dr.toNat % 2 ^ 32)).pin with regFail := false } }) ∧
    (bitN dr.toNat 63 = false → regAccess s dr =
      { touchDesc s (read4 s .jtag (fld dr.toNat 57 32)).2 with
        pin := { (touchDesc s (read4 s .jtag (fld dr.toNat 57 32)).2).pin with
          regRead := BitVec.ofNat 32 (read4 s .jtag (fld dr.toNat 57 32)).1, regFail := false } }) := by
  have allowed : ¬ (s.pin.stopped || fld dr.toNat 57 32 % 4 != 0) = true := by simp [hclk, hoff]
  unfold regAccess
  dsimp only
  rw [if_neg allowed]
  exact ⟨fun hw => if_pos hw, fun hr => if_neg (by simp [hr])⟩

/-- Settles O39: each instruction by its definition; REGACC by `regAccess_of`. -/
theorem jtagCommandsComplete : Obligations.JtagCommandsComplete := by
  unfold Obligations.JtagCommandsComplete
  intro s
  refine ⟨fun pins => ⟨rfl, rfl, rfl, rfl⟩, rfl, rfl, rfl, ?bypass, ?access⟩
  case bypass => exact fun tdi => by cases tdi <;> rfl
  case access =>
    intro dr htest hclk hoff t
    have run : exec (.regacc dr) s = .next (regAccess t dr) := congrArg _ (if_neg (by simp [htest]))
    obtain ⟨write, read⟩ := regAccess_of (s := t) (dr := dr) hclk hoff
    exact ⟨fun hw => by rw [run, write hw], fun hr => by rw [run, read hr]⟩

end Sys2Proof.Machine
end

section
/-! SUPPORT. The tick of an empty queue (R361) and the state after reset. -/

namespace Sys2Proof.Machine

/-- Settles O41: one tick, whose rate is 40 ns and the frequency adjustment. -/
theorem anEmptyQueueTicks : Obligations.AnEmptyQueueTicks := by
  unfold Obligations.AnEmptyQueueTicks
  intro s hs
  refine ⟨s.tick, by simp only [step, hs], rfl, Nat.le_add_right _ _, ?frac, ?rate⟩
  case frac =>
    simp only [State.tick]
    omega
  case rate =>
    intro hadj hfrac
    simp only [State.tick, hadj]
    omega

/-- A register of a DBG page resets to the same value in every page. -/
theorem resetW_dbg_eq_page_zero (p o : Nat) : resetW ⟨.dbg, p, o, 0⟩ = resetW ⟨.dbg, 0, o, 0⟩ := by
  simp [resetW, fuseBits]

theorem regF_reset (b : Blk) (i o hi lo : Nat) : regF State.reset b i o hi lo = fld (resetW ⟨b, i, o, 0⟩).toNat hi lo := rfl

/-- Settles O47: by evaluation; the pages of DBG reset alike. -/
theorem theStateAfterReset : Obligations.TheStateAfterReset := by
  unfold Obligations.TheStateAfterReset
  refine ⟨rfl, rfl, rfl, rfl, ?fuses, rfl, Memory.wf_reset, ?ceiling, ?events, ?eventRing, ?pages, ?pulse⟩
  case fuses => unfold fusesOk; decide
  case ceiling => decide
  case events => decide
  case eventRing => decide
  case pages =>
    intro p _
    simp only [regF_reset, resetW_dbg_eq_page_zero p]
    decide
  case pulse => decide

end Sys2Proof.Machine
end

section
/-! SUPPORT. How far a store reaches (O53): LANE_STS by the address function of its stream, RAW_WRITE by the repair key. -/

namespace Sys2Proof.Machine

/-! A vector engine has no path to host memory (R26). -/

theorem badAddr_fails {α : Type} (a : Int) (y z : X) (v : α) : (Cx.badAddr a : M α).run y ≠ (.ok v, z) := by
  intro h
  cases h

theorem rd_host_fails {c : Cx} {part n : Nat} {a : Int} (hc : c.engine ≠ 3) (y z : X) (bs : List Byte) : (c.rd 4 part a n).run y ≠ (.ok bs, z) := by
  intro h
  rw [rd_host, if_pos (show (c.engine != 3) = true by simpa using hc)] at h
  split at h
  · exact badAddr_fails _ _ _ _ h
  · obtain ⟨_, _, h1, _⟩ := run_bind_ok _ _ _ _ _ h
    exact badAddr_fails _ _ _ _ h1

theorem wr_host_fails {c : Cx} {part : Nat} {a : Int} {bs : List Byte} (hc : c.engine ≠ 3) (y z : X) : (c.wr 4 part a bs).run y ≠ (.ok (), z) := by
  intro h
  rw [wr_host, if_pos (show (c.engine != 3) = true by simpa using hc)] at h
  split at h
  · exact badAddr_fails _ _ _ _ h
  · obtain ⟨_, _, h1, _⟩ := run_bind_ok _ _ _ _ _ h
    exact badAddr_fails _ _ _ _ h1

theorem wrBits_host_fails {c : Cx} {t : TView} {idx : List Nat} {v : Nat} (hc : c.engine ≠ 3) (ht : t.space = 4) (y z : X) :
    (c.wrBits t idx v).run y ≠ (.ok (), z) := by
  intro h
  have hspace : TV.space t.w = 4 := ht
  unfold Cx.wrBits at h
  simp only [Cx.wrT, Cx.rdT, streams_false t (.inr (.inr ht)), Bool.not_false, if_true, hspace] at h
  split at h
  · exact wr_host_fails hc _ _ h
  · obtain ⟨_, _, _, h1⟩ := run_bind_ok _ _ _ _ _ h
    obtain ⟨_, _, h2, _⟩ := run_bind_ok _ _ _ _ _ h1
    exact rd_host_fails hc _ _ _ h2

/-- A store of a lane word on a stream in host memory fails. -/
theorem storeW_host_fails {e : LEnv} {t : TView} {idx : List Nat} {w : Word} (hc : e.c.engine ≠ 3) (ht : t.space = 4) (y z : X)
    (r : Recent × Sticky) : (e.storeW t idx w).run y ≠ (.ok r, z) := by
  intro h
  unfold LEnv.storeW at h
  obtain ⟨_, _, _, h1⟩ := run_bind_ok _ _ _ _ _ h
  dsimp only at h1
  obtain ⟨_, _, h2, _⟩ := run_bind_ok _ _ _ _ _ h1
  unfold LEnv.storeBits at h2
  obtain ⟨_, _, _, h3⟩ := run_bind_ok _ _ _ _ _ h2
  obtain ⟨_, _, h4, _⟩ := run_bind_ok _ _ _ _ _ h3
  exact wrBits_host_fails hc ht _ _ h4

theorem opSts_host_fails {e : LEnv} {v : TView} (hst : e.stream = some v) (hc : e.c.engine ≠ 3) (hv : v.space = 4)
    (hact : e.act.getLsbD 0 = true) (y z : X) (r : LRes) : (opSts e).run y ≠ (.ok r, z) := by
  intro h
  unfold opSts at h
  rw [hst] at h
  dsimp only at h
  rw [if_pos hact] at h
  obtain ⟨_, _, h1, _⟩ := run_bind_ok _ _ _ _ _ h
  exact storeW_host_fails hc hv _ _ _ h1

/-! LANE_STS. -/

/-- What a LANE_STS that runs leaves in the memories: what they held, with the element's bytes where it stores. -/
theorem laneSts_mem {s t : State} {core : Nat} {o : LaneOp} {v : TView} {r : LRes} {x : X} (hst : (laneEnv s core o).stream = some v)
    (hv : v.space = 2 ∨ v.space = 3) (hrun : laneRuns s core o opSts = some (r, x)) (ht : exec (.laneSts core o) s = .next t) :
    t.mem = s.mem ∨ ∃ bs : List Byte,
      bs.length = ceilDiv ((v.bitAddr (streamIdx (laneEnv s core o).x v o.imm8)).2 + fmtBits v.fmt) 8 ∧
      t.mem = stored (laneEnv s core o).c s v.space (TV.part v.w) (v.bitAddr (streamIdx (laneEnv s core o).x v o.imm8)).1.toNat bs := by
  have hmem : t.mem = x.s.mem := by
    change execLaneSts core o s = _ at ht
    rw [execLaneSts, laneMem_of hrun] at ht
    cases ht
    rfl
  rw [hmem]
  exact opSts_mem _ v { s := s } x r hst (hv.imp_right .inl) (laneRuns_split hrun).2

/-! RAW_WRITE. -/

theorem wordsBytes_length (ws : List Word) : (wordsBytes ws).length = 4 * ws.length := by
  induction ws with
  | nil => rfl
  | cons w ws ih =>
    rw [wordsBytes, List.map_cons, List.flatten_cons, List.length_append, ← wordsBytes, ih, List.length_cons]
    simp only [wordBytes, natBytes_length]
    omega

/-- The key of a repair command is read from its address register, which no write of its command register changes. -/
theorem rprKey_setReg (s : State) (stack v : Nat) : rprKey (s.setReg .stk stack 0x100 v) stack = rprKey s stack := by
  unfold rprKey
  rw [reg_setReg_other _ _ _ _ _ _ _ _ (.inr (.inr (by decide)))]

/-- The memories after RAW_WRITE: as they were, or with at most 64 bytes stored at the key and the check bits that go with them. -/
theorem rawWrite_mem {s t : State} {cls : RClass} {stack : Nat} (ht : exec (.rawWrite cls stack) s = .next t) :
    t.mem = s.mem ∨ ∃ bs : List Byte, bs.length ≤ 64 ∧ ∃ synd,
      t.mem = { s.mem with dram := putBs s.mem.dram (rprKey s stack) bs, synd := synd } := by
  change execRawWrite cls stack s = _ at ht
  unfold execRawWrite rprRun at ht
  cases ht
  split
  · exact .inl rfl
  · dsimp only
    rw [State.setRegF, rprKey_setReg]
    split
    · refine .inr ⟨wordsBytes (List.take 16 _), ?_, _, rfl⟩
      rw [wordsBytes_length]
      simp only [List.length_take]
      omega
    · exact .inl rfl

/-- Settles O53: `laneSts_mem` and `rawWrite_mem` name the bytes stored, and `getB_putBs_other` leaves the rest; host memory has no path. -/
theorem storesTouchTheirBytesOnly : Obligations.StoresTouchTheirBytesOnly := by
  unfold Obligations.StoresTouchTheirBytesOnly
  refine ⟨?sts, ?host, ?raw⟩
  case sts =>
    intro s core o v r x t hst hrun ht
    refine ⟨fun hv => ?buffer, fun hv => ?scratch⟩
    case buffer =>
      obtain same | ⟨bs, hlen, hmem⟩ := laneSts_mem hst (.inl hv) hrun ht
      · simp [same]
      · rw [hmem, hv]
        exact ⟨fun k hk => getB_putBs_other bs _ _ k (by rw [hlen]; exact hk), fun k => ⟨rfl, rfl, rfl⟩⟩
    case scratch =>
      obtain same | ⟨bs, hlen, hmem⟩ := laneSts_mem hst (.inr hv) hrun ht
      · simp [same]
      · rw [hmem, hv]
        exact ⟨fun k hk => getB_putBs_other bs _ _ k (by rw [hlen]; exact hk), fun k => ⟨rfl, rfl, rfl⟩⟩
  case host =>
    intro s core o v hst hv hc hact
    cases hrun : laneRuns s core o opSts with
    | none => rfl
    | some p => exact absurd (laneRuns_split hrun).2 (opSts_host_fails hst hc hv hact _ _ _)
  case raw =>
    intro s cls stack t ht
    rw [rprKey_setReg]
    obtain same | ⟨bs, hlen, synd, hmem⟩ := rawWrite_mem ht
    · simp [same]
    · rw [hmem]
      exact ⟨fun k hk => getB_putBs_other bs _ _ k (by omega), fun k => ⟨rfl, rfl, rfl⟩⟩

end Sys2Proof.Machine
end

section
/-! SUPPORT. The power limit and the ceiling (O58), a trip (O59), and reads of counters (O60). -/

namespace Sys2Proof.Machine

/-! THM_PLIMIT and the ceiling. -/

/-- A value of 12 bits writes no reserved bit of THM_PLIMIT. -/
theorem badBits_plimit {v : Nat} (hv : v < 2 ^ 12) : badBits .thm 0x024 v = false := by
  have hmask : badBits .thm 0x024 v = (Nat.land v (2 ^ 12 - 1) != v) := rfl
  have hland : Nat.land v (2 ^ 12 - 1) = v := by
    change v &&& (2 ^ 12 - 1) = v
    rw [Nat.and_two_pow_sub_one_eq_mod, Nat.mod_eq_of_lt hv]
  rw [hmask, hland, bne_self_eq_false]

theorem writeWord_plimit (s : State) (v : Nat) : s.writeWord .pf .thm 0 0x024 v = s.setRegF .thm 0 0x024 11 0 (fld v 11 0) := rfl

theorem regAt_plimit {s : State} (hrec : inRecovery s = false) : regAt s .pf 0x200024 = some (.thm, 0, 0x024) := by
  have hoff : decodeOff 0x200024 = some (.thm, 0, 0x024) := by decide
  simp [regAt, hoff, hrec]

/-- A write of THM_PLIMIT by the PF with no reserved bit set. -/
theorem exec_registerWrite_plimit {s : State} {v : DWord} (hc : classNow s .pf = some .pf) (hrec : inRecovery s = false) (hv : v.toNat < 2 ^ 12) :
    exec (.registerWrite .pf 0x200024 v false) s = .next (thmWrite s .pf 0x024 v.toNat) := by
  change execRegisterWrite .pf 0x200024 v false s = _
  unfold execRegisterWrite
  rw [hc]
  dsimp only
  rw [if_neg (by decide), if_neg (by decide), Nat.mod_eq_of_lt (by omega), write4, regAt_plimit hrec]
  dsimp only
  rw [badBits_plimit hv]
  rfl

/-- Settles O58: the clamped value fits the field, which is the only one that is written. -/
theorem thePowerLimitStaysBelowTheCeiling : Obligations.ThePowerLimitStaysBelowTheCeiling := by
  unfold Obligations.ThePowerLimitStaysBelowTheCeiling
  refine ⟨?limit, ?ceiling⟩
  case limit =>
    intro s v hc hrec hv
    have hfit : max 1600 (min v.toNat (regF s .thm 0 0x028 11 0)) < 2 ^ 12 := by omega
    refine ⟨s.setRegF .thm 0 0x024 11 0 (fld (max 1600 (min v.toNat (regF s .thm 0 0x028 11 0))) 11 0), ?run, ?field, ?others, rfl⟩
    case run =>
      rw [exec_registerWrite_plimit hc hrec hv, thmWrite, if_pos (by decide), Nat.mod_eq_of_lt (b := 4096) (by omega)]
      dsimp only
      rw [writeWord_plimit]
      simp only [beq_iff_eq]
    case field =>
      rw [regF_setRegF_same _ _ _ _ _ _ _ (by decide) (by decide), fld]
      omega
    case others => exact fun k hk => rawW_setW_other s _ k _ hk
  case ceiling =>
    intro s h c watts hc
    refine ⟨fun hbad => ⟨_, ?malformed, rfl, rfl⟩, fun h1 h2 hlow => ⟨_, ?refused, rfl, rfl⟩⟩
    case malformed =>
      change Host.Outcome.next (fwReq s h 0x0053 4 _) = _
      exact next_fwReq hc (if_pos (by simpa using hbad))
    case refused =>
      change Host.Outcome.next (fwReq s h 0x0053 4 _) = _
      refine next_fwReq hc ?_
      rw [if_neg (by simp; omega), if_pos (by simp [hlow])]

/-! A trip. -/

theorem length_dieSensors_compute : (dieSensors 0).length = 80 := by decide

theorem length_dieSensors_other : ∀ d, d < 26 → 1 ≤ d → (dieSensors d).length = 6 ∨ (dieSensors d).length = 4 := by decide

/-- The hottest sensor of a die is one of the device's 220. -/
theorem hottest_lt {s : State} {d n : Nat} {q : Int} (h : hottest s d = some (n, q)) : n < 220 := by
  have inDevice : ∀ x, hottest s d = some x → x.1 < 220 := by
    unfold hottest
    refine List.foldlRecOn (motive := fun m : Option (Nat × Int) => ∀ x, m = some x → x.1 < 220) _ _ (by simp) fun m hm k hk => ?_
    have hlt : k < 220 := by
      simp only [dieSensors, List.mem_filter, List.mem_range] at hk
      exact hk.1.1
    dsimp only
    split
    · rintro x ⟨⟩
      exact hlt
    · split
      · rintro x ⟨⟩
        exact hlt
      · exact hm
  exact inDevice _ h

theorem tripOf_of_broken {s : State} {d : Nat} (h : (dieSensors d).length < 4 * brokenOf s d) : tripOf s d = some 0xFF := if_pos h

theorem tripOf_of_hot {s : State} {d n : Nat} {q : Int} (hb : 4 * brokenOf s d ≤ (dieSensors d).length) (hh : hottest s d = some (n, q))
    (hq : bandLow d 4 ≤ q) : tripOf s d = some n := by
  unfold tripOf
  rw [if_neg (by omega), hh]
  exact if_pos hq

/-- THM_TRIP stands in a block that clocks stopping leaves on, and no other register of a sample is written there. -/
theorem reg_trip (s : State) (d n : Nat) : reg (s.trip d n) .thm 0 0x018 = (2 ^ 31 + d * 256 + n) % 2 ^ 32 := by
  have hdark (t : State) : reg t.dark .thm 0 0x018 = reg t .thm 0 0x018 := by
    unfold reg rawW State.dark
    dsimp only
    rw [lookupR_filter _ aonKey, if_pos (by decide)]
  have hbands (t : State) : reg t.showBands .thm 0 0x018 = reg t .thm 0 0x018 := by
    rw [showBands_eq, reg_setClock _ _ (by decide), reg_showStatus, reg_setReg_other _ _ _ _ _ _ _ _ (by decide)]
    simp [State.showBroken, State.setRegF, reg_setReg_other]
  have hpin (t : State) (x : PinState) : reg { t with pin := x } .thm 0 0x018 = reg t .thm 0 0x018 := rfl
  have hthm (t : State) (x : ThmState) : reg { t with thm := x } .thm 0 0x018 = reg t .thm 0 0x018 := rfl
  unfold State.trip
  rw [hpin, hdark, hbands, hthm, reg_setReg_same]

theorem bandOf_trip (s : State) (d n : Nat) : bandOf (s.trip d n) d = 4 := by
  have hthm : (s.trip d n).thm = { s.thm with band := putT s.thm.band d 4 } := thm_showBands _
  unfold bandOf
  rw [hthm, getT_putT_same]
  rfl

/-- What a trip leaves, whatever the sample left before it: THERMTRIP#, clocks stopped, the die's band and THM_TRIP; stack contents and jobs are
gone, fuses and time kept. -/
theorem trip_leaves (s u : State) {d n : Nat} (hd : d < 26) (hn : n < 256) :
    let t := resetTo s { u.trip d n with time := s.time }
    t.pin.thermtrip = true ∧ t.pin.stopped = true ∧ bandOf t d = 4 ∧ reg t .thm 0 0x018 = 2 ^ 31 + d * 256 + n ∧ t.mem.dram = [] ∧ t.jobs = [] ∧
      t.fuse = s.fuse ∧ t.time = s.time :=
  ⟨rfl, rfl, bandOf_trip u d n, (reg_trip u d n).trans (by omega), rfl, rfl, rfl, rfl⟩

/-- Settles O59: broken sensors or the hottest one trip the die (`tripOf_of_broken`, `tripOf_of_hot`), and `trip_leaves` says what is left. -/
theorem aTripStopsTheDevice : Obligations.ATripStopsTheDevice := by
  unfold Obligations.ATripStopsTheDevice
  refine ⟨?compute, ?other, ?trip⟩
  case compute =>
    intro k
    rw [length_dieSensors_compute]
    omega
  case other =>
    intro d h1 h26 k
    have hlen := length_dieSensors_other d h26 h1
    omega
  case trip =>
    intro s rs d n hup hd hfirst hwhy
    have htrip : tripOf (sampleAll s rs) d = some n := by
      rcases hwhy with ⟨hbroken, rfl⟩ | ⟨hfew, q, hhot, hq⟩
      · exact tripOf_of_broken hbroken
      · exact tripOf_of_hot hfew hhot hq
    have hn : n < 256 := by
      rcases hwhy with ⟨-, rfl⟩ | ⟨-, q, hhot, -⟩
      · decide
      · exact Nat.lt_trans (hottest_lt hhot) (by decide)
    exact ⟨_, exec_sensorSample_of_trip hup hd htrip hfirst, trip_leaves s _ hd hn⟩

/-! Counters of a DBG page. -/

/-- Offsets of the counters of a DBG page that a read of the PF clears, but for DBG_REC_BAD (Table 17.9). -/
def dbgCounters : List Nat := [0x014, 0x140, 0x144, 0x148]

theorem decodeOff_dbg {p o : Nat} (hp : p < 16) (ho : o < 0x1000) : decodeOff (0xC00000 + p * 0x20000 + o) = some (.dbg, p, o) := by
  unfold decodeOff
  dsimp only
  rw [if_pos (show 0xC00000 + p * 0x20000 + o < 0x4000000 by omega), Nat.mod_eq_of_lt (show 0xC00000 + p * 0x20000 + o < 0x2000000 by omega)]
  rw [if_neg (by omega), if_neg (by omega), if_neg (by omega), if_neg (by omega), if_neg (by omega), if_neg (by omega), if_neg (by omega),
    if_pos (by omega), if_pos (by omega), show (0xC00000 + p * 0x20000 + o - 0xC00000) / 0x20000 = p by omega,
    show (0xC00000 + p * 0x20000 + o) % 0x1000 = o by omega]

theorem counter_lt {o : Nat} (ho : o ∈ dbgCounters) : o < 0x1000 ∧ o % 4 = 0 ∧ o ≠ 0x018 := by
  revert o
  decide

/-- A counter is one field that clears on a read, over the whole word. -/
theorem findReg_counter {o : Nat} (ho : o ∈ dbgCounters) : findReg .dbg o = some ⟨o, 1, 4, [rc 31 0]⟩ := by
  revert o
  decide

theorem readReg_counter (s : State) (c : RClass) (p : Nat) {o : Nat} (ho : o ∈ dbgCounters) :
    readReg s c .dbg p o = (rawW s ⟨.dbg, p, o, copyOf c⟩).toNat := by
  obtain ⟨-, -, hfill⟩ := counter_lt ho
  have hfield : fld (rawW s ⟨.dbg, p, o, copyOf c⟩).toNat 31 0 = (rawW s ⟨.dbg, p, o, copyOf c⟩).toNat := by
    unfold fld
    omega
  have hword : readWord s c .dbg p o = (rawW s ⟨.dbg, p, o, copyOf c⟩).toNat := by
    unfold readWord
    simp only [findReg_counter ho, rc, List.foldl_cons, List.foldl_nil, hfield]
    omega
  simp [readReg, mbxReg, liveWord, hfill, stackBand, hword]

/-- A read by the PF leaves its copy of a counter zero. -/
theorem clearRC_counter_pf (s : State) (p : Nat) {o : Nat} (ho : o ∈ dbgCounters) : s.clearRC .pf .dbg p o = s.setW ⟨.dbg, p, o, 0⟩ 0#32 := by
  have hzero (w : Word) : setFld w.toNat 31 0 0 = 0 := by
    unfold setFld
    omega
  simp [State.clearRC, findReg_counter ho, rc, copyOf, hzero]

/-- A read by the BMC or JTAG clears nothing. -/
theorem clearRC_counter_debug (s : State) {c : RClass} (hc : c = .bmc ∨ c = .jtag) (p : Nat) {o : Nat} (ho : o ∈ dbgCounters) :
    s.clearRC c .dbg p o = s := by
  rcases hc with rfl | rfl <;> simp [State.clearRC, findReg_counter ho]

theorem regAt_dbg {s : State} {c : RClass} {off p o : Nat} (hc : c = .pf ∨ c = .bmc ∨ c = .jtag) (hrec : inRecovery s = false)
    (hoff : decodeOff off = some (.dbg, p, o)) : regAt s c off = some (.dbg, p, o) := by
  rcases hc with rfl | rfl | rfl <;> simp [regAt, hoff, hrec]

/-- The read of a counter: the reader's copy, and what the read does to it (R419). -/
theorem read4_counter {s : State} {c : RClass} {p o : Nat} (hc : c = .pf ∨ c = .bmc ∨ c = .jtag) (hrec : inRecovery s = false) (hp : p < 16)
    (ho : o ∈ dbgCounters) :
    read4 s c (0xC00000 + p * 0x20000 + o) = ((rawW s ⟨.dbg, p, o, copyOf c⟩).toNat, s.clearRC c .dbg p o) := by
  rw [read4, regAt_dbg hc hrec (decodeOff_dbg hp (counter_lt ho).1)]
  simp [findReg_counter ho, readReg_counter s c p ho, State.afterRead, mbxReg]

/-- The command: a completion with the reader's copy. -/
theorem exec_rcRead_counter {s : State} {c : RClass} {p o : Nat} (hc : c = .pf ∨ c = .bmc ∨ c = .jtag) (hnow : classNow s c = some c)
    (hrec : inRecovery s = false) (hp : p < 16) (ho : o ∈ dbgCounters) :
    exec (.rcRead c (0xC00000 + p * 0x20000 + o) false) s =
      .next (touchDesc s ((s.clearRC c .dbg p o).complete (natBytes 4 (rawW s ⟨.dbg, p, o, copyOf c⟩).toNat) false)) := by
  have hoff : (0xC00000 + p * 0x20000 + o) % 4 = 0 := by
    obtain ⟨-, h4, -⟩ := counter_lt ho
    omega
  rw [exec_rcRead_aligned hnow hoff, read4_counter hc hrec hp ho]

theorem touchDesc_complete_leaves (s t : State) (bs : List Byte) :
    (touchDesc s (t.complete bs false)).pcie.cpl = [(bs, false)] ∧ (touchDesc s (t.complete bs false)).regs = t.regs ∧
      (touchDesc s (t.complete bs false)).mem = t.mem ∧ ∀ k, rawW (touchDesc s (t.complete bs false)) k = rawW t k :=
  ⟨rfl, rfl, rfl, fun _ => rfl⟩

/-- Settles O60: the completion carries the reader's copy, and `clearRC` writes the PF's alone. -/
theorem aRcReadClearsTheReadersCopy : Obligations.ARcReadClearsTheReadersCopy := by
  unfold Obligations.ARcReadClearsTheReadersCopy
  intro s p o hp ho hrec k
  refine ⟨?pf, ?debug⟩
  case pf =>
    intro hc
    have hrun := exec_rcRead_counter (.inl rfl) hc hrec hp ho
    rw [clearRC_counter_pf s p ho] at hrun
    obtain ⟨hcpl, -, hmem, hraw⟩ := touchDesc_complete_leaves s (s.setW (k 0) 0#32) (natBytes 4 (rawW s (k 0)).toNat)
    exact ⟨_, hrun, hcpl, (hraw (k 0)).trans (rawW_setW_same s (k 0) _), fun j hj => (hraw j).trans (rawW_setW_other s (k 0) j _ hj), hmem⟩
  case debug =>
    intro c hdebug hc
    obtain ⟨hcpl, hregs, hmem, -⟩ := touchDesc_complete_leaves s s (natBytes 4 (rawW s (k 2)).toNat)
    have hcopy : copyOf c = 2 := by rcases hdebug with rfl | rfl <;> rfl
    refine ⟨_, exec_rcRead_counter (.inr hdebug) hc hrec hp ho, ?_⟩
    rw [clearRC_counter_debug s hdebug p ho, hcopy]
    exact ⟨hcpl, hregs, hmem⟩

end Sys2Proof.Machine
end
